-- ==== Sys2Proof/Word.lean ====
section
/-! DEFINITION. Word: the word types of the machine. -/

namespace Sys2Proof

/-- A byte, the unit of memory (R5). -/
abbrev Byte := BitVec 8

/-- A 64-bit word (R5): the program counter, pointers and the widest register. -/
abbrev Word := BitVec 64

end Sys2Proof
end

