-- ==== Sys2Proof/Syntax.lean ====
section
/-! DEFINITION. Syntax: the instruction set as one inductive type.
One constructor for each row of the opcode table: the instruction words of R72 to R87, then the steps of the part's
engines and of the parties outside it, which have no word. The arguments of such a step are what the environment
chooses for it (which core, which slot, which packet). -/

namespace Sys2Proof

/-- A 6-bit name field: n0 to n63 (R74). -/
abbrev Name := Fin 64
/-- A vector register v0 to v31 (R75). -/
abbrev VReg := Fin 32
/-- A broadcast scalar: n0 to n31 (R75, R176). -/
abbrev LowName := Fin 32
/-- The lookahead field of forms L and M (R76). -/
abbrev Look := Fin 16
/-- A token k0 to k7 (R268). -/
abbrev Tok := Fin 8
/-- A group handle g0 to g3 (R145). -/
abbrev Grp := Fin 4

/-- A vector operand field (R75): a register, or a scalar name broadcast to all lanes. -/
inductive VOp where
  | reg (v : VReg)
  | bcast (n : LowName)
deriving DecidableEq, Repr

/-- Scope codes 0 to 5 (R77). -/
inductive Scope where
  | core | quad | die | dev | host | fab
deriving DecidableEq, Repr

/-- Rounding-mode codes 0 to 4 (R55). -/
inductive RMode where
  | rne | rtz | rdn | rup | sr
deriving DecidableEq, Repr

/-- Overflow modes (R35, R43). -/
inductive OvMode where
  | wrap | sat | trap
deriving DecidableEq, Repr

/-- Format tags, codes 0 to 15 (R68). -/
inductive Tag where
  | raw | i8 | i16 | i32 | fp32 | bf16 | fp16 | e4m3 | e5m2 | dx8 | dx6 | dx4 | mxe4m3 | mxe5m2 | mxfp4 | mxint8
deriving DecidableEq, Repr

/-- Memory formats of VLDX and VSTX (R77): a tag, or MXFP6 with E2M3 (a) or E3M2 (b) elements. -/
inductive MemFmt where
  | tag (t : Tag)
  | mxfp6a
  | mxfp6b
deriving DecidableEq, Repr

/-- WAITK kinds (R82). -/
inductive TokKind where
  | src | vis | both
deriving DecidableEq, Repr

/-- The control registers (R78). -/
inductive Csr where
  | trapc | trappc | trapx | trapa | trapv | traprec | ctxid | privl | rottab | splitc | dbgctl | srngc
  | tbase | errhead | errtail | errstat | lcmap | temps | volts | procm | dbga | dbgm
deriving DecidableEq, Repr

/-- A reservation home (R224): a die L2 slice, a base die, the SRAM controller of a quad, or the homes of other devices. -/
inductive ResHome where
  | slice (die slice : Nat)
  | base (b : Nat)
  | quad (q : Nat)
  | remote
deriving DecidableEq, Repr

/-- How a flume operation behaves where it would wait (R231); or the withdrawal from the wait of an earlier one (R328). -/
inductive FlumeForm where
  | block | nowait | limited | withdraw
deriving DecidableEq, Repr

/-- A flume operation asked for by a party outside this device's threads (R258, R356): the aqueduct port it came over (none:
the host port), the context it acts as, its form, the size code of its handle (R251), the words of the element of an enqueue, and the
serial number under which it waits. -/
structure FlumeReq where
  port : Option Nat
  rctx : Nat
  form : FlumeForm
  size : Nat
  elem : List (BitVec 64)
  who : Nat
deriving DecidableEq, Repr

/-- What a request that arrives at the host port or at an aqueduct port asks of the home that it reaches (R354, R356): bytes
read or written; an atomic or a reduction; a contribution to a reduction slot; the group, basin, full/empty and reservation
operations of another device's thread, and its withdrawal from a wait at such a word. -/
inductive BusOp where
  | read | write
  | add | min | minu | max | maxu | and | or | xor | swap
  | cas (old : BitVec 64)
  | rfadd (kind : Fin 3)
  | join (scope : Scope) | leave | arrive
  | barm | bclr
  | bwait (phase : Nat)
  | ldff | lde | stf | stff | fempty | fefill
  | reserve | conditional | exclusiveEnd
  | withdraw
deriving DecidableEq, Repr

/-- A request that arrives at the host port or at an aqueduct port (R323, R355, R356): what it asks, where, its bytes (of a
read: as many as it reads), the context it acts as, and the serial number under which it waits. -/
structure BusReq where
  op : BusOp
  addr : Nat
  bytes : List (BitVec 8)
  rctx : Nat
  who : Nat
deriving DecidableEq, Repr

/-- Who reads or writes a device register (R385). -/
inductive Agent where
  | host | management
  | appCore (n : Nat)
deriving DecidableEq, Repr

/-- A device register as one agent names it: the agent and the register's offset (R385). -/
structure AgentReg where
  agent : Agent
  off : Nat
deriving DecidableEq, Repr

/-- An offtake packet as it arrives (R357, R360): the port it came over (none: from this device), its eight words,
and the serial number of the sender's request. -/
structure Arrival where
  port : Option Nat
  packet : List (BitVec 64)
  who : Nat
deriving DecidableEq, Repr

/-- What another device's rank contributes to a collective (R365): its rank, whether the fields that must agree do,
and its input elements. -/
structure RemoteRank where
  rank : Nat
  agrees : Bool
  elems : List (BitVec 64)
deriving DecidableEq, Repr

/-- What the boot ROM or stage 2 finds in one image (R376). -/
structure ImageReport where
  present : Bool
  ecdsaOk : Bool
  lmsOk : Bool
  version : Nat
  minimum : Nat
deriving DecidableEq, Repr

/-- What a start finds (R375 to R379, R383, R386). -/
structure BootReport where
  stage1 : ImageReport
  stage2 : List ImageReport
  deadDies : List Nat
  deadStacks : List Nat
  deadBaseDies : List Nat
  columnFails : List (Nat × Nat)
  expansions : List Nat
deriving DecidableEq, Repr

/-- The context commands (R339). -/
inductive CtxCmd where
  | preempt | ctxsv | ctxld
deriving DecidableEq, Repr

/-- The instruction set: one constructor for each row of the opcode table. -/
inductive Instr where
  /-- ADD (R104): Adds two integer names exactly and narrows the sum into the destination. -/
  | add (d : Name) (a : Name) (b : Name)
  /-- SUB (R104): Subtracts two integer names exactly and narrows the difference. -/
  | sub (d : Name) (a : Name) (b : Name)
  /-- MUL (R104): Multiplies two integer names exactly and narrows the product. -/
  | mul (d : Name) (a : Name) (b : Name)
  /-- MULH (R104): Stores the part of the exact product above the destination width. -/
  | mulh (d : Name) (a : Name) (b : Name)
  /-- DIV (R104): Signed division truncated toward zero, trapping on a zero divisor. -/
  | div (d : Name) (a : Name) (b : Name)
  /-- DIVU (R104): Unsigned division of the source patterns. -/
  | divu (d : Name) (a : Name) (b : Name)
  /-- REM (R104): Signed remainder with the sign of the dividend. -/
  | rem (d : Name) (a : Name) (b : Name)
  /-- REMU (R104): Unsigned remainder of the source patterns. -/
  | remu (d : Name) (a : Name) (b : Name)
  /-- AND (R104): Bitwise AND on infinite two's-complement patterns. -/
  | and (d : Name) (a : Name) (b : Name)
  /-- OR (R104): Bitwise OR on infinite patterns. -/
  | or (d : Name) (a : Name) (b : Name)
  /-- XOR (R104): Bitwise XOR on infinite patterns. -/
  | xor (d : Name) (a : Name) (b : Name)
  /-- ANDN (R104): AND of a with the complement of b. -/
  | andn (d : Name) (a : Name) (b : Name)
  /-- SHL (R105): Shifts left by a clamped amount and narrows. -/
  | shl (d : Name) (a : Name) (b : Name)
  /-- SHR (R105): Logical right shift of the source pattern. -/
  | shr (d : Name) (a : Name) (b : Name)
  /-- SRA (R105): Arithmetic right shift of the source value. -/
  | sra (d : Name) (a : Name) (b : Name)
  /-- ROL (R105): Rotates the source pattern left within its width. -/
  | rol (d : Name) (a : Name) (b : Name)
  /-- MIN (R104): Signed minimum of two values. -/
  | min (d : Name) (a : Name) (b : Name)
  /-- MINU (R104): Unsigned minimum of two patterns. -/
  | minu (d : Name) (a : Name) (b : Name)
  /-- MAX (R104): Signed maximum of two values. -/
  | max (d : Name) (a : Name) (b : Name)
  /-- MAXU (R104): Unsigned maximum of two patterns. -/
  | maxu (d : Name) (a : Name) (b : Name)
  /-- CEQ (R104): Stores 1 when the values are equal, else 0. -/
  | ceq (d : Name) (a : Name) (b : Name)
  /-- CNE (R104): Stores 1 when the values differ, else 0. -/
  | cne (d : Name) (a : Name) (b : Name)
  /-- CLT (R104): Stores 1 when a is less than b by value. -/
  | clt (d : Name) (a : Name) (b : Name)
  /-- CLTU (R104): Stores 1 when a is less than b by pattern. -/
  | cltu (d : Name) (a : Name) (b : Name)
  /-- CLE (R104): Stores 1 when a is at most b by value. -/
  | cle (d : Name) (a : Name) (b : Name)
  /-- CLEU (R104): Stores 1 when a is at most b by pattern. -/
  | cleu (d : Name) (a : Name) (b : Name)
  /-- SEL (R104): Selects a or b according to the Z flag. -/
  | sel (d : Name) (a : Name) (b : Name)
  /-- BFX (R106): Extracts a bit field described by b. -/
  | bfx (d : Name) (a : Name) (b : Name)
  /-- BFI (R106): Inserts a bit field into the destination pattern without narrowing. -/
  | bfi (d : Name) (a : Name) (b : Name)
  /-- CLZ (R104): Counts leading zeros of the source pattern. -/
  | clz (d : Name) (a : Name)
  /-- POPC (R104): Counts one bits of the source pattern. -/
  | popc (d : Name) (a : Name)
  /-- ABS (R104): Absolute value, narrowed. -/
  | abs (d : Name) (a : Name)
  /-- NEG (R104): Negation, narrowed. -/
  | neg (d : Name) (a : Name)
  /-- NOT (R104): Bitwise complement as -a-1, narrowed. -/
  | not (d : Name) (a : Name)
  /-- MOV (R107): Copies a value, or a float pattern between names of one float kind. -/
  | mov (d : Name) (a : Name)
  /-- ADDI (R108): Adds a signed immediate and narrows. -/
  | addi (d : Name) (a : Name) (imm : Int)
  /-- ANDI (R108): AND with a signed immediate. -/
  | andi (d : Name) (a : Name) (imm : Int)
  /-- ORI (R108): OR with a signed immediate. -/
  | ori (d : Name) (a : Name) (imm : Int)
  /-- XORI (R108): XOR with a signed immediate. -/
  | xori (d : Name) (a : Name) (imm : Int)
  /-- SHLI (R108): Shifts left by an immediate amount. -/
  | shli (d : Name) (a : Name) (imm : Nat)
  /-- SHRI (R108): Logical right shift by an immediate amount. -/
  | shri (d : Name) (a : Name) (imm : Nat)
  /-- SRAI (R108): Arithmetic right shift by an immediate amount. -/
  | srai (d : Name) (a : Name) (imm : Nat)
  /-- CLTI (R108): Stores 1 when a is less than the immediate. -/
  | clti (d : Name) (a : Name) (imm : Int)
  /-- LDK (R109): Loads a signed 19-bit constant. -/
  | ldk (d : Name) (imm : Int)
  /-- LDKS (R109): Shifts the name left 19 bits and adds an unsigned constant. -/
  | ldks (d : Name) (imm : Nat)
  /-- RESIZE (R42): Changes the width of one name and requests repacking of the span. -/
  | resize (d : Name) (wid : Nat)
  /-- MODE (R43): Sets the overflow mode of one name. -/
  | mode (d : Name) (md : OvMode)
  /-- WIDTH (R110): Reads back a name's current descriptor entry. -/
  | width (d : Name) (a : Name)
  /-- MFF (R111): Copies the flags word into a name. -/
  | mff (d : Name)
  /-- MTF (R111): Writes all five flags from a name. -/
  | mtf (a : Name)
  /-- SFCLR (R111): Clears the sticky SF flag. -/
  | sfclr
  /-- BEQ (R112): Branches when the values are equal. -/
  | beq (a : Name) (b : Name) (off : Int)
  /-- BNE (R112): Branches when the values differ. -/
  | bne (a : Name) (b : Name) (off : Int)
  /-- BLT (R112): Branches when a is less than b by value. -/
  | blt (a : Name) (b : Name) (off : Int)
  /-- BGE (R112): Branches when a is at least b by value. -/
  | bge (a : Name) (b : Name) (off : Int)
  /-- BLTU (R112): Branches when a is less than b by pattern. -/
  | bltu (a : Name) (b : Name) (off : Int)
  /-- BGEU (R112): Branches when a is at least b by pattern. -/
  | bgeu (a : Name) (b : Name) (off : Int)
  /-- BSF (R112): Branches when SF is set. -/
  | bsf (off : Int)
  /-- JMP (R113): Jumps by a halfword offset. -/
  | jmp (off : Int)
  /-- CALL (R113): Writes the return address to lk and jumps by a halfword offset. -/
  | call (off : Int)
  /-- JMPR (R114): Jumps to a name plus a byte offset. -/
  | jmpr (a : Name) (imm : Int)
  /-- CALLR (R114): Calls through a name plus a byte offset, writing lk. -/
  | callr (a : Name) (imm : Int)
  /-- FADD (R115): Float addition rounded once into the destination format. -/
  | fadd (d : Name) (a : Name) (b : Name)
  /-- FSUB (R115): Float subtraction rounded once. -/
  | fsub (d : Name) (a : Name) (b : Name)
  /-- FMUL (R115): Float multiplication rounded once. -/
  | fmul (d : Name) (a : Name) (b : Name)
  /-- FDIV (R115): Float division rounded once. -/
  | fdiv (d : Name) (a : Name) (b : Name)
  /-- FSQRT (R115): Float square root rounded once. -/
  | fsqrt (d : Name) (a : Name)
  /-- FMIN (R116): IEEE minimumNumber of two floats. -/
  | fmin (d : Name) (a : Name) (b : Name)
  /-- FMAX (R116): IEEE maximumNumber of two floats. -/
  | fmax (d : Name) (a : Name) (b : Name)
  /-- FCEQ (R115): Stores 1 into an integer name when two floats are equal. -/
  | fceq (d : Name) (a : Name) (b : Name)
  /-- FCLT (R115): Stores 1 when float a is less than b. -/
  | fclt (d : Name) (a : Name) (b : Name)
  /-- FCLE (R115): Stores 1 when float a is at most b. -/
  | fcle (d : Name) (a : Name) (b : Name)
  /-- FCLASS (R116): Stores a one-hot class of a float value. -/
  | fclass (d : Name) (a : Name)
  /-- FNEG (R116): Negates a float. -/
  | fneg (d : Name) (a : Name)
  /-- FABS (R116): Absolute value of a float. -/
  | fabs (d : Name) (a : Name)
  /-- FCVT (R115): Converts between float formats under a rounding mode. -/
  | fcvt (d : Name) (a : Name) (rm : RMode)
  /-- FCVTI (R71): Converts a float to an integer name under a rounding mode. -/
  | fcvti (d : Name) (a : Name) (rm : RMode)
  /-- FCVTF (R115): Converts an integer to a float name under a rounding mode. -/
  | fcvtf (d : Name) (a : Name) (rm : RMode)
  /-- FMA (R118): Fused multiply-add with one rounding, long-latency. -/
  | fma (d : Name) (a : Name) (b : Name) (look : Look)
  /-- FMS (R118): Fused multiply-subtract with one rounding. -/
  | fms (d : Name) (a : Name) (b : Name) (look : Look)
  /-- FNMA (R118): Fused negated multiply-add with one rounding. -/
  | fnma (d : Name) (a : Name) (b : Name) (look : Look)
  /-- BMOV (R120): Copies a block of bytes in resumable steps. -/
  | bmov (d : Name) (a : Name) (b : Name)
  /-- BSET (R120): Fills a block of bytes in resumable steps. -/
  | bset (d : Name) (a : Name) (b : Name)
  /-- TRAP (R122): Raises TRAP_INSTR with its immediate in X0. -/
  | trap (imm : Nat)
  /-- ERET (R28): Returns from a trap, restoring flags and privilege. -/
  | eret
  /-- CSRR (R122): Reads a control register into a name. -/
  | csrr (d : Name) (csr : Csr)
  /-- CSRW (R123): Writes a control register from a name. -/
  | csrw (d : Name) (csr : Csr)
  /-- BRK (R122): Raises BREAKPOINT. -/
  | brk
  /-- FENCEI (R124): Makes later fetches observe code writes (32-bit form). -/
  | fencei
  /-- LDB (R237): Loads a signed byte. -/
  | ldb (d : Name) (a : Name) (imm : Int) (look : Look)
  /-- LDH (R237): Loads a signed halfword. -/
  | ldh (d : Name) (a : Name) (imm : Int) (look : Look)
  /-- LDW (R237): Loads a signed word. -/
  | ldw (d : Name) (a : Name) (imm : Int) (look : Look)
  /-- LDD (R237): Loads 8 bytes by the destination's kind. -/
  | ldd (d : Name) (a : Name) (imm : Int) (look : Look)
  /-- LDBU (R237): Loads an unsigned byte. -/
  | ldbu (d : Name) (a : Name) (imm : Int) (look : Look)
  /-- LDHU (R237): Loads an unsigned halfword. -/
  | ldhu (d : Name) (a : Name) (imm : Int) (look : Look)
  /-- LDWU (R237): Loads an unsigned word. -/
  | ldwu (d : Name) (a : Name) (imm : Int) (look : Look)
  /-- LDFF (R238): Loads a word once it is full, leaving it full; may park. -/
  | ldff (d : Name) (a : Name) (imm : Int)
  /-- STB (R239): Stores one byte. -/
  | stb (d : Name) (a : Name) (imm : Int) (look : Look)
  /-- STH (R239): Stores two bytes. -/
  | sth (d : Name) (a : Name) (imm : Int) (look : Look)
  /-- STW (R239): Stores four bytes. -/
  | stw (d : Name) (a : Name) (imm : Int) (look : Look)
  /-- STD (R239): Stores eight bytes. -/
  | std (d : Name) (a : Name) (imm : Int) (look : Look)
  /-- VLD (R241): Loads a vector register image and sets its tag. -/
  | vld (d : VReg) (a : Name) (tag : Tag) (look : Look)
  /-- VST (R241): Stores a vector register image after a tag check. -/
  | vst (d : VReg) (a : Name) (tag : Tag) (look : Look)
  /-- VLDX (R242): Loads a register from a memory format with separate exponents or scales. -/
  | vldx (d : VReg) (a : Name) (fmt : MemFmt) (look : Look)
  /-- VSTX (R242): Stores a register in a memory format with separate exponents or scales. -/
  | vstx (d : VReg) (a : Name) (fmt : MemFmt) (look : Look)
  /-- VLDB (R243): Loads one lane and replicates it to all lanes. -/
  | vldb (d : VReg) (a : Name) (tag : Tag) (look : Look)
  /-- VGATH (R244): Gathers lanes from indexed addresses. -/
  | vgath (d : VReg) (a : Name) (tag : Tag) (look : Look)
  /-- VSCAT (R244): Scatters lanes to indexed addresses in lane order. -/
  | vscat (d : VReg) (a : Name) (tag : Tag) (look : Look)
  /-- LDE (R246): Loads a full word and makes it empty; may park. -/
  | lde (d : Name) (a : Name) (imm : Int)
  /-- STF (R246): Stores into an empty word and makes it full; may park. -/
  | stf (d : Name) (a : Name) (imm : Int)
  /-- STFF (R246): Stores a word and makes it full unconditionally. -/
  | stff (d : Name) (a : Name) (imm : Int) (look : Look)
  /-- FEQ (R246): Reads whether a word is full. -/
  | feq (d : Name) (a : Name) (imm : Int) (look : Look)
  /-- FEMPTY (R246): Marks a word empty. -/
  | fempty (a : Name) (imm : Int) (look : Look)
  /-- FEFILL (R246): Marks a word full. -/
  | fefill (a : Name) (imm : Int) (look : Look)
  /-- AADD (R247): Atomic add returning the prior word. -/
  | aadd (d : Name) (a : Name) (b : Name) (scope : Scope)
  /-- AMIN (R247): Atomic signed minimum. -/
  | amin (d : Name) (a : Name) (b : Name) (scope : Scope)
  /-- AMINU (R247): Atomic unsigned minimum. -/
  | aminu (d : Name) (a : Name) (b : Name) (scope : Scope)
  /-- AMAX (R247): Atomic signed maximum. -/
  | amax (d : Name) (a : Name) (b : Name) (scope : Scope)
  /-- AMAXU (R247): Atomic unsigned maximum. -/
  | amaxu (d : Name) (a : Name) (b : Name) (scope : Scope)
  /-- AAND (R247): Atomic bitwise AND. -/
  | aand (d : Name) (a : Name) (b : Name) (scope : Scope)
  /-- AOR (R247): Atomic bitwise OR. -/
  | aor (d : Name) (a : Name) (b : Name) (scope : Scope)
  /-- AXOR (R247): Atomic bitwise XOR. -/
  | axor (d : Name) (a : Name) (b : Name) (scope : Scope)
  /-- ASWP (R247): Atomic swap. -/
  | aswp (d : Name) (a : Name) (b : Name) (scope : Scope)
  /-- ACAS (R247): Atomic compare-and-swap. -/
  | acas (d : Name) (a : Name) (b : Name) (scope : Scope)
  /-- RADD (R248): Fire-and-forget reduction add. -/
  | radd (a : Name) (b : Name) (scope : Scope)
  /-- RMIN (R248): Fire-and-forget signed minimum reduction. -/
  | rmin (a : Name) (b : Name) (scope : Scope)
  /-- RMAX (R248): Fire-and-forget signed maximum reduction. -/
  | rmax (a : Name) (b : Name) (scope : Scope)
  /-- ROR (R248): Fire-and-forget OR reduction. -/
  | ror (a : Name) (b : Name) (scope : Scope)
  /-- RFADD (R249): Contributes an exact float value to a reduction slot. -/
  | rfadd (a : Name) (b : Name) (scope : Scope)
  /-- LRW (R225): Queues for a reservation on a word and parks until granted. -/
  | lrw (d : Name) (a : Name) (scope : Scope)
  /-- SCH (R226): Releases, stores to a held word and hands it to the next waiter. -/
  | sch (a : Name) (b : Name) (scope : Scope)
  /-- LRX (R226): Releases and hands a held word on without storing. -/
  | lrx (a : Name) (scope : Scope)
  /-- PHASE_REL (R209): Release at a scope. -/
  | phaseRel (scope : Scope)
  /-- PHASE_ACQ (R210): Acquire at a scope. -/
  | phaseAcq (scope : Scope)
  /-- PHASE_AR (R211): Release then acquire at a scope. -/
  | phaseAr (scope : Scope)
  /-- ENQ (R252): Releases and sends an enqueue request to a flume controller. -/
  | enq (a : Name) (b : Name)
  /-- DEQ (R252): Sends a dequeue request to a flume controller. -/
  | deq (d : Name) (a : Name)
  /-- ENQN (R252): Enqueues without waiting, reporting FULL. -/
  | enqn (d : Name) (a : Name) (b : Name) (look : Look)
  /-- DEQN (R252): Dequeues without waiting, reporting EMPTY. -/
  | deqn (d : Name) (a : Name) (look : Look)
  /-- ENQW (R252): Enqueues, parking up to a cycle limit. -/
  | enqw (d : Name) (a : Name) (b : Name)
  /-- DEQW (R252): Dequeues, parking up to a cycle limit. -/
  | deqw (d : Name) (a : Name) (b : Name)
  /-- QSTAT (R253): Reads a flume counter at the controller. -/
  | qstat (d : Name) (a : Name) (item : Fin 7) (look : Look)
  /-- QBIND (R254): Binds or unbinds a name to an 8-byte flume. -/
  | qbind (d : Name) (a : Name)
  /-- SPTEST (R255): Returns the window tag of a pointer. -/
  | sptest (d : Name) (a : Name)
  /-- SPCAST (R256): Casts a pointer to a form usable on the executing core, or 0. -/
  | spcast (d : Name) (a : Name)
  /-- SPMAKE (R255): Builds a scratchpad pointer of the executing core. -/
  | spmake (d : Name) (a : Name)
  /-- SPCORE (R255): Returns the logical core a pointer names, or -1. -/
  | spcore (d : Name) (a : Name)
  /-- SPLIT (R257): Changes the core's scratchpad/L1 split and scratchpad owner. -/
  | split (units : Fin 5)
  /-- SPAWN (R134): Creates a thread from an entry with four arguments and an affinity. -/
  | spawn (d : Name) (a : Name) (b : Name)
  /-- QUIT (R135): Ends the thread, leaving groups and returning its span, slot and record (32-bit form). -/
  | quit
  /-- YIELD (R136): Gives the slot to a waiting record or forgoes the next own turn (32-bit form). -/
  | yield
  /-- TID (R165): Reads one identity of the thread. -/
  | tid (d : Name) (item : Fin 8)
  /-- JOIN (R146): Joins a group word into a handle. -/
  | join (g : Grp) (a : Name) (scope : Scope)
  /-- LEAVE (R146): Releases and leaves a group. -/
  | leave (g : Grp)
  /-- GBAR (R148): Arrives at a group barrier and parks until its phase completes. -/
  | gbar (g : Grp)
  /-- GCNT (R167): Reads one field of a group word. -/
  | gcnt (d : Name) (g : Grp) (item : Fin 4)
  /-- ROTR (R168): Reads the rotation table. -/
  | rotr (d : Name)
  /-- ROTW (R168): Writes the rotation table if allowed. -/
  | rotw (a : Name)
  /-- LINK (R159): Binds a name to a logical runnel link. -/
  | link (d : Name) (dir : Fin 4)
  /-- UNLINK (R169): Removes a runnel binding of a name. -/
  | unlink (d : Name)
  /-- LDIR (R158): Writes the core's link-direction register. -/
  | ldir (a : Name)
  /-- LDIRR (R169): Reads the link-direction register. -/
  | ldirr (d : Name)
  /-- VADD (R172): Lane-wise addition. -/
  | vadd (d : VReg) (a : VOp) (b : VOp)
  /-- VSUB (R172): Lane-wise subtraction. -/
  | vsub (d : VReg) (a : VOp) (b : VOp)
  /-- VMUL (R172): Lane-wise multiplication. -/
  | vmul (d : VReg) (a : VOp) (b : VOp)
  /-- VMIN (R172): Lane-wise minimum. -/
  | vmin (d : VReg) (a : VOp) (b : VOp)
  /-- VMAX (R172): Lane-wise maximum. -/
  | vmax (d : VReg) (a : VOp) (b : VOp)
  /-- VMINU (R172): Lane-wise unsigned minimum. -/
  | vminu (d : VReg) (a : VOp) (b : VOp)
  /-- VMAXU (R172): Lane-wise unsigned maximum. -/
  | vmaxu (d : VReg) (a : VOp) (b : VOp)
  /-- VAND (R172): Lane-wise AND. -/
  | vand (d : VReg) (a : VOp) (b : VOp)
  /-- VOR (R172): Lane-wise OR. -/
  | vor (d : VReg) (a : VOp) (b : VOp)
  /-- VXOR (R172): Lane-wise XOR. -/
  | vxor (d : VReg) (a : VOp) (b : VOp)
  /-- VSHL (R172): Lane-wise left shift. -/
  | vshl (d : VReg) (a : VOp) (b : VOp)
  /-- VSHR (R172): Lane-wise logical right shift. -/
  | vshr (d : VReg) (a : VOp) (b : VOp)
  /-- VSRA (R172): Lane-wise arithmetic right shift. -/
  | vsra (d : VReg) (a : VOp) (b : VOp)
  /-- VABS (R172): Lane-wise absolute value. -/
  | vabs (d : VReg) (a : VReg)
  /-- VNEG (R172): Lane-wise negation. -/
  | vneg (d : VReg) (a : VReg)
  /-- VCEQ (R173): Lane-wise equality mask. -/
  | vceq (d : VReg) (a : VOp) (b : VOp)
  /-- VCLT (R173): Lane-wise less-than mask. -/
  | vclt (d : VReg) (a : VOp) (b : VOp)
  /-- VCLE (R173): Lane-wise less-or-equal mask. -/
  | vcle (d : VReg) (a : VOp) (b : VOp)
  /-- VSEL (R174): Bitwise selection under the destination's mask. -/
  | vsel (d : VReg) (a : VOp) (b : VOp)
  /-- VMOV (R175): Copies a whole register with side field and tag. -/
  | vmov (d : VReg) (a : VReg)
  /-- VBCAST (R176): Fills a register from a scalar name under a tag. -/
  | vbcast (d : VReg) (a : LowName) (tag : Tag)
  /-- VEXT (R177): Extracts one lane into a scalar name. -/
  | vext (d : Name) (a : VReg) (b : Name)
  /-- VINS (R177): Inserts a scalar value into one lane. -/
  | vins (d : VReg) (a : Name) (b : Name)
  /-- VPERM (R178): Permutes lanes by indices. -/
  | vperm (d : VReg) (a : VReg) (b : VOp)
  /-- VRADD (R179): Reduces all lanes by an exact sum rounded once. -/
  | vradd (d : VReg) (a : VReg)
  /-- VRMAX (R179): Reduces all lanes by maximum. -/
  | vrmax (d : VReg) (a : VReg)
  /-- VRMIN (R179): Reduces all lanes by minimum. -/
  | vrmin (d : VReg) (a : VReg)
  /-- VFMA (R180): Lane-wise fused multiply-add, long-latency. -/
  | vfma (d : VReg) (a : VOp) (b : VOp) (look : Look)
  /-- VFMS (R180): Lane-wise fused multiply-subtract. -/
  | vfms (d : VReg) (a : VOp) (b : VOp) (look : Look)
  /-- VDIV (R180): Lane-wise float division. -/
  | vdiv (d : VReg) (a : VOp) (b : VOp) (look : Look)
  /-- VSQRT (R180): Lane-wise float square root. -/
  | vsqrt (d : VReg) (a : VReg) (look : Look)
  /-- VCVT (R182): Converts a register group to another format. -/
  | vcvt (d : VReg) (a : VReg) (tag : Tag) (rm : RMode)
  /-- VDXQ (R183): Quantises a float register group into DX blocks. -/
  | vdxq (d : VReg) (a : VReg) (tag : Tag) (rm : RMode)
  /-- VTAG (R184): Reads a register's tag code. -/
  | vtag (d : Name) (a : VReg)
  /-- VRETAG (R184): Copies a register under a new tag without conversion. -/
  | vretag (d : VReg) (a : VReg) (tag : Tag)
  /-- VSEXR (R184): Reads side-field bits into a name. -/
  | vsexr (d : Name) (a : VReg) (item : Fin 5)
  /-- VSEXW (R184): Writes side-field bits from a name. -/
  | vsexw (d : VReg) (a : Name) (item : Fin 5)
  /-- CPY (R298): Appends a copy packet to a copy flume and ties a token. -/
  | cpy (k : Tok) (a : VReg) (b : Name)
  /-- TOKS (R300): Reads all eight token states. -/
  | toks (d : Name) (look : Look)
  /-- BARM (R301): Arms a basin word with a byte count. -/
  | barm (d : Name) (a : Name) (b : Name) (look : Look)
  /-- BWAIT (R272): Waits for a basin phase to pass. -/
  | bwait (d : Name) (a : Name) (b : Name)
  /-- BPOLL (R272): Polls a basin phase without parking. -/
  | bpoll (d : Name) (a : Name) (b : Name) (look : Look)
  /-- BERR (R301): Reads the error bits of a basin word. -/
  | berr (d : Name) (a : Name) (look : Look)
  /-- BCLR (R301): Clears the error bits of a basin word. -/
  | bclr (d : Name) (a : Name) (look : Look)
  /-- LPATCH (R303): Writes one field of an idle launch record. -/
  | lpatch (d : Name) (item : Fin 13) (b : Name) (look : Look)
  /-- LARM (R276): Arms an idle launch record. -/
  | larm (d : Name) (look : Look)
  /-- LFIRE (R276): Fires an idle launch record at once. -/
  | lfire (d : Name) (look : Look)
  /-- LSTAT (R302): Reads a launch record's state word. -/
  | lstat (d : Name) (a : Name) (look : Look)
  /-- MLDB (R282): Loads a B slot from a descriptor. -/
  | mldb (a : VReg) (look : Look)
  /-- MMAC (R306): Performs one row step from a register, tying a token. -/
  | mmac (k : Tok) (a : VReg) (b : Name) (look : Look)
  /-- MRUN (R288): Streams A rows from scratchpad records in steps. -/
  | mrun (d : Name) (a : Name) (b : Name)
  /-- MDRN (R293): Drains accumulator rows to tailwater handlers. -/
  | mdrn (a : Name) (b : Name) (look : Look)
  /-- MHND (R292): Registers or releases the core's tailwater handler. -/
  | mhnd (a : Name) (b : Name)
  /-- MCHK (R295): Sets a tile's checksum checking and reads the mismatch count. -/
  | mchk (d : Name) (a : Name) (look : Look)
  /-- MACQ (R280): Reserves noria slots and tiles all or none. -/
  | macq (a : Name)
  /-- MREL (R280): Waits for noria work and drained rows, then releases resources. -/
  | mrel (a : Name)
  /-- SRNG (R313): Sets the thread's noise mode and buffer. -/
  | srng (d : Name) (a : Name) (md : Fin 4)
  /-- COMMIT (R338): Marks the thread committed. -/
  | commit
  /-- CTXSV (R342): Retires a drained context from the device. -/
  | ctxsv (d : Name) (a : Name)
  /-- CTXLD (R342): Makes a context resident and restores it. -/
  | ctxld (d : Name) (a : Name)
  /-- PREEMPT (R341): Starts the drain of a context, optionally waiting. -/
  | preempt (d : Name) (a : Name) (md : Bool)
  /-- UNFREEZE (R344): Releases a frozen master with an action. -/
  | unfreeze (d : Name) (a : Name) (action : Fin 3)
  /-- ERRPOP (R345): Pops the oldest error record into a register. -/
  | errpop (d : Name) (b : VReg)
  /-- DTSET (R346): Sets, steps or trims the device timebase. -/
  | dtset (d : Name) (a : Name) (md : Fin 3)
  /-- DTGET (R348): Reads timebase state. -/
  | dtget (d : Name) (item : Fin 5)
  /-- SPILL (R349): Spills another thread of the core to its record. -/
  | spill (d : Name) (a : Name)
  /-- RINV (R369): Releases and sends one offtake packet. -/
  | rinv (d : Name) (a : Name) (b : VReg) (look : Look)
  /-- RINVW (R370): Sends an offtake and retries while it overflows. -/
  | rinvw (d : Name) (a : Name) (b : VReg)
  /-- RSTAT (R371): Reads offtake state of this device. -/
  | rstat (d : Name) (a : Name) (item : Fin 8) (look : Look)
  /-- TBR (R372): Reads the timebase. -/
  | tbr (d : Name) (look : Look)
  /-- WAITT (R373): Parks until the timebase reaches a target. -/
  | waitt (d : Name) (a : Name)
  /-- COLL (R374): Appends a collective packet to a collective flume. -/
  | coll (k : Tok) (a : VReg) (b : Name)
  /-- ADD_16 (R80): Short lane form of ADD on n0-n15. -/
  | add16 (d : Fin 16) (b : Fin 16)
  /-- SUB_16 (R80): Short lane form of SUB. -/
  | sub16 (d : Fin 16) (b : Fin 16)
  /-- MUL_16 (R80): Short lane form of MUL. -/
  | mul16 (d : Fin 16) (b : Fin 16)
  /-- AND_16 (R80): Short lane form of AND. -/
  | and16 (d : Fin 16) (b : Fin 16)
  /-- OR_16 (R80): Short lane form of OR. -/
  | or16 (d : Fin 16) (b : Fin 16)
  /-- XOR_16 (R80): Short lane form of XOR. -/
  | xor16 (d : Fin 16) (b : Fin 16)
  /-- SHL_16 (R80): Short lane form of SHL. -/
  | shl16 (d : Fin 16) (b : Fin 16)
  /-- SHR_16 (R80): Short lane form of SHR. -/
  | shr16 (d : Fin 16) (b : Fin 16)
  /-- SRA_16 (R80): Short lane form of SRA. -/
  | sra16 (d : Fin 16) (b : Fin 16)
  /-- MIN_16 (R80): Short lane form of MIN. -/
  | min16 (d : Fin 16) (b : Fin 16)
  /-- MAX_16 (R80): Short lane form of MAX. -/
  | max16 (d : Fin 16) (b : Fin 16)
  /-- MOV_16 (R80): Short lane form of MOV. -/
  | mov16 (d : Fin 16) (b : Fin 16)
  /-- NEG_16 (R80): Short lane form of NEG. -/
  | neg16 (d : Fin 16) (b : Fin 16)
  /-- NOT_16 (R80): Short lane form of NOT. -/
  | not16 (d : Fin 16) (b : Fin 16)
  /-- ABS_16 (R80): Short lane form of ABS. -/
  | abs16 (d : Fin 16) (b : Fin 16)
  /-- CLT_16 (R80): Short lane form of CLT. -/
  | clt16 (d : Fin 16) (b : Fin 16)
  /-- VADD_16 (R80): Short lane form of VADD on v0-v15. -/
  | vadd16 (d : Fin 16) (b : Fin 16)
  /-- VSUB_16 (R80): Short lane form of VSUB. -/
  | vsub16 (d : Fin 16) (b : Fin 16)
  /-- VMUL_16 (R80): Short lane form of VMUL. -/
  | vmul16 (d : Fin 16) (b : Fin 16)
  /-- VAND_16 (R80): Short lane form of VAND. -/
  | vand16 (d : Fin 16) (b : Fin 16)
  /-- VOR_16 (R80): Short lane form of VOR. -/
  | vor16 (d : Fin 16) (b : Fin 16)
  /-- VXOR_16 (R80): Short lane form of VXOR. -/
  | vxor16 (d : Fin 16) (b : Fin 16)
  /-- VSHL_16 (R80): Short lane form of VSHL. -/
  | vshl16 (d : Fin 16) (b : Fin 16)
  /-- VSHR_16 (R80): Short lane form of VSHR. -/
  | vshr16 (d : Fin 16) (b : Fin 16)
  /-- VSRA_16 (R80): Short lane form of VSRA. -/
  | vsra16 (d : Fin 16) (b : Fin 16)
  /-- VMIN_16 (R80): Short lane form of VMIN. -/
  | vmin16 (d : Fin 16) (b : Fin 16)
  /-- VMAX_16 (R80): Short lane form of VMAX. -/
  | vmax16 (d : Fin 16) (b : Fin 16)
  /-- VMOV_16 (R80): Short lane form of VMOV. -/
  | vmov16 (d : Fin 16) (b : Fin 16)
  /-- VNEG_16 (R80): Short lane form of VNEG. -/
  | vneg16 (d : Fin 16) (b : Fin 16)
  /-- VABS_16 (R80): Short lane form of VABS. -/
  | vabs16 (d : Fin 16) (b : Fin 16)
  /-- VCLT_16 (R80): Short lane form of VCLT. -/
  | vclt16 (d : Fin 16) (b : Fin 16)
  /-- REP (R22): Repeats the next instruction with stepped fields, keeping progress in rp. -/
  | rep (count : Fin 64) (incD : Fin 4) (incA : Fin 4) (incB : Fin 4)
  /-- WAITK (R269): Parks until the selected tokens reach SRC or VIS. -/
  | waitk (mask : Nat) (kind : TokKind)
  /-- MOVIS (R81): Writes a signed 7-bit constant into n0-n15. -/
  | movis (d : Fin 16) (imm : Int)
  /-- NOP (R125): Does nothing. -/
  | nop
  /-- YIELD_16 (R136): Short form of YIELD. -/
  | yield16
  /-- QUIT_16 (R135): Short form of QUIT. -/
  | quit16
  /-- RDONE (R294): A handler releases, clears and idles its drained row. -/
  | rdone
  /-- FENCEI_16 (R124): Short form of FENCEI. -/
  | fencei16
  /-- FIRMWARE_EXPANSION (R87): Executes a word of major 0x3E or 0x3F through an installed expansion. -/
  | firmwareExpansion (major3F : Bool) (operand : Nat)
  /-- LONG_LATENCY_COMPLETION (R17): A long-latency instruction's result arrives and is written with its flags. -/
  | longLatencyCompletion (core : Nat) (slot : Nat) (k : Nat)
  /-- REPACK_OPERATION (R45): The repack engine performs the next queued shrink, grow, relocation, compaction, placement or spill. -/
  | repackOperation (core : Nat)
  /-- RECORD_PLACEMENT (R141): A core takes the next record from a ready flume into a free slot. -/
  | recordPlacement (core : Nat)
  /-- PARKED_THREAD_SPILL (R139): A core spills its earliest-parked spillable thread when a ready flume waits and no slot is free. -/
  | parkedThreadSpill (core : Nat)
  /-- VECTOR_UNIT_TAKE (R154): The quad vector unit takes one queue head, round robin over cores. -/
  | vectorUnitTake (quad : Nat)
  /-- RUNNEL_TRANSFER (R160): A parked instruction's runnel pops and pushes take place once entries and room exist. -/
  | runnelTransfer (core : Nat) (slot : Nat)
  /-- L1_EVICTION (R205): The L1 evicts a line, writing back dirty words and pushing partials. -/
  | l1Eviction (core : Nat) (line : Nat)
  /-- RESERVATION_ADMISSION (R225): A waiting LRW is admitted when its full home frees room. -/
  | reservationAdmission (home : ResHome)
  /-- FLUME_ENQUEUE_OPERATION (R230): The controller performs an enqueue request as one indivisible step. -/
  | flumeEnqueueOperation (fcb : Nat) (req : FlumeReq)
  /-- FLUME_DEQUEUE_OPERATION (R230): The controller performs a dequeue request as one indivisible step. -/
  | flumeDequeueOperation (fcb : Nat) (req : FlumeReq)
  /-- FLUME_WAIT_EXPIRY (R231): A W-form waiter's limit expires and the controller withdraws it with WAIT_EXPIRED. -/
  | flumeWaitExpiry (fcb : Nat) (k : Nat)
  /-- COPY_PACKET_DEQUEUE (R258): A headworks core dequeues a packet from a registered copy flume. -/
  | copyPacketDequeue (baseDie : Nat) (entry : Nat)
  /-- COPY_PACKET_NOT_BEFORE (R263): A held packet's NB time arrives and it starts reading. -/
  | copyPacketNotBefore (id : Nat)
  /-- COPY_PACKET_EXECUTE (R262): A headworks core checks a packet and reads and writes its elements. -/
  | copyPacketExecute (id : Nat)
  /-- HELD_SEQ_UPDATE (R267): A held SEQ update is applied once earlier packets' updates are done. -/
  | heldSeqUpdate (id : Nat)
  /-- SRC_EVENT (R268): A packet's last read completes and its token moves to SRC reached. -/
  | srcEvent (id : Nat)
  /-- VIS_EVENT (R266): A packet's writes are performed, it releases and its token becomes done. -/
  | visEvent (id : Nat)
  /-- LAUNCH_DECREMENT (R276): A successor decrement reaches a launch record at its scheduler. -/
  | launchDecrement (k : Nat)
  /-- NBT_REACHED (R276): The timebase reaches a TIMED record's NBT. -/
  | nbtReached (ctx : Nat) (j : Nat)
  /-- LAUNCH_TAKE (R278): The scheduler takes a PENDING launch when records are free and creates its threads. -/
  | launchTake (die : Nat)
  /-- NORIA_TAKE (R289): The noria takes one queue head that can start, round robin over cores. -/
  | noriaTake (quad : Nat)
  /-- ROW_WRITTEN (R287): A row step's exact sums are rounded into the tile row. -/
  | rowWritten (quad : Nat)
  /-- SLOT_LOADED (R283): An MLDB finishes loading its slot and checksum column. -/
  | slotLoaded (quad : Nat) (slot : Nat)
  /-- ROW_DRAIN (R293): A row is copied out and becomes DRAINING when ordering allows. -/
  | rowDrain (quad : Nat) (k : Nat)
  /-- HANDLER_DISPATCH (R293): A drained row's handler is placed into a free reserved slot in drain order. -/
  | handlerDispatch (core : Nat)
  /-- ASYNC_ERROR_DELIVERY (R316): A held asynchronous error is delivered before the thread's next instruction. -/
  | asyncErrorDelivery (core : Nat) (slot : Nat)
  /-- CONTEXT_DRAINED (R328): Once threads and engines have stopped, the context is saved, published and RSTATE set to 3. -/
  | contextDrained (ctx : Nat)
  /-- QUAD_STATE_RESTORE (R330): Deferred tiles, slots, runnels or scratchpad of a context are restored when free. -/
  | quadStateRestore (ctx : Nat) (k : Nat)
  /-- CODE_PAGE_CHECK (R334): A code page is hashed against the manifest before its first fetch. -/
  | codePageCheck (page : Nat) (object : Nat) (good : Bool)
  /-- SCHEDULER_TAKE_OVER (R335): The standby scheduler core replays the journal after the active core fails. -/
  | schedulerTakeOver (die : Nat)
  /-- NOISE_HEALTH_FAILURE (R61): A failed health test makes the quad source deliver zero words. -/
  | noiseHealthFailure (quad : Nat) (test : Bool)
  /-- FABRIC_REQUEST (R355): A request arriving at an aqueduct port is checked against inbound windows. -/
  | fabricRequest (port : Nat) (req : BusReq)
  /-- HOST_PORT_REQUEST (R323): A host request is checked against host windows, freezing the port on violation. -/
  | hostPortRequest (req : BusReq)
  /-- LINK_MARKED_DOWN (R352): A link down for 100 us is marked down in the route table. -/
  | linkMarkedDown (port : Nat)
  /-- OFFTAKE_ARRIVAL (R360): An arriving offtake packet is checked, queued and given a status. -/
  | offtakeArrival (arr : Arrival)
  /-- OFFTAKE_STATUS_TIMEOUT (R360): No status within 1 ms gives UNREACHABLE. -/
  | offtakeStatusTimeout (id : Nat)
  /-- RINVW_RETRY (R370): After an OVERFLOW and 256 cycles RINVW resends or expires. -/
  | rinvwRetry (core : Nat) (slot : Nat) (expired : Bool)
  /-- OFFTAKE_DISPATCH (R361): The dispatcher takes the eligible invocation head of highest effective priority and fires its record. -/
  | offtakeDispatch
  /-- COLLECTIVE_EXECUTE (R365): The collective engine combines a formed collective and writes every rank. -/
  | collectiveExecute (tag : Nat) (remote : List RemoteRank)
  /-- COLLECTIVE_TIMEOUT (R365): A collective not formed within 100 ms completes with error 0x01. -/
  | collectiveTimeout (tag : Nat)
  /-- WAITT_WAKE (R373): The timebase reaches a WAITT target and the thread wakes. -/
  | waittWake (core : Nat) (slot : Nat)
  /-- TIME_SYNC_SEND (R366): Every 10 us each link carries a time-sync flit. -/
  | timeSyncSend (port : Nat)
  /-- TIME_SYNC_FLIT (R366): A follower receives a sync flit and slews or steps its timebase. -/
  | timeSyncFlit (time : Nat) (stepped : Bool)
  /-- TIME_SYNC_LOSS (R366): A device with no sync flit for 1 ms becomes its own time master. -/
  | timeSyncLoss
  /-- BOOT_START (R375): A start counts FAILS, runs stages 1 and 2, and enters minimal mode if needed. -/
  | bootStart (report : BootReport)
  /-- BOOT_READY (R377): When every die and stack reports ready, STATE becomes 1 and FAILS 0. -/
  | bootReady
  /-- BOOT_TIMEOUT (R378): Stage 3 not reached within 30 s fails the start. -/
  | bootTimeout
  /-- POWER_LOSS (R377): Power loss or reset before ready leaves the start counted as failed. -/
  | powerLoss
  /-- CLOCK_STEP_UP (R381): Every 50 us over power or temperature, affected dies step their clock up. -/
  | clockStepUp (die : Nat)
  /-- CLOCK_STEP_DOWN (R381): Every 1 ms under limits, dies step their clock down. -/
  | clockStepDown (die : Nat)
  /-- PROTECTIVE_SHUTDOWN (R381): An extreme temperature or rail stops every clock and sets STATE 3. -/
  | protectiveShutdown (voltage : Bool)
  /-- BOOTCMD_CLEAR_MINIMAL (R379): Writing 1 to BOOTCMD clears FAILS and MIN. -/
  | bootcmdClearMinimal
  /-- BOOTCMD_RESET (R379): Writing 2 to BOOTCMD resets the part. -/
  | bootcmdReset
  /-- TLBINV_ALL (R200): Invalidates every TLB entry of the device. -/
  | tlbinvAll
  /-- TLBINV_CONTEXT (R200): Invalidates the TLB entries of one context. -/
  | tlbinvContext (ctx : Nat)
  /-- TLBINV_PAGE (R200): Invalidates one page of one context in every TLB. -/
  | tlbinvPage (ctx : Nat) (va : Nat)
  /-- TLBINV_COMPLETE (R385): BUSY clears once no TLB holds a named entry. -/
  | tlbinvComplete
  /-- WQCLR (R385): Writing 1 clears every weak-quad counter. -/
  | wqclr
  /-- DEVICE_REGISTER_WRITE (R385): Writes a device register that has no row of its own, ignored when RW* and a context is resident. -/
  | deviceRegisterWrite (reg : AgentReg) (val : BitVec 64)
  /-- NOISE_FAULT_CLEARED (R61): Firmware clears a failed noise source, which then delivers live words again. -/
  | noiseFaultCleared (quad : Nat)
  /-- APPLICATION_CORE_CONTEXT_COMMAND (R339): An application core or the host port sends a preempt, save or load command to the context controller. -/
  | applicationCoreContextCommand (cmd : CtxCmd) (ctx : Nat)
  /-- L2_SECTOR_EVICTION (R317): A die L2 evicts a sector and writes its dirty bytes back to HBM, charging errors to the sector's owner. -/
  | l2SectorEviction (die : Nat) (block : Nat)
  /-- STANDBY_SCHEDULER_FAILURE (R335): The standby scheduler core fails after taking over, freezing every record the die keeps until the die is reset. -/
  | standbySchedulerFailure (die : Nat)
  /-- LINK_RESTORED (R352): An aqueduct link that was down comes back up and can carry traffic and sync flits again. -/
  | linkRestored (port : Nat)
deriving DecidableEq, Repr

end Sys2Proof
end

