-- ==== Sys2Proof/WellFormed.lean ====
section
/-! DEFINITION. WellFormed: what an instruction of the syntax must satisfy to have a word.
The ranges of immediates and the coded values of R74 to R85; ADD16 of n0 and n0 has no word, since 0x0000 is refused (R80). A step of an engine or of an outside party has no word and
no condition. -/

namespace Sys2Proof

/-- The tag's 4-bit code (R68). -/
def Tag.code : Tag → Nat
  | .raw => 0 | .i8 => 1 | .i16 => 2 | .i32 => 3 | .fp32 => 4 | .bf16 => 5 | .fp16 => 6 | .e4m3 => 7
  | .e5m2 => 8 | .dx8 => 9 | .dx6 => 10 | .dx4 => 11 | .mxe4m3 => 12 | .mxe5m2 => 13 | .mxfp4 => 14 | .mxint8 => 15

/-- The scope's 3-bit code (R77). -/
def Scope.code : Scope → Nat
  | .core => 0 | .quad => 1 | .die => 2 | .dev => 3 | .host => 4 | .fab => 5

/-- A DX tag (R183). -/
def Tag.isDx : Tag → Bool
  | .dx8 | .dx6 | .dx4 => true
  | _ => false

/-- The targets of VCVT (R182): every tag but RAW and the DX tags. -/
def Tag.isVcvtTarget : Tag → Bool
  | .raw | .dx8 | .dx6 | .dx4 => false
  | _ => true

/-- A block format of VLDX and VSTX (R242). -/
def MemFmt.isBlock : MemFmt → Bool
  | .tag t => decide (9 ≤ t.code)
  | .mxfp6a => true
  | .mxfp6b => true

/-- CSRW accepts every control register but the five that are read-only to instructions (R78). -/
def Csr.writable : Csr → Bool
  | .ctxid | .lcmap | .temps | .volts | .procm => false
  | _ => true

/-- `x` is a signed value of `w` bits. -/
def fitsS (w : Nat) (x : Int) : Bool := decide (-(2 ^ (w - 1) : Int) ≤ x ∧ x < (2 ^ (w - 1) : Int))

/-- A vector operand that names a register. -/
def VOp.isReg : VOp → Bool
  | .reg _ => true
  | .bcast _ => false

/-- The conditions of R74 to R85 on an instruction's fields; of the sources that fix the lane type, one names a register (R170). -/
def Instr.wf : Instr → Bool
  | .add _ _ _ => true
  | .sub _ _ _ => true
  | .mul _ _ _ => true
  | .mulh _ _ _ => true
  | .div _ _ _ => true
  | .divu _ _ _ => true
  | .rem _ _ _ => true
  | .remu _ _ _ => true
  | .and _ _ _ => true
  | .or _ _ _ => true
  | .xor _ _ _ => true
  | .andn _ _ _ => true
  | .shl _ _ _ => true
  | .shr _ _ _ => true
  | .sra _ _ _ => true
  | .rol _ _ _ => true
  | .min _ _ _ => true
  | .minu _ _ _ => true
  | .max _ _ _ => true
  | .maxu _ _ _ => true
  | .ceq _ _ _ => true
  | .cne _ _ _ => true
  | .clt _ _ _ => true
  | .cltu _ _ _ => true
  | .cle _ _ _ => true
  | .cleu _ _ _ => true
  | .sel _ _ _ => true
  | .bfx _ _ _ => true
  | .bfi _ _ _ => true
  | .clz _ _ => true
  | .popc _ _ => true
  | .abs _ _ => true
  | .neg _ _ => true
  | .not _ _ => true
  | .mov _ _ => true
  | .addi _ _ imm => fitsS 10 imm
  | .andi _ _ imm => fitsS 10 imm
  | .ori _ _ imm => fitsS 10 imm
  | .xori _ _ imm => fitsS 10 imm
  | .shli _ _ imm => decide (imm ≤ 64)
  | .shri _ _ imm => decide (imm ≤ 64)
  | .srai _ _ imm => decide (imm ≤ 64)
  | .clti _ _ imm => fitsS 10 imm
  | .ldk _ imm => fitsS 19 imm
  | .ldks _ imm => decide (imm < 524288)
  | .resize _ wid => decide (1 ≤ wid ∧ wid ≤ 64)
  | .mode _ _ => true
  | .width _ _ => true
  | .mff _ => true
  | .mtf _ => true
  | .sfclr => true
  | .beq _ _ off => fitsS 10 off
  | .bne _ _ off => fitsS 10 off
  | .blt _ _ off => fitsS 10 off
  | .bge _ _ off => fitsS 10 off
  | .bltu _ _ off => fitsS 10 off
  | .bgeu _ _ off => fitsS 10 off
  | .bsf off => fitsS 10 off
  | .jmp off => fitsS 25 off
  | .call off => fitsS 25 off
  | .jmpr _ imm => fitsS 10 imm
  | .callr _ imm => fitsS 10 imm
  | .fadd _ _ _ => true
  | .fsub _ _ _ => true
  | .fmul _ _ _ => true
  | .fdiv _ _ _ => true
  | .fsqrt _ _ => true
  | .fmin _ _ _ => true
  | .fmax _ _ _ => true
  | .fceq _ _ _ => true
  | .fclt _ _ _ => true
  | .fcle _ _ _ => true
  | .fclass _ _ => true
  | .fneg _ _ => true
  | .fabs _ _ => true
  | .fcvt _ _ _ => true
  | .fcvti _ _ _ => true
  | .fcvtf _ _ _ => true
  | .fma _ _ _ _ => true
  | .fms _ _ _ _ => true
  | .fnma _ _ _ _ => true
  | .bmov _ _ _ => true
  | .bset _ _ _ => true
  | .trap imm => decide (imm < 262144)
  | .eret => true
  | .csrr _ _ => true
  | .csrw _ csr => csr.writable
  | .brk => true
  | .fencei => true
  | .ldb _ _ imm _ => fitsS 6 imm
  | .ldh _ _ imm _ => fitsS 6 imm
  | .ldw _ _ imm _ => fitsS 6 imm
  | .ldd _ _ imm _ => fitsS 6 imm
  | .ldbu _ _ imm _ => fitsS 6 imm
  | .ldhu _ _ imm _ => fitsS 6 imm
  | .ldwu _ _ imm _ => fitsS 6 imm
  | .ldff _ _ imm => fitsS 6 imm
  | .stb _ _ imm _ => fitsS 6 imm
  | .sth _ _ imm _ => fitsS 6 imm
  | .stw _ _ imm _ => fitsS 6 imm
  | .std _ _ imm _ => fitsS 6 imm
  | .vld _ _ _ _ => true
  | .vst _ _ _ _ => true
  | .vldx _ a fmt _ => (!fmt.isBlock || decide (a.val ≤ 62))
  | .vstx _ a fmt _ => (!fmt.isBlock || decide (a.val ≤ 62))
  | .vldb _ _ tag _ => decide (tag.code ≤ 8)
  | .vgath d _ tag _ => decide (1 ≤ tag.code ∧ tag.code ≤ 8) && decide (d.val ≤ 30)
  | .vscat d _ tag _ => decide (1 ≤ tag.code ∧ tag.code ≤ 8) && decide (d.val ≤ 30)
  | .lde _ _ imm => fitsS 6 imm
  | .stf _ _ imm => fitsS 6 imm
  | .stff _ _ imm _ => fitsS 6 imm
  | .feq _ _ imm _ => fitsS 6 imm
  | .fempty _ imm _ => fitsS 6 imm
  | .fefill _ imm _ => fitsS 6 imm
  | .aadd _ _ _ _ => true
  | .amin _ _ _ _ => true
  | .aminu _ _ _ _ => true
  | .amax _ _ _ _ => true
  | .amaxu _ _ _ _ => true
  | .aand _ _ _ _ => true
  | .aor _ _ _ _ => true
  | .axor _ _ _ _ => true
  | .aswp _ _ _ _ => true
  | .acas _ _ _ _ => true
  | .radd _ _ _ => true
  | .rmin _ _ _ => true
  | .rmax _ _ _ => true
  | .ror _ _ _ => true
  | .rfadd _ _ scope => decide (3 ≤ scope.code)
  | .lrw _ _ _ => true
  | .sch _ _ _ => true
  | .lrx _ _ => true
  | .phaseRel _ => true
  | .phaseAcq _ => true
  | .phaseAr _ => true
  | .enq _ _ => true
  | .deq _ _ => true
  | .enqn _ _ _ _ => true
  | .deqn _ _ _ => true
  | .enqw _ _ _ => true
  | .deqw _ _ _ => true
  | .qstat _ _ _ _ => true
  | .qbind _ _ => true
  | .sptest _ _ => true
  | .spcast _ _ => true
  | .spmake _ _ => true
  | .spcore _ _ => true
  | .split _ => true
  | .spawn d _ _ => decide (d.val ≤ 60)
  | .quit => true
  | .yield => true
  | .tid _ _ => true
  | .join _ _ _ => true
  | .leave _ => true
  | .gbar _ => true
  | .gcnt _ _ _ => true
  | .rotr _ => true
  | .rotw _ => true
  | .link _ _ => true
  | .unlink _ => true
  | .ldir _ => true
  | .ldirr _ => true
  | .vadd _ a b => a.isReg || b.isReg
  | .vsub _ a b => a.isReg || b.isReg
  | .vmul _ a b => a.isReg || b.isReg
  | .vmin _ a b => a.isReg || b.isReg
  | .vmax _ a b => a.isReg || b.isReg
  | .vminu _ a b => a.isReg || b.isReg
  | .vmaxu _ a b => a.isReg || b.isReg
  | .vand _ a b => a.isReg || b.isReg
  | .vor _ a b => a.isReg || b.isReg
  | .vxor _ a b => a.isReg || b.isReg
  | .vshl _ a b => a.isReg || b.isReg
  | .vshr _ a b => a.isReg || b.isReg
  | .vsra _ a b => a.isReg || b.isReg
  | .vabs _ _ => true
  | .vneg _ _ => true
  | .vceq _ a b => a.isReg || b.isReg
  | .vclt _ a b => a.isReg || b.isReg
  | .vcle _ a b => a.isReg || b.isReg
  | .vsel _ a b => a.isReg || b.isReg
  | .vmov _ _ => true
  | .vbcast _ _ tag => decide (tag.code ≤ 8)
  | .vext _ _ _ => true
  | .vins _ _ _ => true
  | .vperm _ _ _ => true
  | .vradd _ _ => true
  | .vrmax _ _ => true
  | .vrmin _ _ => true
  | .vfma _ _ _ _ => true
  | .vfms _ _ _ _ => true
  | .vdiv _ a b _ => a.isReg || b.isReg
  | .vsqrt _ _ _ => true
  | .vcvt _ _ tag _ => tag.isVcvtTarget
  | .vdxq _ _ tag _ => tag.isDx
  | .vtag _ _ => true
  | .vretag _ _ _ => true
  | .vsexr _ _ _ => true
  | .vsexw _ _ _ => true
  | .cpy _ _ _ => true
  | .toks _ _ => true
  | .barm _ _ _ _ => true
  | .bwait _ _ _ => true
  | .bpoll _ _ _ _ => true
  | .berr _ _ _ => true
  | .bclr _ _ _ => true
  | .lpatch _ item b _ => (decide (item.val < 12) || decide (b.val < 32))
  | .larm _ _ => true
  | .lfire _ _ => true
  | .lstat _ _ _ => true
  | .mldb _ _ => true
  | .mmac _ _ _ _ => true
  | .mrun _ _ _ => true
  | .mdrn _ _ _ => true
  | .mhnd _ _ => true
  | .mchk _ _ _ => true
  | .macq _ => true
  | .mrel _ => true
  | .srng _ _ _ => true
  | .commit => true
  | .ctxsv _ _ => true
  | .ctxld _ _ => true
  | .preempt _ _ _ => true
  | .unfreeze _ _ _ => true
  | .errpop _ _ => true
  | .dtset _ _ _ => true
  | .dtget _ _ => true
  | .spill _ _ => true
  | .rinv _ a _ _ => decide (a.val ≤ 61)
  | .rinvw _ a _ => decide (a.val ≤ 60)
  | .rstat _ _ _ _ => true
  | .tbr _ _ => true
  | .waitt _ _ => true
  | .coll _ _ _ => true
  | .add16 d b => decide (d.val ≠ 0 ∨ b.val ≠ 0)
  | .sub16 _ _ => true
  | .mul16 _ _ => true
  | .and16 _ _ => true
  | .or16 _ _ => true
  | .xor16 _ _ => true
  | .shl16 _ _ => true
  | .shr16 _ _ => true
  | .sra16 _ _ => true
  | .min16 _ _ => true
  | .max16 _ _ => true
  | .mov16 _ _ => true
  | .neg16 _ _ => true
  | .not16 _ _ => true
  | .abs16 _ _ => true
  | .clt16 _ _ => true
  | .vadd16 _ _ => true
  | .vsub16 _ _ => true
  | .vmul16 _ _ => true
  | .vand16 _ _ => true
  | .vor16 _ _ => true
  | .vxor16 _ _ => true
  | .vshl16 _ _ => true
  | .vshr16 _ _ => true
  | .vsra16 _ _ => true
  | .vmin16 _ _ => true
  | .vmax16 _ _ => true
  | .vmov16 _ _ => true
  | .vneg16 _ _ => true
  | .vabs16 _ _ => true
  | .vclt16 _ _ => true
  | .rep _ _ _ _ => true
  | .waitk mask _ => decide (1 ≤ mask ∧ mask ≤ 255)
  | .movis _ imm => fitsS 7 imm
  | .nop => true
  | .yield16 => true
  | .quit16 => true
  | .rdone => true
  | .fencei16 => true
  | .firmwareExpansion _ operand => decide (operand < 33554432)
  | .longLatencyCompletion _ _ _ => true
  | .repackOperation _ => true
  | .recordPlacement _ => true
  | .parkedThreadSpill _ => true
  | .vectorUnitTake _ => true
  | .runnelTransfer _ _ => true
  | .l1Eviction _ _ => true
  | .reservationAdmission _ => true
  | .flumeEnqueueOperation _ _ => true
  | .flumeDequeueOperation _ _ => true
  | .flumeWaitExpiry _ _ => true
  | .copyPacketDequeue _ _ => true
  | .copyPacketNotBefore _ => true
  | .copyPacketExecute _ => true
  | .heldSeqUpdate _ => true
  | .srcEvent _ => true
  | .visEvent _ => true
  | .launchDecrement _ => true
  | .nbtReached _ _ => true
  | .launchTake _ => true
  | .noriaTake _ => true
  | .rowWritten _ => true
  | .slotLoaded _ _ => true
  | .rowDrain _ _ => true
  | .handlerDispatch _ => true
  | .asyncErrorDelivery _ _ => true
  | .contextDrained _ => true
  | .quadStateRestore _ _ => true
  | .codePageCheck _ _ _ => true
  | .schedulerTakeOver _ => true
  | .noiseHealthFailure _ _ => true
  | .fabricRequest _ _ => true
  | .hostPortRequest _ => true
  | .linkMarkedDown _ => true
  | .offtakeArrival _ => true
  | .offtakeStatusTimeout _ => true
  | .rinvwRetry _ _ _ => true
  | .offtakeDispatch => true
  | .collectiveExecute _ _ => true
  | .collectiveTimeout _ => true
  | .waittWake _ _ => true
  | .timeSyncSend _ => true
  | .timeSyncFlit _ _ => true
  | .timeSyncLoss => true
  | .bootStart _ => true
  | .bootReady => true
  | .bootTimeout => true
  | .powerLoss => true
  | .clockStepUp _ => true
  | .clockStepDown _ => true
  | .protectiveShutdown _ => true
  | .bootcmdClearMinimal => true
  | .bootcmdReset => true
  | .tlbinvAll => true
  | .tlbinvContext _ => true
  | .tlbinvPage _ _ => true
  | .tlbinvComplete => true
  | .wqclr => true
  | .deviceRegisterWrite _ _ => true
  | .noiseFaultCleared _ => true
  | .applicationCoreContextCommand _ _ => true
  | .l2SectorEviction _ _ => true
  | .standbySchedulerFailure _ => true
  | .linkRestored _ => true

/-- An instruction that has a word: every row of the table but the engine and outside steps. -/
def Instr.hasWord : Instr → Bool
  | .longLatencyCompletion _ _ _ => false
  | .repackOperation _ => false
  | .recordPlacement _ => false
  | .parkedThreadSpill _ => false
  | .vectorUnitTake _ => false
  | .runnelTransfer _ _ => false
  | .l1Eviction _ _ => false
  | .reservationAdmission _ => false
  | .flumeEnqueueOperation _ _ => false
  | .flumeDequeueOperation _ _ => false
  | .flumeWaitExpiry _ _ => false
  | .copyPacketDequeue _ _ => false
  | .copyPacketNotBefore _ => false
  | .copyPacketExecute _ => false
  | .heldSeqUpdate _ => false
  | .srcEvent _ => false
  | .visEvent _ => false
  | .launchDecrement _ => false
  | .nbtReached _ _ => false
  | .launchTake _ => false
  | .noriaTake _ => false
  | .rowWritten _ => false
  | .slotLoaded _ _ => false
  | .rowDrain _ _ => false
  | .handlerDispatch _ => false
  | .asyncErrorDelivery _ _ => false
  | .contextDrained _ => false
  | .quadStateRestore _ _ => false
  | .codePageCheck _ _ _ => false
  | .schedulerTakeOver _ => false
  | .noiseHealthFailure _ _ => false
  | .fabricRequest _ _ => false
  | .hostPortRequest _ => false
  | .linkMarkedDown _ => false
  | .offtakeArrival _ => false
  | .offtakeStatusTimeout _ => false
  | .rinvwRetry _ _ _ => false
  | .offtakeDispatch => false
  | .collectiveExecute _ _ => false
  | .collectiveTimeout _ => false
  | .waittWake _ _ => false
  | .timeSyncSend _ => false
  | .timeSyncFlit _ _ => false
  | .timeSyncLoss => false
  | .bootStart _ => false
  | .bootReady => false
  | .bootTimeout => false
  | .powerLoss => false
  | .clockStepUp _ => false
  | .clockStepDown _ => false
  | .protectiveShutdown _ => false
  | .bootcmdClearMinimal => false
  | .bootcmdReset => false
  | .tlbinvAll => false
  | .tlbinvContext _ => false
  | .tlbinvPage _ _ => false
  | .tlbinvComplete => false
  | .wqclr => false
  | .deviceRegisterWrite _ _ => false
  | .noiseFaultCleared _ => false
  | .applicationCoreContextCommand _ _ => false
  | .l2SectorEviction _ _ => false
  | .standbySchedulerFailure _ => false
  | .linkRestored _ => false
  | .add _ _ _ => true
  | .sub _ _ _ => true
  | .mul _ _ _ => true
  | .mulh _ _ _ => true
  | .div _ _ _ => true
  | .divu _ _ _ => true
  | .rem _ _ _ => true
  | .remu _ _ _ => true
  | .and _ _ _ => true
  | .or _ _ _ => true
  | .xor _ _ _ => true
  | .andn _ _ _ => true
  | .shl _ _ _ => true
  | .shr _ _ _ => true
  | .sra _ _ _ => true
  | .rol _ _ _ => true
  | .min _ _ _ => true
  | .minu _ _ _ => true
  | .max _ _ _ => true
  | .maxu _ _ _ => true
  | .ceq _ _ _ => true
  | .cne _ _ _ => true
  | .clt _ _ _ => true
  | .cltu _ _ _ => true
  | .cle _ _ _ => true
  | .cleu _ _ _ => true
  | .sel _ _ _ => true
  | .bfx _ _ _ => true
  | .bfi _ _ _ => true
  | .clz _ _ => true
  | .popc _ _ => true
  | .abs _ _ => true
  | .neg _ _ => true
  | .not _ _ => true
  | .mov _ _ => true
  | .addi _ _ _ => true
  | .andi _ _ _ => true
  | .ori _ _ _ => true
  | .xori _ _ _ => true
  | .shli _ _ _ => true
  | .shri _ _ _ => true
  | .srai _ _ _ => true
  | .clti _ _ _ => true
  | .ldk _ _ => true
  | .ldks _ _ => true
  | .resize _ _ => true
  | .mode _ _ => true
  | .width _ _ => true
  | .mff _ => true
  | .mtf _ => true
  | .sfclr => true
  | .beq _ _ _ => true
  | .bne _ _ _ => true
  | .blt _ _ _ => true
  | .bge _ _ _ => true
  | .bltu _ _ _ => true
  | .bgeu _ _ _ => true
  | .bsf _ => true
  | .jmp _ => true
  | .call _ => true
  | .jmpr _ _ => true
  | .callr _ _ => true
  | .fadd _ _ _ => true
  | .fsub _ _ _ => true
  | .fmul _ _ _ => true
  | .fdiv _ _ _ => true
  | .fsqrt _ _ => true
  | .fmin _ _ _ => true
  | .fmax _ _ _ => true
  | .fceq _ _ _ => true
  | .fclt _ _ _ => true
  | .fcle _ _ _ => true
  | .fclass _ _ => true
  | .fneg _ _ => true
  | .fabs _ _ => true
  | .fcvt _ _ _ => true
  | .fcvti _ _ _ => true
  | .fcvtf _ _ _ => true
  | .fma _ _ _ _ => true
  | .fms _ _ _ _ => true
  | .fnma _ _ _ _ => true
  | .bmov _ _ _ => true
  | .bset _ _ _ => true
  | .trap _ => true
  | .eret => true
  | .csrr _ _ => true
  | .csrw _ _ => true
  | .brk => true
  | .fencei => true
  | .ldb _ _ _ _ => true
  | .ldh _ _ _ _ => true
  | .ldw _ _ _ _ => true
  | .ldd _ _ _ _ => true
  | .ldbu _ _ _ _ => true
  | .ldhu _ _ _ _ => true
  | .ldwu _ _ _ _ => true
  | .ldff _ _ _ => true
  | .stb _ _ _ _ => true
  | .sth _ _ _ _ => true
  | .stw _ _ _ _ => true
  | .std _ _ _ _ => true
  | .vld _ _ _ _ => true
  | .vst _ _ _ _ => true
  | .vldx _ _ _ _ => true
  | .vstx _ _ _ _ => true
  | .vldb _ _ _ _ => true
  | .vgath _ _ _ _ => true
  | .vscat _ _ _ _ => true
  | .lde _ _ _ => true
  | .stf _ _ _ => true
  | .stff _ _ _ _ => true
  | .feq _ _ _ _ => true
  | .fempty _ _ _ => true
  | .fefill _ _ _ => true
  | .aadd _ _ _ _ => true
  | .amin _ _ _ _ => true
  | .aminu _ _ _ _ => true
  | .amax _ _ _ _ => true
  | .amaxu _ _ _ _ => true
  | .aand _ _ _ _ => true
  | .aor _ _ _ _ => true
  | .axor _ _ _ _ => true
  | .aswp _ _ _ _ => true
  | .acas _ _ _ _ => true
  | .radd _ _ _ => true
  | .rmin _ _ _ => true
  | .rmax _ _ _ => true
  | .ror _ _ _ => true
  | .rfadd _ _ _ => true
  | .lrw _ _ _ => true
  | .sch _ _ _ => true
  | .lrx _ _ => true
  | .phaseRel _ => true
  | .phaseAcq _ => true
  | .phaseAr _ => true
  | .enq _ _ => true
  | .deq _ _ => true
  | .enqn _ _ _ _ => true
  | .deqn _ _ _ => true
  | .enqw _ _ _ => true
  | .deqw _ _ _ => true
  | .qstat _ _ _ _ => true
  | .qbind _ _ => true
  | .sptest _ _ => true
  | .spcast _ _ => true
  | .spmake _ _ => true
  | .spcore _ _ => true
  | .split _ => true
  | .spawn _ _ _ => true
  | .quit => true
  | .yield => true
  | .tid _ _ => true
  | .join _ _ _ => true
  | .leave _ => true
  | .gbar _ => true
  | .gcnt _ _ _ => true
  | .rotr _ => true
  | .rotw _ => true
  | .link _ _ => true
  | .unlink _ => true
  | .ldir _ => true
  | .ldirr _ => true
  | .vadd _ _ _ => true
  | .vsub _ _ _ => true
  | .vmul _ _ _ => true
  | .vmin _ _ _ => true
  | .vmax _ _ _ => true
  | .vminu _ _ _ => true
  | .vmaxu _ _ _ => true
  | .vand _ _ _ => true
  | .vor _ _ _ => true
  | .vxor _ _ _ => true
  | .vshl _ _ _ => true
  | .vshr _ _ _ => true
  | .vsra _ _ _ => true
  | .vabs _ _ => true
  | .vneg _ _ => true
  | .vceq _ _ _ => true
  | .vclt _ _ _ => true
  | .vcle _ _ _ => true
  | .vsel _ _ _ => true
  | .vmov _ _ => true
  | .vbcast _ _ _ => true
  | .vext _ _ _ => true
  | .vins _ _ _ => true
  | .vperm _ _ _ => true
  | .vradd _ _ => true
  | .vrmax _ _ => true
  | .vrmin _ _ => true
  | .vfma _ _ _ _ => true
  | .vfms _ _ _ _ => true
  | .vdiv _ _ _ _ => true
  | .vsqrt _ _ _ => true
  | .vcvt _ _ _ _ => true
  | .vdxq _ _ _ _ => true
  | .vtag _ _ => true
  | .vretag _ _ _ => true
  | .vsexr _ _ _ => true
  | .vsexw _ _ _ => true
  | .cpy _ _ _ => true
  | .toks _ _ => true
  | .barm _ _ _ _ => true
  | .bwait _ _ _ => true
  | .bpoll _ _ _ _ => true
  | .berr _ _ _ => true
  | .bclr _ _ _ => true
  | .lpatch _ _ _ _ => true
  | .larm _ _ => true
  | .lfire _ _ => true
  | .lstat _ _ _ => true
  | .mldb _ _ => true
  | .mmac _ _ _ _ => true
  | .mrun _ _ _ => true
  | .mdrn _ _ _ => true
  | .mhnd _ _ => true
  | .mchk _ _ _ => true
  | .macq _ => true
  | .mrel _ => true
  | .srng _ _ _ => true
  | .commit => true
  | .ctxsv _ _ => true
  | .ctxld _ _ => true
  | .preempt _ _ _ => true
  | .unfreeze _ _ _ => true
  | .errpop _ _ => true
  | .dtset _ _ _ => true
  | .dtget _ _ => true
  | .spill _ _ => true
  | .rinv _ _ _ _ => true
  | .rinvw _ _ _ => true
  | .rstat _ _ _ _ => true
  | .tbr _ _ => true
  | .waitt _ _ => true
  | .coll _ _ _ => true
  | .add16 _ _ => true
  | .sub16 _ _ => true
  | .mul16 _ _ => true
  | .and16 _ _ => true
  | .or16 _ _ => true
  | .xor16 _ _ => true
  | .shl16 _ _ => true
  | .shr16 _ _ => true
  | .sra16 _ _ => true
  | .min16 _ _ => true
  | .max16 _ _ => true
  | .mov16 _ _ => true
  | .neg16 _ _ => true
  | .not16 _ _ => true
  | .abs16 _ _ => true
  | .clt16 _ _ => true
  | .vadd16 _ _ => true
  | .vsub16 _ _ => true
  | .vmul16 _ _ => true
  | .vand16 _ _ => true
  | .vor16 _ _ => true
  | .vxor16 _ _ => true
  | .vshl16 _ _ => true
  | .vshr16 _ _ => true
  | .vsra16 _ _ => true
  | .vmin16 _ _ => true
  | .vmax16 _ _ => true
  | .vmov16 _ _ => true
  | .vneg16 _ _ => true
  | .vabs16 _ _ => true
  | .vclt16 _ _ => true
  | .rep _ _ _ _ => true
  | .waitk _ _ => true
  | .movis _ _ => true
  | .nop => true
  | .yield16 => true
  | .quit16 => true
  | .rdone => true
  | .fencei16 => true
  | .firmwareExpansion _ _ => true

end Sys2Proof
end

