-- ==== Sys2Proof/Decode.lean ====
section
/-! DEFINITION. Decode: from bits to instructions by the steps of R85, and back.
A word is read as a number whose bit 0 is the least significant bit of the halfword at the lower address (R72). The
decoder is total and names the step of R85 at which it refuses a word. The encoder at the end of the file is written
from the same tables. -/

namespace Sys2Proof

/-- Why a word is refused (R85): each constructor is a step of that rule. -/
inductive DecodeError where
  /-- Step 2: the word 0x0000, an unassigned op13, or the short operation 13 with V = 1. -/
  | shortUnassigned
  /-- Step 3: a major opcode with no assignment. -/
  | majorUnassigned
  /-- Step 4: a func, cond, op3 or func4 value beyond those assigned. -/
  | funcUnassigned
  /-- Step 5: a reserved field that is not 0. -/
  | reservedField
  /-- Step 6: a coded value that its field does not allow. -/
  | badCode
  /-- Step 7 for WAITK: mask 0 or kind 3 (R82). -/
  | badWaitk
  /-- The bytes end before the instruction does. -/
  | truncated
deriving DecidableEq, Repr

/-- Bits [lo + n - 1 : lo] of `w`. -/
def fld (w lo n : Nat) : Nat := w / 2 ^ lo % 2 ^ n

/-- The signed reading of a field of `n` bits. -/
def sfld (w lo n : Nat) : Int :=
  if fld w lo n < 2 ^ (n - 1) then (fld w lo n : Int) else (fld w lo n : Int) - (2 ^ n : Nat)

/-- A field of values below `k`. -/
def finAt (k : Nat) (h : 0 < k) (w lo : Nat) : Fin k := ⟨w / 2 ^ lo % k, Nat.mod_lt _ h⟩

/-- A name field (R74). -/
def nameAt (w lo : Nat) : Name := finAt 64 (by decide) w lo

/-- A vector register, or a broadcast name, in the low five bits of a field (R75). -/
def regAt (w lo : Nat) : Fin 32 := finAt 32 (by decide) w lo

/-- The lookahead field (R76). -/
def lookAt (w : Nat) : Look := finAt 16 (by decide) w 25

/-- A vector operand field (R75). -/
def vopAt (w lo : Nat) : VOp :=
  if fld w (lo + 5) 1 = 0 then .reg (regAt w lo) else .bcast (regAt w lo)

/-- A coded value below `k`, where the field is wider. -/
def finOf (k v : Nat) : Option (Fin k) := if h : v < k then some ⟨v, h⟩ else none

/-- Tag codes (R68). -/
def tagOf : Nat → Tag
  | 0 => .raw | 1 => .i8 | 2 => .i16 | 3 => .i32 | 4 => .fp32 | 5 => .bf16 | 6 => .fp16 | 7 => .e4m3
  | 8 => .e5m2 | 9 => .dx8 | 10 => .dx6 | 11 => .dx4 | 12 => .mxe4m3 | 13 => .mxe5m2 | 14 => .mxfp4
  | _ => .mxint8

/-- Scope codes (R77). -/
def scopeOf : Nat → Option Scope
  | 0 => some .core | 1 => some .quad | 2 => some .die | 3 => some .dev | 4 => some .host | 5 => some .fab
  | _ => none

/-- Rounding-mode codes (R55). -/
def rmOf : Nat → Option RMode
  | 0 => some .rne | 1 => some .rtz | 2 => some .rdn | 3 => some .rup | 4 => some .sr
  | _ => none

/-- Overflow-mode codes (R43). -/
def ovOf : Nat → Option OvMode
  | 0 => some .wrap | 1 => some .sat | 2 => some .trap
  | _ => none

/-- Memory-format codes of VLDX and VSTX (R77). -/
def memFmtOf (v : Nat) : Option MemFmt :=
  if v < 16 then some (.tag (tagOf v)) else if v = 16 then some .mxfp6a else if v = 17 then some .mxfp6b else none

/-- WAITK kind codes (R82). -/
def kindOf : Nat → Option TokKind
  | 0 => some .src | 1 => some .vis | 2 => some .both
  | _ => none

/-- A mode field that holds 0 or 1. -/
def boolOf : Nat → Option Bool
  | 0 => some false | 1 => some true
  | _ => none

/-- Control-register numbers (R78). -/
def csrOf : Nat → Option Csr
  | 0x000 => some .trapc | 0x001 => some .trappc | 0x002 => some .trapx | 0x003 => some .trapa
  | 0x004 => some .trapv | 0x005 => some .traprec | 0x006 => some .ctxid | 0x007 => some .privl
  | 0x008 => some .rottab | 0x009 => some .splitc | 0x00A => some .dbgctl | 0x00B => some .srngc
  | 0x00C => some .tbase | 0x00D => some .errhead | 0x00E => some .errtail | 0x00F => some .errstat
  | 0x010 => some .lcmap | 0x011 => some .temps | 0x012 => some .volts | 0x013 => some .procm
  | 0x014 => some .dbga | 0x015 => some .dbgm
  | _ => none

/-- The last check of the decoder: the coded values and ranges of R74 to R82. -/
def checked (i : Instr) : Except DecodeError Instr := if i.wf then .ok i else .error .badCode

/-! Lean compiles no constructor with fields beyond the 245th of a type, so the functions that build an instruction are
marked noncomputable; the kernel evaluates them like any other. -/

noncomputable section

/-- Major 0x01 (R84). -/
def decodeM01 (w : Nat) : Except DecodeError Instr :=
  match fld w 25 7 with
  | 0 => checked (.add (nameAt w 7) (nameAt w 13) (nameAt w 19))
  | 1 => checked (.sub (nameAt w 7) (nameAt w 13) (nameAt w 19))
  | 2 => checked (.mul (nameAt w 7) (nameAt w 13) (nameAt w 19))
  | 3 => checked (.mulh (nameAt w 7) (nameAt w 13) (nameAt w 19))
  | 4 => checked (.div (nameAt w 7) (nameAt w 13) (nameAt w 19))
  | 5 => checked (.divu (nameAt w 7) (nameAt w 13) (nameAt w 19))
  | 6 => checked (.rem (nameAt w 7) (nameAt w 13) (nameAt w 19))
  | 7 => checked (.remu (nameAt w 7) (nameAt w 13) (nameAt w 19))
  | 8 => checked (.and (nameAt w 7) (nameAt w 13) (nameAt w 19))
  | 9 => checked (.or (nameAt w 7) (nameAt w 13) (nameAt w 19))
  | 10 => checked (.xor (nameAt w 7) (nameAt w 13) (nameAt w 19))
  | 11 => checked (.andn (nameAt w 7) (nameAt w 13) (nameAt w 19))
  | 12 => checked (.shl (nameAt w 7) (nameAt w 13) (nameAt w 19))
  | 13 => checked (.shr (nameAt w 7) (nameAt w 13) (nameAt w 19))
  | 14 => checked (.sra (nameAt w 7) (nameAt w 13) (nameAt w 19))
  | 15 => checked (.rol (nameAt w 7) (nameAt w 13) (nameAt w 19))
  | 16 => checked (.min (nameAt w 7) (nameAt w 13) (nameAt w 19))
  | 17 => checked (.minu (nameAt w 7) (nameAt w 13) (nameAt w 19))
  | 18 => checked (.max (nameAt w 7) (nameAt w 13) (nameAt w 19))
  | 19 => checked (.maxu (nameAt w 7) (nameAt w 13) (nameAt w 19))
  | 20 => checked (.ceq (nameAt w 7) (nameAt w 13) (nameAt w 19))
  | 21 => checked (.cne (nameAt w 7) (nameAt w 13) (nameAt w 19))
  | 22 => checked (.clt (nameAt w 7) (nameAt w 13) (nameAt w 19))
  | 23 => checked (.cltu (nameAt w 7) (nameAt w 13) (nameAt w 19))
  | 24 => checked (.cle (nameAt w 7) (nameAt w 13) (nameAt w 19))
  | 25 => checked (.cleu (nameAt w 7) (nameAt w 13) (nameAt w 19))
  | 26 => checked (.sel (nameAt w 7) (nameAt w 13) (nameAt w 19))
  | 27 => checked (.bfx (nameAt w 7) (nameAt w 13) (nameAt w 19))
  | 28 => checked (.bfi (nameAt w 7) (nameAt w 13) (nameAt w 19))
  | 29 => if fld w 19 6 = 0 then checked (.clz (nameAt w 7) (nameAt w 13)) else .error .reservedField
  | 30 => if fld w 19 6 = 0 then checked (.popc (nameAt w 7) (nameAt w 13)) else .error .reservedField
  | 31 => if fld w 19 6 = 0 then checked (.abs (nameAt w 7) (nameAt w 13)) else .error .reservedField
  | 32 => if fld w 19 6 = 0 then checked (.neg (nameAt w 7) (nameAt w 13)) else .error .reservedField
  | 33 => if fld w 19 6 = 0 then checked (.not (nameAt w 7) (nameAt w 13)) else .error .reservedField
  | 34 => if fld w 19 6 = 0 then checked (.mov (nameAt w 7) (nameAt w 13)) else .error .reservedField
  | _ => .error .funcUnassigned

/-- Major 0x02 (R84). -/
def decodeM02 (w : Nat) : Except DecodeError Instr :=
  match fld w 19 3 with
  | 0 => checked (.addi (nameAt w 7) (nameAt w 13) (sfld w 22 10))
  | 1 => checked (.andi (nameAt w 7) (nameAt w 13) (sfld w 22 10))
  | 2 => checked (.ori (nameAt w 7) (nameAt w 13) (sfld w 22 10))
  | 3 => checked (.xori (nameAt w 7) (nameAt w 13) (sfld w 22 10))
  | 4 => if fld w 29 3 = 0 then checked (.shli (nameAt w 7) (nameAt w 13) (fld w 22 7)) else .error .reservedField
  | 5 => if fld w 29 3 = 0 then checked (.shri (nameAt w 7) (nameAt w 13) (fld w 22 7)) else .error .reservedField
  | 6 => if fld w 29 3 = 0 then checked (.srai (nameAt w 7) (nameAt w 13) (fld w 22 7)) else .error .reservedField
  | _ => checked (.clti (nameAt w 7) (nameAt w 13) (sfld w 22 10))

/-- Major 0x03 (R84). -/
def decodeM03 (w : Nat) : Except DecodeError Instr :=
  checked (.ldk (nameAt w 7) (sfld w 13 19))

/-- Major 0x04 (R84). -/
def decodeM04 (w : Nat) : Except DecodeError Instr :=
  checked (.ldks (nameAt w 7) (fld w 13 19))

/-- Major 0x05 (R84). -/
def decodeM05 (w : Nat) : Except DecodeError Instr :=
  match fld w 19 3 with
  | 0 => if fld w 13 6 = 0 ∧ fld w 29 3 = 0 then checked (.resize (nameAt w 7) (fld w 22 7)) else .error .reservedField
  | 1 => if fld w 13 6 = 0 ∧ fld w 24 8 = 0 then (match ovOf (fld w 22 2) with | some md => checked (.mode (nameAt w 7) md) | none => .error .badCode) else .error .reservedField
  | 2 => if fld w 22 10 = 0 then checked (.width (nameAt w 7) (nameAt w 13)) else .error .reservedField
  | 3 => if fld w 13 6 = 0 ∧ fld w 22 10 = 0 then checked (.mff (nameAt w 7)) else .error .reservedField
  | 4 => if fld w 7 6 = 0 ∧ fld w 22 10 = 0 then checked (.mtf (nameAt w 13)) else .error .reservedField
  | 5 => if fld w 7 12 = 0 ∧ fld w 22 10 = 0 then checked (.sfclr) else .error .reservedField
  | _ => .error .funcUnassigned

/-- Major 0x06 (R84). -/
def decodeM06 (w : Nat) : Except DecodeError Instr :=
  match fld w 19 3 with
  | 0 => checked (.beq (nameAt w 7) (nameAt w 13) (sfld w 22 10))
  | 1 => checked (.bne (nameAt w 7) (nameAt w 13) (sfld w 22 10))
  | 2 => checked (.blt (nameAt w 7) (nameAt w 13) (sfld w 22 10))
  | 3 => checked (.bge (nameAt w 7) (nameAt w 13) (sfld w 22 10))
  | 4 => checked (.bltu (nameAt w 7) (nameAt w 13) (sfld w 22 10))
  | 5 => checked (.bgeu (nameAt w 7) (nameAt w 13) (sfld w 22 10))
  | 6 => if fld w 7 12 = 0 then checked (.bsf (sfld w 22 10)) else .error .reservedField
  | _ => .error .funcUnassigned

/-- Major 0x07 (R84). -/
def decodeM07 (w : Nat) : Except DecodeError Instr :=
  checked (.jmp (sfld w 7 25))

/-- Major 0x08 (R84). -/
def decodeM08 (w : Nat) : Except DecodeError Instr :=
  checked (.call (sfld w 7 25))

/-- Major 0x09 (R84). -/
def decodeM09 (w : Nat) : Except DecodeError Instr :=
  match fld w 19 3 with
  | 0 => if fld w 7 6 = 0 then checked (.jmpr (nameAt w 13) (sfld w 22 10)) else .error .reservedField
  | 1 => if fld w 7 6 = 0 then checked (.callr (nameAt w 13) (sfld w 22 10)) else .error .reservedField
  | _ => .error .funcUnassigned

/-- Major 0x0A (R84). -/
def decodeM0A (w : Nat) : Except DecodeError Instr :=
  match fld w 25 7 with
  | 0 => checked (.fadd (nameAt w 7) (nameAt w 13) (nameAt w 19))
  | 1 => checked (.fsub (nameAt w 7) (nameAt w 13) (nameAt w 19))
  | 2 => checked (.fmul (nameAt w 7) (nameAt w 13) (nameAt w 19))
  | 3 => checked (.fdiv (nameAt w 7) (nameAt w 13) (nameAt w 19))
  | 4 => if fld w 19 6 = 0 then checked (.fsqrt (nameAt w 7) (nameAt w 13)) else .error .reservedField
  | 5 => checked (.fmin (nameAt w 7) (nameAt w 13) (nameAt w 19))
  | 6 => checked (.fmax (nameAt w 7) (nameAt w 13) (nameAt w 19))
  | 7 => checked (.fceq (nameAt w 7) (nameAt w 13) (nameAt w 19))
  | 8 => checked (.fclt (nameAt w 7) (nameAt w 13) (nameAt w 19))
  | 9 => checked (.fcle (nameAt w 7) (nameAt w 13) (nameAt w 19))
  | 10 => if fld w 19 6 = 0 then checked (.fclass (nameAt w 7) (nameAt w 13)) else .error .reservedField
  | 11 => if fld w 19 6 = 0 then checked (.fneg (nameAt w 7) (nameAt w 13)) else .error .reservedField
  | 12 => if fld w 19 6 = 0 then checked (.fabs (nameAt w 7) (nameAt w 13)) else .error .reservedField
  | 13 => if fld w 22 3 = 0 then (match rmOf (fld w 19 3) with | some rm => checked (.fcvt (nameAt w 7) (nameAt w 13) rm) | none => .error .badCode) else .error .reservedField
  | 14 => if fld w 22 3 = 0 then (match rmOf (fld w 19 3) with | some rm => checked (.fcvti (nameAt w 7) (nameAt w 13) rm) | none => .error .badCode) else .error .reservedField
  | 15 => if fld w 22 3 = 0 then (match rmOf (fld w 19 3) with | some rm => checked (.fcvtf (nameAt w 7) (nameAt w 13) rm) | none => .error .badCode) else .error .reservedField
  | _ => .error .funcUnassigned

/-- Major 0x0B (R84). -/
def decodeM0B (w : Nat) : Except DecodeError Instr :=
  match fld w 29 3 with
  | 0 => checked (.fma (nameAt w 7) (nameAt w 13) (nameAt w 19) (lookAt w))
  | 1 => checked (.fms (nameAt w 7) (nameAt w 13) (nameAt w 19) (lookAt w))
  | 2 => checked (.fnma (nameAt w 7) (nameAt w 13) (nameAt w 19) (lookAt w))
  | _ => .error .funcUnassigned

/-- Major 0x0C (R84). -/
def decodeM0C (w : Nat) : Except DecodeError Instr :=
  match fld w 29 3 with
  | 0 => if fld w 25 4 = 0 then checked (.bmov (nameAt w 7) (nameAt w 13) (nameAt w 19)) else .error .reservedField
  | 1 => if fld w 25 4 = 0 then checked (.bset (nameAt w 7) (nameAt w 13) (nameAt w 19)) else .error .reservedField
  | _ => .error .funcUnassigned

/-- Major 0x0D (R84). -/
def decodeM0D (w : Nat) : Except DecodeError Instr :=
  match fld w 25 7 with
  | 0 => checked (.trap (fld w 7 18))
  | 1 => if fld w 7 18 = 0 then checked (.eret) else .error .reservedField
  | 2 => (match csrOf (fld w 13 12) with | some csr => checked (.csrr (nameAt w 7) csr) | none => .error .badCode)
  | 3 => (match csrOf (fld w 13 12) with | some csr => checked (.csrw (nameAt w 7) csr) | none => .error .badCode)
  | 4 => if fld w 7 18 = 0 then checked (.brk) else .error .reservedField
  | 5 => if fld w 7 18 = 0 then checked (.fencei) else .error .reservedField
  | _ => .error .funcUnassigned

/-- Major 0x10 (R84). -/
def decodeM10 (w : Nat) : Except DecodeError Instr :=
  match fld w 29 3 with
  | 0 => checked (.ldb (nameAt w 7) (nameAt w 13) (sfld w 19 6) (lookAt w))
  | 1 => checked (.ldh (nameAt w 7) (nameAt w 13) (sfld w 19 6) (lookAt w))
  | 2 => checked (.ldw (nameAt w 7) (nameAt w 13) (sfld w 19 6) (lookAt w))
  | 3 => checked (.ldd (nameAt w 7) (nameAt w 13) (sfld w 19 6) (lookAt w))
  | 4 => checked (.ldbu (nameAt w 7) (nameAt w 13) (sfld w 19 6) (lookAt w))
  | 5 => checked (.ldhu (nameAt w 7) (nameAt w 13) (sfld w 19 6) (lookAt w))
  | 6 => checked (.ldwu (nameAt w 7) (nameAt w 13) (sfld w 19 6) (lookAt w))
  | _ => if fld w 25 4 = 0 then checked (.ldff (nameAt w 7) (nameAt w 13) (sfld w 19 6)) else .error .reservedField

/-- Major 0x11 (R84). -/
def decodeM11 (w : Nat) : Except DecodeError Instr :=
  match fld w 29 3 with
  | 0 => checked (.stb (nameAt w 7) (nameAt w 13) (sfld w 19 6) (lookAt w))
  | 1 => checked (.sth (nameAt w 7) (nameAt w 13) (sfld w 19 6) (lookAt w))
  | 2 => checked (.stw (nameAt w 7) (nameAt w 13) (sfld w 19 6) (lookAt w))
  | 3 => checked (.std (nameAt w 7) (nameAt w 13) (sfld w 19 6) (lookAt w))
  | _ => .error .funcUnassigned

/-- Major 0x12 (R84). -/
def decodeM12 (w : Nat) : Except DecodeError Instr :=
  match fld w 29 3 with
  | 0 => if fld w 12 1 = 0 ∧ fld w 23 2 = 0 then checked (.vld (regAt w 7) (nameAt w 13) (tagOf (fld w 19 4)) (lookAt w)) else .error .reservedField
  | 1 => if fld w 12 1 = 0 ∧ fld w 23 2 = 0 then checked (.vst (regAt w 7) (nameAt w 13) (tagOf (fld w 19 4)) (lookAt w)) else .error .reservedField
  | 2 => if fld w 12 1 = 0 ∧ fld w 24 1 = 0 then (match memFmtOf (fld w 19 6) with | some fmt => checked (.vldx (regAt w 7) (nameAt w 13) fmt (lookAt w)) | none => .error .badCode) else .error .reservedField
  | 3 => if fld w 12 1 = 0 ∧ fld w 24 1 = 0 then (match memFmtOf (fld w 19 6) with | some fmt => checked (.vstx (regAt w 7) (nameAt w 13) fmt (lookAt w)) | none => .error .badCode) else .error .reservedField
  | 4 => if fld w 12 1 = 0 ∧ fld w 23 2 = 0 then checked (.vldb (regAt w 7) (nameAt w 13) (tagOf (fld w 19 4)) (lookAt w)) else .error .reservedField
  | 5 => if fld w 12 1 = 0 ∧ fld w 23 2 = 0 then checked (.vgath (regAt w 7) (nameAt w 13) (tagOf (fld w 19 4)) (lookAt w)) else .error .reservedField
  | 6 => if fld w 12 1 = 0 ∧ fld w 23 2 = 0 then checked (.vscat (regAt w 7) (nameAt w 13) (tagOf (fld w 19 4)) (lookAt w)) else .error .reservedField
  | _ => .error .funcUnassigned

/-- Major 0x13 (R84). -/
def decodeM13 (w : Nat) : Except DecodeError Instr :=
  match fld w 29 3 with
  | 0 => if fld w 25 4 = 0 then checked (.lde (nameAt w 7) (nameAt w 13) (sfld w 19 6)) else .error .reservedField
  | 1 => if fld w 25 4 = 0 then checked (.stf (nameAt w 7) (nameAt w 13) (sfld w 19 6)) else .error .reservedField
  | 2 => checked (.stff (nameAt w 7) (nameAt w 13) (sfld w 19 6) (lookAt w))
  | 3 => checked (.feq (nameAt w 7) (nameAt w 13) (sfld w 19 6) (lookAt w))
  | 4 => if fld w 7 6 = 0 then checked (.fempty (nameAt w 13) (sfld w 19 6) (lookAt w)) else .error .reservedField
  | 5 => if fld w 7 6 = 0 then checked (.fefill (nameAt w 13) (sfld w 19 6) (lookAt w)) else .error .reservedField
  | _ => .error .funcUnassigned

/-- Major 0x14 (R84). -/
def decodeM14 (w : Nat) : Except DecodeError Instr :=
  match fld w 28 4 with
  | 0 => (match scopeOf (fld w 25 3) with | some scope => checked (.aadd (nameAt w 7) (nameAt w 13) (nameAt w 19) scope) | none => .error .badCode)
  | 1 => (match scopeOf (fld w 25 3) with | some scope => checked (.amin (nameAt w 7) (nameAt w 13) (nameAt w 19) scope) | none => .error .badCode)
  | 2 => (match scopeOf (fld w 25 3) with | some scope => checked (.aminu (nameAt w 7) (nameAt w 13) (nameAt w 19) scope) | none => .error .badCode)
  | 3 => (match scopeOf (fld w 25 3) with | some scope => checked (.amax (nameAt w 7) (nameAt w 13) (nameAt w 19) scope) | none => .error .badCode)
  | 4 => (match scopeOf (fld w 25 3) with | some scope => checked (.amaxu (nameAt w 7) (nameAt w 13) (nameAt w 19) scope) | none => .error .badCode)
  | 5 => (match scopeOf (fld w 25 3) with | some scope => checked (.aand (nameAt w 7) (nameAt w 13) (nameAt w 19) scope) | none => .error .badCode)
  | 6 => (match scopeOf (fld w 25 3) with | some scope => checked (.aor (nameAt w 7) (nameAt w 13) (nameAt w 19) scope) | none => .error .badCode)
  | 7 => (match scopeOf (fld w 25 3) with | some scope => checked (.axor (nameAt w 7) (nameAt w 13) (nameAt w 19) scope) | none => .error .badCode)
  | 8 => (match scopeOf (fld w 25 3) with | some scope => checked (.aswp (nameAt w 7) (nameAt w 13) (nameAt w 19) scope) | none => .error .badCode)
  | 9 => (match scopeOf (fld w 25 3) with | some scope => checked (.acas (nameAt w 7) (nameAt w 13) (nameAt w 19) scope) | none => .error .badCode)
  | 10 => if fld w 7 6 = 0 then (match scopeOf (fld w 25 3) with | some scope => checked (.radd (nameAt w 13) (nameAt w 19) scope) | none => .error .badCode) else .error .reservedField
  | 11 => if fld w 7 6 = 0 then (match scopeOf (fld w 25 3) with | some scope => checked (.rmin (nameAt w 13) (nameAt w 19) scope) | none => .error .badCode) else .error .reservedField
  | 12 => if fld w 7 6 = 0 then (match scopeOf (fld w 25 3) with | some scope => checked (.rmax (nameAt w 13) (nameAt w 19) scope) | none => .error .badCode) else .error .reservedField
  | 13 => if fld w 7 6 = 0 then (match scopeOf (fld w 25 3) with | some scope => checked (.ror (nameAt w 13) (nameAt w 19) scope) | none => .error .badCode) else .error .reservedField
  | 14 => if fld w 7 6 = 0 then (match scopeOf (fld w 25 3) with | some scope => checked (.rfadd (nameAt w 13) (nameAt w 19) scope) | none => .error .badCode) else .error .reservedField
  | _ => .error .funcUnassigned

/-- Major 0x15 (R84). -/
def decodeM15 (w : Nat) : Except DecodeError Instr :=
  match fld w 28 4 with
  | 0 => if fld w 19 6 = 0 then (match scopeOf (fld w 25 3) with | some scope => checked (.lrw (nameAt w 7) (nameAt w 13) scope) | none => .error .badCode) else .error .reservedField
  | 1 => if fld w 7 6 = 0 then (match scopeOf (fld w 25 3) with | some scope => checked (.sch (nameAt w 13) (nameAt w 19) scope) | none => .error .badCode) else .error .reservedField
  | 2 => if fld w 7 6 = 0 ∧ fld w 19 6 = 0 then (match scopeOf (fld w 25 3) with | some scope => checked (.lrx (nameAt w 13) scope) | none => .error .badCode) else .error .reservedField
  | 3 => if fld w 7 18 = 0 then (match scopeOf (fld w 25 3) with | some scope => checked (.phaseRel scope) | none => .error .badCode) else .error .reservedField
  | 4 => if fld w 7 18 = 0 then (match scopeOf (fld w 25 3) with | some scope => checked (.phaseAcq scope) | none => .error .badCode) else .error .reservedField
  | 5 => if fld w 7 18 = 0 then (match scopeOf (fld w 25 3) with | some scope => checked (.phaseAr scope) | none => .error .badCode) else .error .reservedField
  | _ => .error .funcUnassigned

/-- Major 0x16 (R84). -/
def decodeM16 (w : Nat) : Except DecodeError Instr :=
  match fld w 29 3 with
  | 0 => if fld w 7 6 = 0 ∧ fld w 25 4 = 0 then checked (.enq (nameAt w 13) (nameAt w 19)) else .error .reservedField
  | 1 => if fld w 19 10 = 0 then checked (.deq (nameAt w 7) (nameAt w 13)) else .error .reservedField
  | 2 => checked (.enqn (nameAt w 7) (nameAt w 13) (nameAt w 19) (lookAt w))
  | 3 => if fld w 19 6 = 0 then checked (.deqn (nameAt w 7) (nameAt w 13) (lookAt w)) else .error .reservedField
  | 4 => if fld w 25 4 = 0 then checked (.enqw (nameAt w 7) (nameAt w 13) (nameAt w 19)) else .error .reservedField
  | 5 => if fld w 25 4 = 0 then checked (.deqw (nameAt w 7) (nameAt w 13) (nameAt w 19)) else .error .reservedField
  | 6 => (match finOf 7 (fld w 19 6) with | some item => checked (.qstat (nameAt w 7) (nameAt w 13) item (lookAt w)) | none => .error .badCode)
  | _ => if fld w 19 10 = 0 then checked (.qbind (nameAt w 7) (nameAt w 13)) else .error .reservedField

/-- Major 0x17 (R84). -/
def decodeM17 (w : Nat) : Except DecodeError Instr :=
  match fld w 19 3 with
  | 0 => if fld w 22 10 = 0 then checked (.sptest (nameAt w 7) (nameAt w 13)) else .error .reservedField
  | 1 => if fld w 22 10 = 0 then checked (.spcast (nameAt w 7) (nameAt w 13)) else .error .reservedField
  | 2 => if fld w 22 10 = 0 then checked (.spmake (nameAt w 7) (nameAt w 13)) else .error .reservedField
  | 3 => if fld w 22 10 = 0 then checked (.spcore (nameAt w 7) (nameAt w 13)) else .error .reservedField
  | 4 => if fld w 7 12 = 0 ∧ fld w 25 7 = 0 then (match finOf 5 (fld w 22 3) with | some units => checked (.split units) | none => .error .badCode) else .error .reservedField
  | _ => .error .funcUnassigned

/-- Major 0x18 (R84). -/
def decodeM18 (w : Nat) : Except DecodeError Instr :=
  match fld w 25 7 with
  | 0 => checked (.spawn (nameAt w 7) (nameAt w 13) (nameAt w 19))
  | 1 => if fld w 7 18 = 0 then checked (.quit) else .error .reservedField
  | 2 => if fld w 7 18 = 0 then checked (.yield) else .error .reservedField
  | 3 => if fld w 13 6 = 0 then (match finOf 8 (fld w 19 6) with | some item => checked (.tid (nameAt w 7) item) | none => .error .badCode) else .error .reservedField
  | 4 => if fld w 9 4 = 0 ∧ fld w 22 3 = 0 then (match scopeOf (fld w 19 3) with | some scope => checked (.join (finAt 4 (by decide) w 7) (nameAt w 13) scope) | none => .error .badCode) else .error .reservedField
  | 5 => if fld w 9 16 = 0 then checked (.leave (finAt 4 (by decide) w 7)) else .error .reservedField
  | 6 => if fld w 9 16 = 0 then checked (.gbar (finAt 4 (by decide) w 7)) else .error .reservedField
  | 7 => if fld w 15 4 = 0 ∧ fld w 21 4 = 0 then checked (.gcnt (nameAt w 7) (finAt 4 (by decide) w 13) (finAt 4 (by decide) w 19)) else .error .reservedField
  | 8 => if fld w 13 12 = 0 then checked (.rotr (nameAt w 7)) else .error .reservedField
  | 9 => if fld w 7 6 = 0 ∧ fld w 19 6 = 0 then checked (.rotw (nameAt w 13)) else .error .reservedField
  | _ => .error .funcUnassigned

/-- Major 0x19 (R84). -/
def decodeM19 (w : Nat) : Except DecodeError Instr :=
  match fld w 25 7 with
  | 0 => if fld w 13 6 = 0 ∧ fld w 21 4 = 0 then checked (.link (nameAt w 7) (finAt 4 (by decide) w 19)) else .error .reservedField
  | 1 => if fld w 13 12 = 0 then checked (.unlink (nameAt w 7)) else .error .reservedField
  | 2 => if fld w 7 6 = 0 ∧ fld w 19 6 = 0 then checked (.ldir (nameAt w 13)) else .error .reservedField
  | 3 => if fld w 13 12 = 0 then checked (.ldirr (nameAt w 7)) else .error .reservedField
  | _ => .error .funcUnassigned

/-- Major 0x1A (R84). -/
def decodeM1A (w : Nat) : Except DecodeError Instr :=
  match fld w 25 7 with
  | 0 => if fld w 12 1 = 0 then checked (.vadd (regAt w 7) (vopAt w 13) (vopAt w 19)) else .error .reservedField
  | 1 => if fld w 12 1 = 0 then checked (.vsub (regAt w 7) (vopAt w 13) (vopAt w 19)) else .error .reservedField
  | 2 => if fld w 12 1 = 0 then checked (.vmul (regAt w 7) (vopAt w 13) (vopAt w 19)) else .error .reservedField
  | 3 => if fld w 12 1 = 0 then checked (.vmin (regAt w 7) (vopAt w 13) (vopAt w 19)) else .error .reservedField
  | 4 => if fld w 12 1 = 0 then checked (.vmax (regAt w 7) (vopAt w 13) (vopAt w 19)) else .error .reservedField
  | 5 => if fld w 12 1 = 0 then checked (.vminu (regAt w 7) (vopAt w 13) (vopAt w 19)) else .error .reservedField
  | 6 => if fld w 12 1 = 0 then checked (.vmaxu (regAt w 7) (vopAt w 13) (vopAt w 19)) else .error .reservedField
  | 7 => if fld w 12 1 = 0 then checked (.vand (regAt w 7) (vopAt w 13) (vopAt w 19)) else .error .reservedField
  | 8 => if fld w 12 1 = 0 then checked (.vor (regAt w 7) (vopAt w 13) (vopAt w 19)) else .error .reservedField
  | 9 => if fld w 12 1 = 0 then checked (.vxor (regAt w 7) (vopAt w 13) (vopAt w 19)) else .error .reservedField
  | 10 => if fld w 12 1 = 0 then checked (.vshl (regAt w 7) (vopAt w 13) (vopAt w 19)) else .error .reservedField
  | 11 => if fld w 12 1 = 0 then checked (.vshr (regAt w 7) (vopAt w 13) (vopAt w 19)) else .error .reservedField
  | 12 => if fld w 12 1 = 0 then checked (.vsra (regAt w 7) (vopAt w 13) (vopAt w 19)) else .error .reservedField
  | 13 => if fld w 12 1 = 0 ∧ fld w 18 7 = 0 then checked (.vabs (regAt w 7) (regAt w 13)) else .error .reservedField
  | 14 => if fld w 12 1 = 0 ∧ fld w 18 7 = 0 then checked (.vneg (regAt w 7) (regAt w 13)) else .error .reservedField
  | 15 => if fld w 12 1 = 0 then checked (.vceq (regAt w 7) (vopAt w 13) (vopAt w 19)) else .error .reservedField
  | 16 => if fld w 12 1 = 0 then checked (.vclt (regAt w 7) (vopAt w 13) (vopAt w 19)) else .error .reservedField
  | 17 => if fld w 12 1 = 0 then checked (.vcle (regAt w 7) (vopAt w 13) (vopAt w 19)) else .error .reservedField
  | 18 => if fld w 12 1 = 0 then checked (.vsel (regAt w 7) (vopAt w 13) (vopAt w 19)) else .error .reservedField
  | 19 => if fld w 12 1 = 0 ∧ fld w 18 7 = 0 then checked (.vmov (regAt w 7) (regAt w 13)) else .error .reservedField
  | 20 => if fld w 12 1 = 0 ∧ fld w 18 1 = 1 ∧ fld w 23 2 = 0 then checked (.vbcast (regAt w 7) (regAt w 13) (tagOf (fld w 19 4))) else .error .reservedField
  | 21 => if fld w 18 1 = 0 then checked (.vext (nameAt w 7) (regAt w 13) (nameAt w 19)) else .error .reservedField
  | 22 => if fld w 12 1 = 0 then checked (.vins (regAt w 7) (nameAt w 13) (nameAt w 19)) else .error .reservedField
  | 23 => if fld w 12 1 = 0 ∧ fld w 18 1 = 0 then checked (.vperm (regAt w 7) (regAt w 13) (vopAt w 19)) else .error .reservedField
  | 24 => if fld w 12 1 = 0 ∧ fld w 18 7 = 0 then checked (.vradd (regAt w 7) (regAt w 13)) else .error .reservedField
  | 25 => if fld w 12 1 = 0 ∧ fld w 18 7 = 0 then checked (.vrmax (regAt w 7) (regAt w 13)) else .error .reservedField
  | 26 => if fld w 12 1 = 0 ∧ fld w 18 7 = 0 then checked (.vrmin (regAt w 7) (regAt w 13)) else .error .reservedField
  | _ => .error .funcUnassigned

/-- Major 0x1B (R84). -/
def decodeM1B (w : Nat) : Except DecodeError Instr :=
  match fld w 29 3 with
  | 0 => if fld w 12 1 = 0 then checked (.vfma (regAt w 7) (vopAt w 13) (vopAt w 19) (lookAt w)) else .error .reservedField
  | 1 => if fld w 12 1 = 0 then checked (.vfms (regAt w 7) (vopAt w 13) (vopAt w 19) (lookAt w)) else .error .reservedField
  | 2 => if fld w 12 1 = 0 then checked (.vdiv (regAt w 7) (vopAt w 13) (vopAt w 19) (lookAt w)) else .error .reservedField
  | 3 => if fld w 12 1 = 0 ∧ fld w 18 7 = 0 then checked (.vsqrt (regAt w 7) (regAt w 13) (lookAt w)) else .error .reservedField
  | _ => .error .funcUnassigned

/-- Major 0x1C (R84). -/
def decodeM1C (w : Nat) : Except DecodeError Instr :=
  match fld w 19 3 with
  | 0 => if fld w 12 1 = 0 ∧ fld w 18 1 = 0 ∧ fld w 29 3 = 0 then (match rmOf (fld w 26 3) with | some rm => checked (.vcvt (regAt w 7) (regAt w 13) (tagOf (fld w 22 4)) rm) | none => .error .badCode) else .error .reservedField
  | 1 => if fld w 12 1 = 0 ∧ fld w 18 1 = 0 ∧ fld w 29 3 = 0 then (match rmOf (fld w 26 3) with | some rm => checked (.vdxq (regAt w 7) (regAt w 13) (tagOf (fld w 22 4)) rm) | none => .error .badCode) else .error .reservedField
  | 2 => if fld w 18 1 = 0 ∧ fld w 22 10 = 0 then checked (.vtag (nameAt w 7) (regAt w 13)) else .error .reservedField
  | 3 => if fld w 12 1 = 0 ∧ fld w 18 1 = 0 ∧ fld w 26 6 = 0 then checked (.vretag (regAt w 7) (regAt w 13) (tagOf (fld w 22 4))) else .error .reservedField
  | 4 => if fld w 18 1 = 0 ∧ fld w 25 7 = 0 then (match finOf 5 (fld w 22 3) with | some item => checked (.vsexr (nameAt w 7) (regAt w 13) item) | none => .error .badCode) else .error .reservedField
  | 5 => if fld w 12 1 = 0 ∧ fld w 25 7 = 0 then (match finOf 5 (fld w 22 3) with | some item => checked (.vsexw (regAt w 7) (nameAt w 13) item) | none => .error .badCode) else .error .reservedField
  | _ => .error .funcUnassigned

/-- Major 0x1D (R84). -/
def decodeM1D (w : Nat) : Except DecodeError Instr :=
  match fld w 29 3 with
  | 0 => if fld w 10 3 = 0 ∧ fld w 18 1 = 0 ∧ fld w 25 4 = 0 then checked (.cpy (finAt 8 (by decide) w 7) (regAt w 13) (nameAt w 19)) else .error .reservedField
  | 1 => if fld w 13 12 = 0 then checked (.toks (nameAt w 7) (lookAt w)) else .error .reservedField
  | 2 => checked (.barm (nameAt w 7) (nameAt w 13) (nameAt w 19) (lookAt w))
  | 3 => if fld w 25 4 = 0 then checked (.bwait (nameAt w 7) (nameAt w 13) (nameAt w 19)) else .error .reservedField
  | 4 => checked (.bpoll (nameAt w 7) (nameAt w 13) (nameAt w 19) (lookAt w))
  | 5 => if fld w 19 6 = 0 then checked (.berr (nameAt w 7) (nameAt w 13) (lookAt w)) else .error .reservedField
  | 6 => if fld w 19 6 = 0 then checked (.bclr (nameAt w 7) (nameAt w 13) (lookAt w)) else .error .reservedField
  | _ => .error .funcUnassigned

/-- Major 0x1E (R84). -/
def decodeM1E (w : Nat) : Except DecodeError Instr :=
  match fld w 29 3 with
  | 0 => (match finOf 13 (fld w 13 6) with | some item => checked (.lpatch (nameAt w 7) item (nameAt w 19) (lookAt w)) | none => .error .badCode)
  | 1 => if fld w 13 12 = 0 then checked (.larm (nameAt w 7) (lookAt w)) else .error .reservedField
  | 2 => if fld w 13 12 = 0 then checked (.lfire (nameAt w 7) (lookAt w)) else .error .reservedField
  | 3 => if fld w 19 6 = 0 then checked (.lstat (nameAt w 7) (nameAt w 13) (lookAt w)) else .error .reservedField
  | _ => .error .funcUnassigned

/-- Major 0x1F (R84). -/
def decodeM1F (w : Nat) : Except DecodeError Instr :=
  match fld w 29 3 with
  | 0 => if fld w 7 6 = 0 ∧ fld w 18 7 = 0 then checked (.mldb (regAt w 13) (lookAt w)) else .error .reservedField
  | 1 => if fld w 10 3 = 0 ∧ fld w 18 1 = 0 then checked (.mmac (finAt 8 (by decide) w 7) (regAt w 13) (nameAt w 19) (lookAt w)) else .error .reservedField
  | 2 => if fld w 25 4 = 0 then checked (.mrun (nameAt w 7) (nameAt w 13) (nameAt w 19)) else .error .reservedField
  | 3 => if fld w 7 6 = 0 then checked (.mdrn (nameAt w 13) (nameAt w 19) (lookAt w)) else .error .reservedField
  | 4 => if fld w 7 6 = 0 ∧ fld w 25 4 = 0 then checked (.mhnd (nameAt w 13) (nameAt w 19)) else .error .reservedField
  | 5 => if fld w 19 6 = 0 then checked (.mchk (nameAt w 7) (nameAt w 13) (lookAt w)) else .error .reservedField
  | 6 => if fld w 7 6 = 0 ∧ fld w 19 10 = 0 then checked (.macq (nameAt w 13)) else .error .reservedField
  | _ => if fld w 7 6 = 0 ∧ fld w 19 10 = 0 then checked (.mrel (nameAt w 13)) else .error .reservedField

/-- Major 0x20 (R84). -/
def decodeM20 (w : Nat) : Except DecodeError Instr :=
  match fld w 19 3 with
  | 0 => if fld w 24 8 = 0 then checked (.srng (nameAt w 7) (nameAt w 13) (finAt 4 (by decide) w 22)) else .error .reservedField
  | _ => .error .funcUnassigned

/-- Major 0x21 (R84). -/
def decodeM21 (w : Nat) : Except DecodeError Instr :=
  match fld w 25 7 with
  | 0 => if fld w 7 18 = 0 then checked (.commit) else .error .reservedField
  | 1 => if fld w 19 6 = 0 then checked (.ctxsv (nameAt w 7) (nameAt w 13)) else .error .reservedField
  | 2 => if fld w 19 6 = 0 then checked (.ctxld (nameAt w 7) (nameAt w 13)) else .error .reservedField
  | 3 => (match boolOf (fld w 19 6) with | some md => checked (.preempt (nameAt w 7) (nameAt w 13) md) | none => .error .badCode)
  | 4 => (match finOf 3 (fld w 19 6) with | some action => checked (.unfreeze (nameAt w 7) (nameAt w 13) action) | none => .error .badCode)
  | 5 => if fld w 13 6 = 0 ∧ fld w 24 1 = 0 then checked (.errpop (nameAt w 7) (regAt w 19)) else .error .reservedField
  | 6 => (match finOf 3 (fld w 19 6) with | some md => checked (.dtset (nameAt w 7) (nameAt w 13) md) | none => .error .badCode)
  | 7 => if fld w 13 6 = 0 then (match finOf 5 (fld w 19 6) with | some item => checked (.dtget (nameAt w 7) item) | none => .error .badCode) else .error .reservedField
  | 8 => if fld w 19 6 = 0 then checked (.spill (nameAt w 7) (nameAt w 13)) else .error .reservedField
  | _ => .error .funcUnassigned

/-- Major 0x22 (R84). -/
def decodeM22 (w : Nat) : Except DecodeError Instr :=
  match fld w 29 3 with
  | 0 => if fld w 24 1 = 0 then checked (.rinv (nameAt w 7) (nameAt w 13) (regAt w 19) (lookAt w)) else .error .reservedField
  | 1 => if fld w 24 5 = 0 then checked (.rinvw (nameAt w 7) (nameAt w 13) (regAt w 19)) else .error .reservedField
  | 2 => (match finOf 8 (fld w 19 6) with | some item => checked (.rstat (nameAt w 7) (nameAt w 13) item (lookAt w)) | none => .error .badCode)
  | 3 => if fld w 13 12 = 0 then checked (.tbr (nameAt w 7) (lookAt w)) else .error .reservedField
  | 4 => if fld w 19 10 = 0 then checked (.waitt (nameAt w 7) (nameAt w 13)) else .error .reservedField
  | 5 => if fld w 10 3 = 0 ∧ fld w 18 1 = 0 ∧ fld w 25 4 = 0 then checked (.coll (finAt 8 (by decide) w 7) (regAt w 13) (nameAt w 19)) else .error .reservedField
  | _ => .error .funcUnassigned

/-- A 32-bit word (R73, R84, R85 steps 3 to 6). Whether an expansion is installed for majors 0x3E and 0x3F (R87) is
no property of the word: it is checked where the word executes. -/
def decode32 (w : Nat) : Except DecodeError Instr :=
  match fld w 1 6 with
  | 0x01 => decodeM01 w
  | 0x02 => decodeM02 w
  | 0x03 => decodeM03 w
  | 0x04 => decodeM04 w
  | 0x05 => decodeM05 w
  | 0x06 => decodeM06 w
  | 0x07 => decodeM07 w
  | 0x08 => decodeM08 w
  | 0x09 => decodeM09 w
  | 0x0A => decodeM0A w
  | 0x0B => decodeM0B w
  | 0x0C => decodeM0C w
  | 0x0D => decodeM0D w
  | 0x10 => decodeM10 w
  | 0x11 => decodeM11 w
  | 0x12 => decodeM12 w
  | 0x13 => decodeM13 w
  | 0x14 => decodeM14 w
  | 0x15 => decodeM15 w
  | 0x16 => decodeM16 w
  | 0x17 => decodeM17 w
  | 0x18 => decodeM18 w
  | 0x19 => decodeM19 w
  | 0x1A => decodeM1A w
  | 0x1B => decodeM1B w
  | 0x1C => decodeM1C w
  | 0x1D => decodeM1D w
  | 0x1E => decodeM1E w
  | 0x1F => decodeM1F w
  | 0x20 => decodeM20 w
  | 0x21 => decodeM21 w
  | 0x22 => decodeM22 w
  | 0x3E => .ok (.firmwareExpansion false (fld w 7 25))
  | 0x3F => .ok (.firmwareExpansion true (fld w 7 25))
  | _ => .error .majorUnassigned

/-- Short lane operations with V = 0 (R80). -/
def decodeShort0 (w : Nat) : Except DecodeError Instr :=
  match fld w 3 4 with
  | 0 => checked (.add16 (finAt 16 (by decide) w 7) (finAt 16 (by decide) w 11))
  | 1 => checked (.sub16 (finAt 16 (by decide) w 7) (finAt 16 (by decide) w 11))
  | 2 => checked (.mul16 (finAt 16 (by decide) w 7) (finAt 16 (by decide) w 11))
  | 3 => checked (.and16 (finAt 16 (by decide) w 7) (finAt 16 (by decide) w 11))
  | 4 => checked (.or16 (finAt 16 (by decide) w 7) (finAt 16 (by decide) w 11))
  | 5 => checked (.xor16 (finAt 16 (by decide) w 7) (finAt 16 (by decide) w 11))
  | 6 => checked (.shl16 (finAt 16 (by decide) w 7) (finAt 16 (by decide) w 11))
  | 7 => checked (.shr16 (finAt 16 (by decide) w 7) (finAt 16 (by decide) w 11))
  | 8 => checked (.sra16 (finAt 16 (by decide) w 7) (finAt 16 (by decide) w 11))
  | 9 => checked (.min16 (finAt 16 (by decide) w 7) (finAt 16 (by decide) w 11))
  | 10 => checked (.max16 (finAt 16 (by decide) w 7) (finAt 16 (by decide) w 11))
  | 11 => checked (.mov16 (finAt 16 (by decide) w 7) (finAt 16 (by decide) w 11))
  | 12 => checked (.neg16 (finAt 16 (by decide) w 7) (finAt 16 (by decide) w 11))
  | 13 => checked (.not16 (finAt 16 (by decide) w 7) (finAt 16 (by decide) w 11))
  | 14 => checked (.abs16 (finAt 16 (by decide) w 7) (finAt 16 (by decide) w 11))
  | _ => checked (.clt16 (finAt 16 (by decide) w 7) (finAt 16 (by decide) w 11))

/-- Short lane operations with V = 1 (R80). -/
def decodeShort1 (w : Nat) : Except DecodeError Instr :=
  match fld w 3 4 with
  | 0 => checked (.vadd16 (finAt 16 (by decide) w 7) (finAt 16 (by decide) w 11))
  | 1 => checked (.vsub16 (finAt 16 (by decide) w 7) (finAt 16 (by decide) w 11))
  | 2 => checked (.vmul16 (finAt 16 (by decide) w 7) (finAt 16 (by decide) w 11))
  | 3 => checked (.vand16 (finAt 16 (by decide) w 7) (finAt 16 (by decide) w 11))
  | 4 => checked (.vor16 (finAt 16 (by decide) w 7) (finAt 16 (by decide) w 11))
  | 5 => checked (.vxor16 (finAt 16 (by decide) w 7) (finAt 16 (by decide) w 11))
  | 6 => checked (.vshl16 (finAt 16 (by decide) w 7) (finAt 16 (by decide) w 11))
  | 7 => checked (.vshr16 (finAt 16 (by decide) w 7) (finAt 16 (by decide) w 11))
  | 8 => checked (.vsra16 (finAt 16 (by decide) w 7) (finAt 16 (by decide) w 11))
  | 9 => checked (.vmin16 (finAt 16 (by decide) w 7) (finAt 16 (by decide) w 11))
  | 10 => checked (.vmax16 (finAt 16 (by decide) w 7) (finAt 16 (by decide) w 11))
  | 11 => checked (.vmov16 (finAt 16 (by decide) w 7) (finAt 16 (by decide) w 11))
  | 12 => checked (.vneg16 (finAt 16 (by decide) w 7) (finAt 16 (by decide) w 11))
  | 14 => checked (.vabs16 (finAt 16 (by decide) w 7) (finAt 16 (by decide) w 11))
  | 15 => checked (.vclt16 (finAt 16 (by decide) w 7) (finAt 16 (by decide) w 11))
  | _ => .error .shortUnassigned

/-- Class 01 with bit 15 = 0 (R79). -/
def decodeRep (w : Nat) : Except DecodeError Instr :=
  checked (.rep (finAt 64 (by decide) w 3) (finAt 4 (by decide) w 9) (finAt 4 (by decide) w 11) (finAt 4 (by decide) w 13))

/-- Class 01 with bit 15 = 1 (R82). -/
def decodeWaitk (w : Nat) : Except DecodeError Instr :=
  if fld w 13 2 = 0 then
    if fld w 3 8 = 0 then .error .badWaitk
    else (match kindOf (fld w 11 2) with
      | some kind => checked (.waitk (fld w 3 8) kind)
      | none => .error .badWaitk)
  else .error .reservedField

/-- Class 10 (R81). -/
def decodeMovis (w : Nat) : Except DecodeError Instr :=
  if fld w 14 2 = 0 then checked (.movis (finAt 16 (by decide) w 3) (sfld w 7 7)) else .error .reservedField

/-- Class 11 (R83). -/
def decodeMisc (w : Nat) : Except DecodeError Instr :=
  match fld w 3 13 with
  | 0 => .ok .nop
  | 1 => .ok .yield16
  | 2 => .ok .quit16
  | 3 => .ok .rdone
  | 4 => .ok .fencei16
  | _ => .error .shortUnassigned

/-- A 16-bit word (R79, R85 step 2). -/
def decode16 (w : Nat) : Except DecodeError Instr :=
  if w % 65536 = 0 then .error .shortUnassigned
  else match fld w 1 2 with
    | 0 => if fld w 15 1 = 0 then decodeShort0 w else decodeShort1 w
    | 1 => if fld w 15 1 = 0 then decodeRep w else decodeWaitk w
    | 2 => decodeMovis w
    | _ => decodeMisc w

/-- The length in bytes of the instruction whose first halfword is `h` (R72). -/
def lengthOf (h : Nat) : Nat := if h % 2 = 0 then 2 else 4

/-- A word of the length that its bit 0 gives (R72, R86). -/
def decodeWord (w : Nat) : Except DecodeError Instr := if w % 2 = 0 then decode16 w else decode32 w

/-- Two bytes as a halfword, little-endian (R5). -/
def halfOf (b0 b1 : BitVec 8) : Nat := b0.toNat + 256 * b1.toNat

/-- The instruction at the head of a list of bytes, and its length. -/
def decodeBytes : List (BitVec 8) → Except DecodeError (Instr × Nat)
  | b0 :: b1 :: rest =>
    if halfOf b0 b1 % 2 = 0 then
      match decode16 (halfOf b0 b1) with
      | .ok i => .ok (i, 2)
      | .error e => .error e
    else match rest with
      | b2 :: b3 :: _ =>
        match decode32 (halfOf b0 b1 + 65536 * halfOf b2 b3) with
        | .ok i => .ok (i, 4)
        | .error e => .error e
      | _ => .error .truncated
  | _ => .error .truncated

/-- The four bytes at the lowest addresses of an instruction whose bits are `w`. -/
def wordBytes (w : Nat) : List (BitVec 8) :=
  [BitVec.ofNat 8 w, BitVec.ofNat 8 (w / 256), BitVec.ofNat 8 (w / 65536), BitVec.ofNat 8 (w / 16777216)]

/-- The instruction that the decoder reads from an instruction whose low `nbits` bits are `w` and whose bits above them
are 0. -/
def decodeTableWord (nbits w : Nat) : Option Instr :=
  match decodeBytes (wordBytes (w % 2 ^ nbits)) with
  | .ok (i, _) => some i
  | .error _ => none

end

/-! ## The encoder -/

/-- A signed field of `n` bits. -/
def sfield (n : Nat) (x : Int) : Nat := (x % (2 ^ n : Nat)).toNat

/-- A vector operand field (R75). -/
def vopCode : VOp → Nat
  | .reg v => v.val
  | .bcast n => 32 + n.val

/-- Rounding-mode codes (R55). -/
def rmCode : RMode → Nat
  | .rne => 0 | .rtz => 1 | .rdn => 2 | .rup => 3 | .sr => 4

/-- Overflow-mode codes (R43). -/
def ovCode : OvMode → Nat
  | .wrap => 0 | .sat => 1 | .trap => 2

/-- Memory-format codes (R77). -/
def memFmtCode : MemFmt → Nat
  | .tag t => t.code
  | .mxfp6a => 16
  | .mxfp6b => 17

/-- WAITK kind codes (R82). -/
def kindCode : TokKind → Nat
  | .src => 0 | .vis => 1 | .both => 2

/-- A mode field that holds 0 or 1. -/
def boolCode : Bool → Nat
  | false => 0 | true => 1

/-- Control-register numbers (R78). -/
def csrCode : Csr → Nat
  | .trapc => 0x000 | .trappc => 0x001 | .trapx => 0x002 | .trapa => 0x003 | .trapv => 0x004 | .traprec => 0x005
  | .ctxid => 0x006 | .privl => 0x007 | .rottab => 0x008 | .splitc => 0x009 | .dbgctl => 0x00A | .srngc => 0x00B
  | .tbase => 0x00C | .errhead => 0x00D | .errtail => 0x00E | .errstat => 0x00F | .lcmap => 0x010 | .temps => 0x011
  | .volts => 0x012 | .procm => 0x013 | .dbga => 0x014 | .dbgm => 0x015

/-- The length in bytes of an instruction's word; 0 for a step that has none. -/
def encodeLen : Instr → Nat
  | .add _ _ _ => 4
  | .sub _ _ _ => 4
  | .mul _ _ _ => 4
  | .mulh _ _ _ => 4
  | .div _ _ _ => 4
  | .divu _ _ _ => 4
  | .rem _ _ _ => 4
  | .remu _ _ _ => 4
  | .and _ _ _ => 4
  | .or _ _ _ => 4
  | .xor _ _ _ => 4
  | .andn _ _ _ => 4
  | .shl _ _ _ => 4
  | .shr _ _ _ => 4
  | .sra _ _ _ => 4
  | .rol _ _ _ => 4
  | .min _ _ _ => 4
  | .minu _ _ _ => 4
  | .max _ _ _ => 4
  | .maxu _ _ _ => 4
  | .ceq _ _ _ => 4
  | .cne _ _ _ => 4
  | .clt _ _ _ => 4
  | .cltu _ _ _ => 4
  | .cle _ _ _ => 4
  | .cleu _ _ _ => 4
  | .sel _ _ _ => 4
  | .bfx _ _ _ => 4
  | .bfi _ _ _ => 4
  | .clz _ _ => 4
  | .popc _ _ => 4
  | .abs _ _ => 4
  | .neg _ _ => 4
  | .not _ _ => 4
  | .mov _ _ => 4
  | .addi _ _ _ => 4
  | .andi _ _ _ => 4
  | .ori _ _ _ => 4
  | .xori _ _ _ => 4
  | .shli _ _ _ => 4
  | .shri _ _ _ => 4
  | .srai _ _ _ => 4
  | .clti _ _ _ => 4
  | .ldk _ _ => 4
  | .ldks _ _ => 4
  | .resize _ _ => 4
  | .mode _ _ => 4
  | .width _ _ => 4
  | .mff _ => 4
  | .mtf _ => 4
  | .sfclr => 4
  | .beq _ _ _ => 4
  | .bne _ _ _ => 4
  | .blt _ _ _ => 4
  | .bge _ _ _ => 4
  | .bltu _ _ _ => 4
  | .bgeu _ _ _ => 4
  | .bsf _ => 4
  | .jmp _ => 4
  | .call _ => 4
  | .jmpr _ _ => 4
  | .callr _ _ => 4
  | .fadd _ _ _ => 4
  | .fsub _ _ _ => 4
  | .fmul _ _ _ => 4
  | .fdiv _ _ _ => 4
  | .fsqrt _ _ => 4
  | .fmin _ _ _ => 4
  | .fmax _ _ _ => 4
  | .fceq _ _ _ => 4
  | .fclt _ _ _ => 4
  | .fcle _ _ _ => 4
  | .fclass _ _ => 4
  | .fneg _ _ => 4
  | .fabs _ _ => 4
  | .fcvt _ _ _ => 4
  | .fcvti _ _ _ => 4
  | .fcvtf _ _ _ => 4
  | .fma _ _ _ _ => 4
  | .fms _ _ _ _ => 4
  | .fnma _ _ _ _ => 4
  | .bmov _ _ _ => 4
  | .bset _ _ _ => 4
  | .trap _ => 4
  | .eret => 4
  | .csrr _ _ => 4
  | .csrw _ _ => 4
  | .brk => 4
  | .fencei => 4
  | .ldb _ _ _ _ => 4
  | .ldh _ _ _ _ => 4
  | .ldw _ _ _ _ => 4
  | .ldd _ _ _ _ => 4
  | .ldbu _ _ _ _ => 4
  | .ldhu _ _ _ _ => 4
  | .ldwu _ _ _ _ => 4
  | .ldff _ _ _ => 4
  | .stb _ _ _ _ => 4
  | .sth _ _ _ _ => 4
  | .stw _ _ _ _ => 4
  | .std _ _ _ _ => 4
  | .vld _ _ _ _ => 4
  | .vst _ _ _ _ => 4
  | .vldx _ _ _ _ => 4
  | .vstx _ _ _ _ => 4
  | .vldb _ _ _ _ => 4
  | .vgath _ _ _ _ => 4
  | .vscat _ _ _ _ => 4
  | .lde _ _ _ => 4
  | .stf _ _ _ => 4
  | .stff _ _ _ _ => 4
  | .feq _ _ _ _ => 4
  | .fempty _ _ _ => 4
  | .fefill _ _ _ => 4
  | .aadd _ _ _ _ => 4
  | .amin _ _ _ _ => 4
  | .aminu _ _ _ _ => 4
  | .amax _ _ _ _ => 4
  | .amaxu _ _ _ _ => 4
  | .aand _ _ _ _ => 4
  | .aor _ _ _ _ => 4
  | .axor _ _ _ _ => 4
  | .aswp _ _ _ _ => 4
  | .acas _ _ _ _ => 4
  | .radd _ _ _ => 4
  | .rmin _ _ _ => 4
  | .rmax _ _ _ => 4
  | .ror _ _ _ => 4
  | .rfadd _ _ _ => 4
  | .lrw _ _ _ => 4
  | .sch _ _ _ => 4
  | .lrx _ _ => 4
  | .phaseRel _ => 4
  | .phaseAcq _ => 4
  | .phaseAr _ => 4
  | .enq _ _ => 4
  | .deq _ _ => 4
  | .enqn _ _ _ _ => 4
  | .deqn _ _ _ => 4
  | .enqw _ _ _ => 4
  | .deqw _ _ _ => 4
  | .qstat _ _ _ _ => 4
  | .qbind _ _ => 4
  | .sptest _ _ => 4
  | .spcast _ _ => 4
  | .spmake _ _ => 4
  | .spcore _ _ => 4
  | .split _ => 4
  | .spawn _ _ _ => 4
  | .quit => 4
  | .yield => 4
  | .tid _ _ => 4
  | .join _ _ _ => 4
  | .leave _ => 4
  | .gbar _ => 4
  | .gcnt _ _ _ => 4
  | .rotr _ => 4
  | .rotw _ => 4
  | .link _ _ => 4
  | .unlink _ => 4
  | .ldir _ => 4
  | .ldirr _ => 4
  | .vadd _ _ _ => 4
  | .vsub _ _ _ => 4
  | .vmul _ _ _ => 4
  | .vmin _ _ _ => 4
  | .vmax _ _ _ => 4
  | .vminu _ _ _ => 4
  | .vmaxu _ _ _ => 4
  | .vand _ _ _ => 4
  | .vor _ _ _ => 4
  | .vxor _ _ _ => 4
  | .vshl _ _ _ => 4
  | .vshr _ _ _ => 4
  | .vsra _ _ _ => 4
  | .vabs _ _ => 4
  | .vneg _ _ => 4
  | .vceq _ _ _ => 4
  | .vclt _ _ _ => 4
  | .vcle _ _ _ => 4
  | .vsel _ _ _ => 4
  | .vmov _ _ => 4
  | .vbcast _ _ _ => 4
  | .vext _ _ _ => 4
  | .vins _ _ _ => 4
  | .vperm _ _ _ => 4
  | .vradd _ _ => 4
  | .vrmax _ _ => 4
  | .vrmin _ _ => 4
  | .vfma _ _ _ _ => 4
  | .vfms _ _ _ _ => 4
  | .vdiv _ _ _ _ => 4
  | .vsqrt _ _ _ => 4
  | .vcvt _ _ _ _ => 4
  | .vdxq _ _ _ _ => 4
  | .vtag _ _ => 4
  | .vretag _ _ _ => 4
  | .vsexr _ _ _ => 4
  | .vsexw _ _ _ => 4
  | .cpy _ _ _ => 4
  | .toks _ _ => 4
  | .barm _ _ _ _ => 4
  | .bwait _ _ _ => 4
  | .bpoll _ _ _ _ => 4
  | .berr _ _ _ => 4
  | .bclr _ _ _ => 4
  | .lpatch _ _ _ _ => 4
  | .larm _ _ => 4
  | .lfire _ _ => 4
  | .lstat _ _ _ => 4
  | .mldb _ _ => 4
  | .mmac _ _ _ _ => 4
  | .mrun _ _ _ => 4
  | .mdrn _ _ _ => 4
  | .mhnd _ _ => 4
  | .mchk _ _ _ => 4
  | .macq _ => 4
  | .mrel _ => 4
  | .srng _ _ _ => 4
  | .commit => 4
  | .ctxsv _ _ => 4
  | .ctxld _ _ => 4
  | .preempt _ _ _ => 4
  | .unfreeze _ _ _ => 4
  | .errpop _ _ => 4
  | .dtset _ _ _ => 4
  | .dtget _ _ => 4
  | .spill _ _ => 4
  | .rinv _ _ _ _ => 4
  | .rinvw _ _ _ => 4
  | .rstat _ _ _ _ => 4
  | .tbr _ _ => 4
  | .waitt _ _ => 4
  | .coll _ _ _ => 4
  | .add16 _ _ => 2
  | .sub16 _ _ => 2
  | .mul16 _ _ => 2
  | .and16 _ _ => 2
  | .or16 _ _ => 2
  | .xor16 _ _ => 2
  | .shl16 _ _ => 2
  | .shr16 _ _ => 2
  | .sra16 _ _ => 2
  | .min16 _ _ => 2
  | .max16 _ _ => 2
  | .mov16 _ _ => 2
  | .neg16 _ _ => 2
  | .not16 _ _ => 2
  | .abs16 _ _ => 2
  | .clt16 _ _ => 2
  | .vadd16 _ _ => 2
  | .vsub16 _ _ => 2
  | .vmul16 _ _ => 2
  | .vand16 _ _ => 2
  | .vor16 _ _ => 2
  | .vxor16 _ _ => 2
  | .vshl16 _ _ => 2
  | .vshr16 _ _ => 2
  | .vsra16 _ _ => 2
  | .vmin16 _ _ => 2
  | .vmax16 _ _ => 2
  | .vmov16 _ _ => 2
  | .vneg16 _ _ => 2
  | .vabs16 _ _ => 2
  | .vclt16 _ _ => 2
  | .rep _ _ _ _ => 2
  | .waitk _ _ => 2
  | .movis _ _ => 2
  | .nop => 2
  | .yield16 => 2
  | .quit16 => 2
  | .rdone => 2
  | .fencei16 => 2
  | .firmwareExpansion _ _ => 4
  | .longLatencyCompletion _ _ _ => 0
  | .repackOperation _ => 0
  | .recordPlacement _ => 0
  | .parkedThreadSpill _ => 0
  | .vectorUnitTake _ => 0
  | .runnelTransfer _ _ => 0
  | .l1Eviction _ _ => 0
  | .reservationAdmission _ => 0
  | .flumeEnqueueOperation _ _ => 0
  | .flumeDequeueOperation _ _ => 0
  | .flumeWaitExpiry _ _ => 0
  | .copyPacketDequeue _ _ => 0
  | .copyPacketNotBefore _ => 0
  | .copyPacketExecute _ => 0
  | .heldSeqUpdate _ => 0
  | .srcEvent _ => 0
  | .visEvent _ => 0
  | .launchDecrement _ => 0
  | .nbtReached _ _ => 0
  | .launchTake _ => 0
  | .noriaTake _ => 0
  | .rowWritten _ => 0
  | .slotLoaded _ _ => 0
  | .rowDrain _ _ => 0
  | .handlerDispatch _ => 0
  | .asyncErrorDelivery _ _ => 0
  | .contextDrained _ => 0
  | .quadStateRestore _ _ => 0
  | .codePageCheck _ _ _ => 0
  | .schedulerTakeOver _ => 0
  | .noiseHealthFailure _ _ => 0
  | .fabricRequest _ _ => 0
  | .hostPortRequest _ => 0
  | .linkMarkedDown _ => 0
  | .offtakeArrival _ => 0
  | .offtakeStatusTimeout _ => 0
  | .rinvwRetry _ _ _ => 0
  | .offtakeDispatch => 0
  | .collectiveExecute _ _ => 0
  | .collectiveTimeout _ => 0
  | .waittWake _ _ => 0
  | .timeSyncSend _ => 0
  | .timeSyncFlit _ _ => 0
  | .timeSyncLoss => 0
  | .bootStart _ => 0
  | .bootReady => 0
  | .bootTimeout => 0
  | .powerLoss => 0
  | .clockStepUp _ => 0
  | .clockStepDown _ => 0
  | .protectiveShutdown _ => 0
  | .bootcmdClearMinimal => 0
  | .bootcmdReset => 0
  | .tlbinvAll => 0
  | .tlbinvContext _ => 0
  | .tlbinvPage _ _ => 0
  | .tlbinvComplete => 0
  | .wqclr => 0
  | .deviceRegisterWrite _ _ => 0
  | .noiseFaultCleared _ => 0
  | .applicationCoreContextCommand _ _ => 0
  | .l2SectorEviction _ _ => 0
  | .standbySchedulerFailure _ => 0
  | .linkRestored _ => 0

/-- The word of a well-formed instruction, from the encoding tables of R73 to R84; 0 for a step that has none. -/
def encode : Instr → Nat
  | .add d a b => 3 + 128 * d.val + 8192 * a.val + 524288 * b.val
  | .sub d a b => 33554435 + 128 * d.val + 8192 * a.val + 524288 * b.val
  | .mul d a b => 67108867 + 128 * d.val + 8192 * a.val + 524288 * b.val
  | .mulh d a b => 100663299 + 128 * d.val + 8192 * a.val + 524288 * b.val
  | .div d a b => 134217731 + 128 * d.val + 8192 * a.val + 524288 * b.val
  | .divu d a b => 167772163 + 128 * d.val + 8192 * a.val + 524288 * b.val
  | .rem d a b => 201326595 + 128 * d.val + 8192 * a.val + 524288 * b.val
  | .remu d a b => 234881027 + 128 * d.val + 8192 * a.val + 524288 * b.val
  | .and d a b => 268435459 + 128 * d.val + 8192 * a.val + 524288 * b.val
  | .or d a b => 301989891 + 128 * d.val + 8192 * a.val + 524288 * b.val
  | .xor d a b => 335544323 + 128 * d.val + 8192 * a.val + 524288 * b.val
  | .andn d a b => 369098755 + 128 * d.val + 8192 * a.val + 524288 * b.val
  | .shl d a b => 402653187 + 128 * d.val + 8192 * a.val + 524288 * b.val
  | .shr d a b => 436207619 + 128 * d.val + 8192 * a.val + 524288 * b.val
  | .sra d a b => 469762051 + 128 * d.val + 8192 * a.val + 524288 * b.val
  | .rol d a b => 503316483 + 128 * d.val + 8192 * a.val + 524288 * b.val
  | .min d a b => 536870915 + 128 * d.val + 8192 * a.val + 524288 * b.val
  | .minu d a b => 570425347 + 128 * d.val + 8192 * a.val + 524288 * b.val
  | .max d a b => 603979779 + 128 * d.val + 8192 * a.val + 524288 * b.val
  | .maxu d a b => 637534211 + 128 * d.val + 8192 * a.val + 524288 * b.val
  | .ceq d a b => 671088643 + 128 * d.val + 8192 * a.val + 524288 * b.val
  | .cne d a b => 704643075 + 128 * d.val + 8192 * a.val + 524288 * b.val
  | .clt d a b => 738197507 + 128 * d.val + 8192 * a.val + 524288 * b.val
  | .cltu d a b => 771751939 + 128 * d.val + 8192 * a.val + 524288 * b.val
  | .cle d a b => 805306371 + 128 * d.val + 8192 * a.val + 524288 * b.val
  | .cleu d a b => 838860803 + 128 * d.val + 8192 * a.val + 524288 * b.val
  | .sel d a b => 872415235 + 128 * d.val + 8192 * a.val + 524288 * b.val
  | .bfx d a b => 905969667 + 128 * d.val + 8192 * a.val + 524288 * b.val
  | .bfi d a b => 939524099 + 128 * d.val + 8192 * a.val + 524288 * b.val
  | .clz d a => 973078531 + 128 * d.val + 8192 * a.val
  | .popc d a => 1006632963 + 128 * d.val + 8192 * a.val
  | .abs d a => 1040187395 + 128 * d.val + 8192 * a.val
  | .neg d a => 1073741827 + 128 * d.val + 8192 * a.val
  | .not d a => 1107296259 + 128 * d.val + 8192 * a.val
  | .mov d a => 1140850691 + 128 * d.val + 8192 * a.val
  | .addi d a imm => 5 + 128 * d.val + 8192 * a.val + 4194304 * (sfield 10 imm)
  | .andi d a imm => 524293 + 128 * d.val + 8192 * a.val + 4194304 * (sfield 10 imm)
  | .ori d a imm => 1048581 + 128 * d.val + 8192 * a.val + 4194304 * (sfield 10 imm)
  | .xori d a imm => 1572869 + 128 * d.val + 8192 * a.val + 4194304 * (sfield 10 imm)
  | .shli d a imm => 2097157 + 128 * d.val + 8192 * a.val + 4194304 * imm
  | .shri d a imm => 2621445 + 128 * d.val + 8192 * a.val + 4194304 * imm
  | .srai d a imm => 3145733 + 128 * d.val + 8192 * a.val + 4194304 * imm
  | .clti d a imm => 3670021 + 128 * d.val + 8192 * a.val + 4194304 * (sfield 10 imm)
  | .ldk d imm => 7 + 128 * d.val + 8192 * (sfield 19 imm)
  | .ldks d imm => 9 + 128 * d.val + 8192 * imm
  | .resize d wid => 11 + 128 * d.val + 4194304 * wid
  | .mode d md => 524299 + 128 * d.val + 4194304 * (ovCode md)
  | .width d a => 1048587 + 128 * d.val + 8192 * a.val
  | .mff d => 1572875 + 128 * d.val
  | .mtf a => 2097163 + 8192 * a.val
  | .sfclr => 2621451
  | .beq a b off => 13 + 128 * a.val + 8192 * b.val + 4194304 * (sfield 10 off)
  | .bne a b off => 524301 + 128 * a.val + 8192 * b.val + 4194304 * (sfield 10 off)
  | .blt a b off => 1048589 + 128 * a.val + 8192 * b.val + 4194304 * (sfield 10 off)
  | .bge a b off => 1572877 + 128 * a.val + 8192 * b.val + 4194304 * (sfield 10 off)
  | .bltu a b off => 2097165 + 128 * a.val + 8192 * b.val + 4194304 * (sfield 10 off)
  | .bgeu a b off => 2621453 + 128 * a.val + 8192 * b.val + 4194304 * (sfield 10 off)
  | .bsf off => 3145741 + 4194304 * (sfield 10 off)
  | .jmp off => 15 + 128 * (sfield 25 off)
  | .call off => 17 + 128 * (sfield 25 off)
  | .jmpr a imm => 19 + 8192 * a.val + 4194304 * (sfield 10 imm)
  | .callr a imm => 524307 + 8192 * a.val + 4194304 * (sfield 10 imm)
  | .fadd d a b => 21 + 128 * d.val + 8192 * a.val + 524288 * b.val
  | .fsub d a b => 33554453 + 128 * d.val + 8192 * a.val + 524288 * b.val
  | .fmul d a b => 67108885 + 128 * d.val + 8192 * a.val + 524288 * b.val
  | .fdiv d a b => 100663317 + 128 * d.val + 8192 * a.val + 524288 * b.val
  | .fsqrt d a => 134217749 + 128 * d.val + 8192 * a.val
  | .fmin d a b => 167772181 + 128 * d.val + 8192 * a.val + 524288 * b.val
  | .fmax d a b => 201326613 + 128 * d.val + 8192 * a.val + 524288 * b.val
  | .fceq d a b => 234881045 + 128 * d.val + 8192 * a.val + 524288 * b.val
  | .fclt d a b => 268435477 + 128 * d.val + 8192 * a.val + 524288 * b.val
  | .fcle d a b => 301989909 + 128 * d.val + 8192 * a.val + 524288 * b.val
  | .fclass d a => 335544341 + 128 * d.val + 8192 * a.val
  | .fneg d a => 369098773 + 128 * d.val + 8192 * a.val
  | .fabs d a => 402653205 + 128 * d.val + 8192 * a.val
  | .fcvt d a rm => 436207637 + 128 * d.val + 8192 * a.val + 524288 * (rmCode rm)
  | .fcvti d a rm => 469762069 + 128 * d.val + 8192 * a.val + 524288 * (rmCode rm)
  | .fcvtf d a rm => 503316501 + 128 * d.val + 8192 * a.val + 524288 * (rmCode rm)
  | .fma d a b look => 23 + 128 * d.val + 8192 * a.val + 524288 * b.val + 33554432 * look.val
  | .fms d a b look => 536870935 + 128 * d.val + 8192 * a.val + 524288 * b.val + 33554432 * look.val
  | .fnma d a b look => 1073741847 + 128 * d.val + 8192 * a.val + 524288 * b.val + 33554432 * look.val
  | .bmov d a b => 25 + 128 * d.val + 8192 * a.val + 524288 * b.val
  | .bset d a b => 536870937 + 128 * d.val + 8192 * a.val + 524288 * b.val
  | .trap imm => 27 + 128 * imm
  | .eret => 33554459
  | .csrr d csr => 67108891 + 128 * d.val + 8192 * (csrCode csr)
  | .csrw d csr => 100663323 + 128 * d.val + 8192 * (csrCode csr)
  | .brk => 134217755
  | .fencei => 167772187
  | .ldb d a imm look => 33 + 128 * d.val + 8192 * a.val + 524288 * (sfield 6 imm) + 33554432 * look.val
  | .ldh d a imm look => 536870945 + 128 * d.val + 8192 * a.val + 524288 * (sfield 6 imm) + 33554432 * look.val
  | .ldw d a imm look => 1073741857 + 128 * d.val + 8192 * a.val + 524288 * (sfield 6 imm) + 33554432 * look.val
  | .ldd d a imm look => 1610612769 + 128 * d.val + 8192 * a.val + 524288 * (sfield 6 imm) + 33554432 * look.val
  | .ldbu d a imm look => 2147483681 + 128 * d.val + 8192 * a.val + 524288 * (sfield 6 imm) + 33554432 * look.val
  | .ldhu d a imm look => 2684354593 + 128 * d.val + 8192 * a.val + 524288 * (sfield 6 imm) + 33554432 * look.val
  | .ldwu d a imm look => 3221225505 + 128 * d.val + 8192 * a.val + 524288 * (sfield 6 imm) + 33554432 * look.val
  | .ldff d a imm => 3758096417 + 128 * d.val + 8192 * a.val + 524288 * (sfield 6 imm)
  | .stb d a imm look => 35 + 128 * d.val + 8192 * a.val + 524288 * (sfield 6 imm) + 33554432 * look.val
  | .sth d a imm look => 536870947 + 128 * d.val + 8192 * a.val + 524288 * (sfield 6 imm) + 33554432 * look.val
  | .stw d a imm look => 1073741859 + 128 * d.val + 8192 * a.val + 524288 * (sfield 6 imm) + 33554432 * look.val
  | .std d a imm look => 1610612771 + 128 * d.val + 8192 * a.val + 524288 * (sfield 6 imm) + 33554432 * look.val
  | .vld d a tag look => 37 + 128 * d.val + 8192 * a.val + 524288 * tag.code + 33554432 * look.val
  | .vst d a tag look => 536870949 + 128 * d.val + 8192 * a.val + 524288 * tag.code + 33554432 * look.val
  | .vldx d a fmt look => 1073741861 + 128 * d.val + 8192 * a.val + 524288 * (memFmtCode fmt) + 33554432 * look.val
  | .vstx d a fmt look => 1610612773 + 128 * d.val + 8192 * a.val + 524288 * (memFmtCode fmt) + 33554432 * look.val
  | .vldb d a tag look => 2147483685 + 128 * d.val + 8192 * a.val + 524288 * tag.code + 33554432 * look.val
  | .vgath d a tag look => 2684354597 + 128 * d.val + 8192 * a.val + 524288 * tag.code + 33554432 * look.val
  | .vscat d a tag look => 3221225509 + 128 * d.val + 8192 * a.val + 524288 * tag.code + 33554432 * look.val
  | .lde d a imm => 39 + 128 * d.val + 8192 * a.val + 524288 * (sfield 6 imm)
  | .stf d a imm => 536870951 + 128 * d.val + 8192 * a.val + 524288 * (sfield 6 imm)
  | .stff d a imm look => 1073741863 + 128 * d.val + 8192 * a.val + 524288 * (sfield 6 imm) + 33554432 * look.val
  | .feq d a imm look => 1610612775 + 128 * d.val + 8192 * a.val + 524288 * (sfield 6 imm) + 33554432 * look.val
  | .fempty a imm look => 2147483687 + 8192 * a.val + 524288 * (sfield 6 imm) + 33554432 * look.val
  | .fefill a imm look => 2684354599 + 8192 * a.val + 524288 * (sfield 6 imm) + 33554432 * look.val
  | .aadd d a b scope => 41 + 128 * d.val + 8192 * a.val + 524288 * b.val + 33554432 * scope.code
  | .amin d a b scope => 268435497 + 128 * d.val + 8192 * a.val + 524288 * b.val + 33554432 * scope.code
  | .aminu d a b scope => 536870953 + 128 * d.val + 8192 * a.val + 524288 * b.val + 33554432 * scope.code
  | .amax d a b scope => 805306409 + 128 * d.val + 8192 * a.val + 524288 * b.val + 33554432 * scope.code
  | .amaxu d a b scope => 1073741865 + 128 * d.val + 8192 * a.val + 524288 * b.val + 33554432 * scope.code
  | .aand d a b scope => 1342177321 + 128 * d.val + 8192 * a.val + 524288 * b.val + 33554432 * scope.code
  | .aor d a b scope => 1610612777 + 128 * d.val + 8192 * a.val + 524288 * b.val + 33554432 * scope.code
  | .axor d a b scope => 1879048233 + 128 * d.val + 8192 * a.val + 524288 * b.val + 33554432 * scope.code
  | .aswp d a b scope => 2147483689 + 128 * d.val + 8192 * a.val + 524288 * b.val + 33554432 * scope.code
  | .acas d a b scope => 2415919145 + 128 * d.val + 8192 * a.val + 524288 * b.val + 33554432 * scope.code
  | .radd a b scope => 2684354601 + 8192 * a.val + 524288 * b.val + 33554432 * scope.code
  | .rmin a b scope => 2952790057 + 8192 * a.val + 524288 * b.val + 33554432 * scope.code
  | .rmax a b scope => 3221225513 + 8192 * a.val + 524288 * b.val + 33554432 * scope.code
  | .ror a b scope => 3489660969 + 8192 * a.val + 524288 * b.val + 33554432 * scope.code
  | .rfadd a b scope => 3758096425 + 8192 * a.val + 524288 * b.val + 33554432 * scope.code
  | .lrw d a scope => 43 + 128 * d.val + 8192 * a.val + 33554432 * scope.code
  | .sch a b scope => 268435499 + 8192 * a.val + 524288 * b.val + 33554432 * scope.code
  | .lrx a scope => 536870955 + 8192 * a.val + 33554432 * scope.code
  | .phaseRel scope => 805306411 + 33554432 * scope.code
  | .phaseAcq scope => 1073741867 + 33554432 * scope.code
  | .phaseAr scope => 1342177323 + 33554432 * scope.code
  | .enq a b => 45 + 8192 * a.val + 524288 * b.val
  | .deq d a => 536870957 + 128 * d.val + 8192 * a.val
  | .enqn d a b look => 1073741869 + 128 * d.val + 8192 * a.val + 524288 * b.val + 33554432 * look.val
  | .deqn d a look => 1610612781 + 128 * d.val + 8192 * a.val + 33554432 * look.val
  | .enqw d a b => 2147483693 + 128 * d.val + 8192 * a.val + 524288 * b.val
  | .deqw d a b => 2684354605 + 128 * d.val + 8192 * a.val + 524288 * b.val
  | .qstat d a item look => 3221225517 + 128 * d.val + 8192 * a.val + 524288 * item.val + 33554432 * look.val
  | .qbind d a => 3758096429 + 128 * d.val + 8192 * a.val
  | .sptest d a => 47 + 128 * d.val + 8192 * a.val
  | .spcast d a => 524335 + 128 * d.val + 8192 * a.val
  | .spmake d a => 1048623 + 128 * d.val + 8192 * a.val
  | .spcore d a => 1572911 + 128 * d.val + 8192 * a.val
  | .split units => 2097199 + 4194304 * units.val
  | .spawn d a b => 49 + 128 * d.val + 8192 * a.val + 524288 * b.val
  | .quit => 33554481
  | .yield => 67108913
  | .tid d item => 100663345 + 128 * d.val + 524288 * item.val
  | .join g a scope => 134217777 + 128 * g.val + 8192 * a.val + 524288 * scope.code
  | .leave g => 167772209 + 128 * g.val
  | .gbar g => 201326641 + 128 * g.val
  | .gcnt d g item => 234881073 + 128 * d.val + 8192 * g.val + 524288 * item.val
  | .rotr d => 268435505 + 128 * d.val
  | .rotw a => 301989937 + 8192 * a.val
  | .link d dir => 51 + 128 * d.val + 524288 * dir.val
  | .unlink d => 33554483 + 128 * d.val
  | .ldir a => 67108915 + 8192 * a.val
  | .ldirr d => 100663347 + 128 * d.val
  | .vadd d a b => 53 + 128 * d.val + 8192 * (vopCode a) + 524288 * (vopCode b)
  | .vsub d a b => 33554485 + 128 * d.val + 8192 * (vopCode a) + 524288 * (vopCode b)
  | .vmul d a b => 67108917 + 128 * d.val + 8192 * (vopCode a) + 524288 * (vopCode b)
  | .vmin d a b => 100663349 + 128 * d.val + 8192 * (vopCode a) + 524288 * (vopCode b)
  | .vmax d a b => 134217781 + 128 * d.val + 8192 * (vopCode a) + 524288 * (vopCode b)
  | .vminu d a b => 167772213 + 128 * d.val + 8192 * (vopCode a) + 524288 * (vopCode b)
  | .vmaxu d a b => 201326645 + 128 * d.val + 8192 * (vopCode a) + 524288 * (vopCode b)
  | .vand d a b => 234881077 + 128 * d.val + 8192 * (vopCode a) + 524288 * (vopCode b)
  | .vor d a b => 268435509 + 128 * d.val + 8192 * (vopCode a) + 524288 * (vopCode b)
  | .vxor d a b => 301989941 + 128 * d.val + 8192 * (vopCode a) + 524288 * (vopCode b)
  | .vshl d a b => 335544373 + 128 * d.val + 8192 * (vopCode a) + 524288 * (vopCode b)
  | .vshr d a b => 369098805 + 128 * d.val + 8192 * (vopCode a) + 524288 * (vopCode b)
  | .vsra d a b => 402653237 + 128 * d.val + 8192 * (vopCode a) + 524288 * (vopCode b)
  | .vabs d a => 436207669 + 128 * d.val + 8192 * a.val
  | .vneg d a => 469762101 + 128 * d.val + 8192 * a.val
  | .vceq d a b => 503316533 + 128 * d.val + 8192 * (vopCode a) + 524288 * (vopCode b)
  | .vclt d a b => 536870965 + 128 * d.val + 8192 * (vopCode a) + 524288 * (vopCode b)
  | .vcle d a b => 570425397 + 128 * d.val + 8192 * (vopCode a) + 524288 * (vopCode b)
  | .vsel d a b => 603979829 + 128 * d.val + 8192 * (vopCode a) + 524288 * (vopCode b)
  | .vmov d a => 637534261 + 128 * d.val + 8192 * a.val
  | .vbcast d a tag => 671350837 + 128 * d.val + 8192 * a.val + 524288 * tag.code
  | .vext d a b => 704643125 + 128 * d.val + 8192 * a.val + 524288 * b.val
  | .vins d a b => 738197557 + 128 * d.val + 8192 * a.val + 524288 * b.val
  | .vperm d a b => 771751989 + 128 * d.val + 8192 * a.val + 524288 * (vopCode b)
  | .vradd d a => 805306421 + 128 * d.val + 8192 * a.val
  | .vrmax d a => 838860853 + 128 * d.val + 8192 * a.val
  | .vrmin d a => 872415285 + 128 * d.val + 8192 * a.val
  | .vfma d a b look => 55 + 128 * d.val + 8192 * (vopCode a) + 524288 * (vopCode b) + 33554432 * look.val
  | .vfms d a b look => 536870967 + 128 * d.val + 8192 * (vopCode a) + 524288 * (vopCode b) + 33554432 * look.val
  | .vdiv d a b look => 1073741879 + 128 * d.val + 8192 * (vopCode a) + 524288 * (vopCode b) + 33554432 * look.val
  | .vsqrt d a look => 1610612791 + 128 * d.val + 8192 * a.val + 33554432 * look.val
  | .vcvt d a tag rm => 57 + 128 * d.val + 8192 * a.val + 4194304 * tag.code + 67108864 * (rmCode rm)
  | .vdxq d a tag rm => 524345 + 128 * d.val + 8192 * a.val + 4194304 * tag.code + 67108864 * (rmCode rm)
  | .vtag d a => 1048633 + 128 * d.val + 8192 * a.val
  | .vretag d a tag => 1572921 + 128 * d.val + 8192 * a.val + 4194304 * tag.code
  | .vsexr d a item => 2097209 + 128 * d.val + 8192 * a.val + 4194304 * item.val
  | .vsexw d a item => 2621497 + 128 * d.val + 8192 * a.val + 4194304 * item.val
  | .cpy k a b => 59 + 128 * k.val + 8192 * a.val + 524288 * b.val
  | .toks d look => 536870971 + 128 * d.val + 33554432 * look.val
  | .barm d a b look => 1073741883 + 128 * d.val + 8192 * a.val + 524288 * b.val + 33554432 * look.val
  | .bwait d a b => 1610612795 + 128 * d.val + 8192 * a.val + 524288 * b.val
  | .bpoll d a b look => 2147483707 + 128 * d.val + 8192 * a.val + 524288 * b.val + 33554432 * look.val
  | .berr d a look => 2684354619 + 128 * d.val + 8192 * a.val + 33554432 * look.val
  | .bclr d a look => 3221225531 + 128 * d.val + 8192 * a.val + 33554432 * look.val
  | .lpatch d item b look => 61 + 128 * d.val + 8192 * item.val + 524288 * b.val + 33554432 * look.val
  | .larm d look => 536870973 + 128 * d.val + 33554432 * look.val
  | .lfire d look => 1073741885 + 128 * d.val + 33554432 * look.val
  | .lstat d a look => 1610612797 + 128 * d.val + 8192 * a.val + 33554432 * look.val
  | .mldb a look => 63 + 8192 * a.val + 33554432 * look.val
  | .mmac k a b look => 536870975 + 128 * k.val + 8192 * a.val + 524288 * b.val + 33554432 * look.val
  | .mrun d a b => 1073741887 + 128 * d.val + 8192 * a.val + 524288 * b.val
  | .mdrn a b look => 1610612799 + 8192 * a.val + 524288 * b.val + 33554432 * look.val
  | .mhnd a b => 2147483711 + 8192 * a.val + 524288 * b.val
  | .mchk d a look => 2684354623 + 128 * d.val + 8192 * a.val + 33554432 * look.val
  | .macq a => 3221225535 + 8192 * a.val
  | .mrel a => 3758096447 + 8192 * a.val
  | .srng d a md => 65 + 128 * d.val + 8192 * a.val + 4194304 * md.val
  | .commit => 67
  | .ctxsv d a => 33554499 + 128 * d.val + 8192 * a.val
  | .ctxld d a => 67108931 + 128 * d.val + 8192 * a.val
  | .preempt d a md => 100663363 + 128 * d.val + 8192 * a.val + 524288 * (boolCode md)
  | .unfreeze d a action => 134217795 + 128 * d.val + 8192 * a.val + 524288 * action.val
  | .errpop d b => 167772227 + 128 * d.val + 524288 * b.val
  | .dtset d a md => 201326659 + 128 * d.val + 8192 * a.val + 524288 * md.val
  | .dtget d item => 234881091 + 128 * d.val + 524288 * item.val
  | .spill d a => 268435523 + 128 * d.val + 8192 * a.val
  | .rinv d a b look => 69 + 128 * d.val + 8192 * a.val + 524288 * b.val + 33554432 * look.val
  | .rinvw d a b => 536870981 + 128 * d.val + 8192 * a.val + 524288 * b.val
  | .rstat d a item look => 1073741893 + 128 * d.val + 8192 * a.val + 524288 * item.val + 33554432 * look.val
  | .tbr d look => 1610612805 + 128 * d.val + 33554432 * look.val
  | .waitt d a => 2147483717 + 128 * d.val + 8192 * a.val
  | .coll k a b => 2684354629 + 128 * k.val + 8192 * a.val + 524288 * b.val
  | .add16 d b => 0 + 128 * d.val + 2048 * b.val
  | .sub16 d b => 8 + 128 * d.val + 2048 * b.val
  | .mul16 d b => 16 + 128 * d.val + 2048 * b.val
  | .and16 d b => 24 + 128 * d.val + 2048 * b.val
  | .or16 d b => 32 + 128 * d.val + 2048 * b.val
  | .xor16 d b => 40 + 128 * d.val + 2048 * b.val
  | .shl16 d b => 48 + 128 * d.val + 2048 * b.val
  | .shr16 d b => 56 + 128 * d.val + 2048 * b.val
  | .sra16 d b => 64 + 128 * d.val + 2048 * b.val
  | .min16 d b => 72 + 128 * d.val + 2048 * b.val
  | .max16 d b => 80 + 128 * d.val + 2048 * b.val
  | .mov16 d b => 88 + 128 * d.val + 2048 * b.val
  | .neg16 d b => 96 + 128 * d.val + 2048 * b.val
  | .not16 d b => 104 + 128 * d.val + 2048 * b.val
  | .abs16 d b => 112 + 128 * d.val + 2048 * b.val
  | .clt16 d b => 120 + 128 * d.val + 2048 * b.val
  | .vadd16 d b => 32768 + 128 * d.val + 2048 * b.val
  | .vsub16 d b => 32776 + 128 * d.val + 2048 * b.val
  | .vmul16 d b => 32784 + 128 * d.val + 2048 * b.val
  | .vand16 d b => 32792 + 128 * d.val + 2048 * b.val
  | .vor16 d b => 32800 + 128 * d.val + 2048 * b.val
  | .vxor16 d b => 32808 + 128 * d.val + 2048 * b.val
  | .vshl16 d b => 32816 + 128 * d.val + 2048 * b.val
  | .vshr16 d b => 32824 + 128 * d.val + 2048 * b.val
  | .vsra16 d b => 32832 + 128 * d.val + 2048 * b.val
  | .vmin16 d b => 32840 + 128 * d.val + 2048 * b.val
  | .vmax16 d b => 32848 + 128 * d.val + 2048 * b.val
  | .vmov16 d b => 32856 + 128 * d.val + 2048 * b.val
  | .vneg16 d b => 32864 + 128 * d.val + 2048 * b.val
  | .vabs16 d b => 32880 + 128 * d.val + 2048 * b.val
  | .vclt16 d b => 32888 + 128 * d.val + 2048 * b.val
  | .rep count incD incA incB => 2 + 8 * count.val + 512 * incD.val + 2048 * incA.val + 8192 * incB.val
  | .waitk mask kind => 32770 + 8 * mask + 2048 * (kindCode kind)
  | .movis d imm => 4 + 8 * d.val + 128 * (sfield 7 imm)
  | .nop => 6
  | .yield16 => 14
  | .quit16 => 22
  | .rdone => 30
  | .fencei16 => 38
  | .firmwareExpansion major3F operand => 125 + 2 * (boolCode major3F) + 128 * operand
  | .longLatencyCompletion _ _ _ => 0
  | .repackOperation _ => 0
  | .recordPlacement _ => 0
  | .parkedThreadSpill _ => 0
  | .vectorUnitTake _ => 0
  | .runnelTransfer _ _ => 0
  | .l1Eviction _ _ => 0
  | .reservationAdmission _ => 0
  | .flumeEnqueueOperation _ _ => 0
  | .flumeDequeueOperation _ _ => 0
  | .flumeWaitExpiry _ _ => 0
  | .copyPacketDequeue _ _ => 0
  | .copyPacketNotBefore _ => 0
  | .copyPacketExecute _ => 0
  | .heldSeqUpdate _ => 0
  | .srcEvent _ => 0
  | .visEvent _ => 0
  | .launchDecrement _ => 0
  | .nbtReached _ _ => 0
  | .launchTake _ => 0
  | .noriaTake _ => 0
  | .rowWritten _ => 0
  | .slotLoaded _ _ => 0
  | .rowDrain _ _ => 0
  | .handlerDispatch _ => 0
  | .asyncErrorDelivery _ _ => 0
  | .contextDrained _ => 0
  | .quadStateRestore _ _ => 0
  | .codePageCheck _ _ _ => 0
  | .schedulerTakeOver _ => 0
  | .noiseHealthFailure _ _ => 0
  | .fabricRequest _ _ => 0
  | .hostPortRequest _ => 0
  | .linkMarkedDown _ => 0
  | .offtakeArrival _ => 0
  | .offtakeStatusTimeout _ => 0
  | .rinvwRetry _ _ _ => 0
  | .offtakeDispatch => 0
  | .collectiveExecute _ _ => 0
  | .collectiveTimeout _ => 0
  | .waittWake _ _ => 0
  | .timeSyncSend _ => 0
  | .timeSyncFlit _ _ => 0
  | .timeSyncLoss => 0
  | .bootStart _ => 0
  | .bootReady => 0
  | .bootTimeout => 0
  | .powerLoss => 0
  | .clockStepUp _ => 0
  | .clockStepDown _ => 0
  | .protectiveShutdown _ => 0
  | .bootcmdClearMinimal => 0
  | .bootcmdReset => 0
  | .tlbinvAll => 0
  | .tlbinvContext _ => 0
  | .tlbinvPage _ _ => 0
  | .tlbinvComplete => 0
  | .wqclr => 0
  | .deviceRegisterWrite _ _ => 0
  | .noiseFaultCleared _ => 0
  | .applicationCoreContextCommand _ _ => 0
  | .l2SectorEviction _ _ => 0
  | .standbySchedulerFailure _ => 0
  | .linkRestored _ => 0

/-- The bytes of a well-formed instruction as the hardware stores them (R5, R72). -/
def encodeBytes (i : Instr) : List (BitVec 8) := (wordBytes (encode i)).take (encodeLen i)

end Sys2Proof
end

