-- ==== Sys2Proof/Config.lean ====
section
/-! DEFINITION. Config: the values the spec leaves open, as constants without a body.
Nothing can evaluate one or prove a value of it: a statement about a free value holds for every value. -/

namespace Sys2Proof

/-- The word that a noise source delivers at its `n`-th live draw (R58): FREE VALUE, log 5. -/
opaque Config.noiseWord : Nat → BitVec 16

/-- A byte read from memory that another party keeps (the endpoint port, a root port, another device): FREE VALUE,
log 5. -/
opaque Config.externalByte : Nat → Nat → BitVec 8

/-- A choice that the spec leaves open, among `k` outcomes numbered from 0: FREE VALUE, log 5. -/
opaque Config.choice : Nat → Nat

/-- Whether an application core may reach a device register, by its offset (R323): FREE VALUE, log 48. -/
opaque Config.appMay : Nat → Nat → Bool

/-- The code object that a 64 KiB page of memory belongs to, as its manifest says (R334): FREE VALUE, log 5. -/
opaque Config.codeObject : Nat → Nat

end Sys2Proof
end

