-- ==== Sys2Proof/Machine/State.lean ====
section
/-! DEFINITION. State: everything the spec gives the machine, as plain data, and the machine right after reset.
What exists in large numbers (cores, quads, sectors, lines) is held in lists; a member that a list does not hold stands
at its reset value. -/

namespace Sys2Proof.Machine
open Sys2Proof

/-! ## Memory -/

/-- A die L2's holding of a block (R195, R196): its bytes by physical address (unlisted bytes are 0), the same in its row copy
and its column copy, each of which takes a sector; its dirty addresses, all in the row copy, since every write goes through
it; the owner tag. `stale` marks a block written at its home by the host port or a policy 2 store since
the fill (R210). -/
structure Sector where
  die : Nat
  block : Nat
  cells : List Host.Cell
  dirty : List Nat
  rowCopy : Bool
  colCopy : Bool
  poison : List Nat
  owner : Nat
  stale : Bool
deriving DecidableEq, Repr

/-- A line of a core's L1 (R194): a valid bit per byte, a dirty bit and a poison mark per 8-byte word. -/
structure L1Line where
  core : Nat
  line : Nat
  data : BitVec 512
  valid : BitVec 64
  dirty : BitVec 8
  poison : BitVec 8
  owner : Nat
deriving DecidableEq, Repr

/-- The reductions that keep a partial (R220). -/
inductive RedOp where
  | add | min | max | or
deriving DecidableEq, Repr

/-- An update-only word of a core's L1 (R220). -/
structure Partial where
  core : Nat
  word : Nat
  op : RedOp
  scope : Scope
  val : Word
  owner : Nat
deriving DecidableEq, Repr

/-- An update-only reduction slot of a core's L1 (R223). -/
structure RfPartial where
  core : Nat
  slot : Nat
  scope : Scope
  acc : BitVec 320
  pinf : Nat
  ninf : Nat
  nan : Bool
deriving DecidableEq, Repr

/-- A core's scratchpad (R190, R193, R196): bytes (unlisted bytes are 0), empty words and poisoned words by offset. -/
structure Sram where
  core : Nat
  cells : List Host.Cell
  empties : List Nat
  poison : List Nat
deriving DecidableEq, Repr

/-- A line that the read buffer of a headworks core holds, clean, with its poisoned words by number (R264, R315). -/
structure BufLine where
  core : Nat
  line : Nat
  bytes : List Byte
  poison : List Nat
deriving DecidableEq, Repr

/-- A TLB of the device (R200). -/
inductive TlbAt where
  | core (c : Nat)
  | quad (q : Nat)
  | die (d : Nat)
deriving DecidableEq, Repr

/-- A translation that a TLB holds (R200): context, 64 KiB page number, leaf entry and its level. -/
structure TlbEntry where
  at_ : TlbAt
  ctx : Nat
  page : Nat
  leaf : Word
  level : Nat
deriving DecidableEq, Repr

/-- Where a checked access lands: global memory by physical address with the policy and owner of its leaf, or a
scratchpad. -/
inductive Loc where
  | global (pa pol owner : Nat)
  | sram (core off : Nat)
deriving DecidableEq, Repr

/-- A run of bytes of an access within one 64-byte line: its pointer, where it lands, its length. -/
structure Piece where
  addr : Nat
  loc : Loc
  n : Nat
deriving DecidableEq, Repr

/-- A word of a vector store that has yet to reach memory: whose store it was, where it goes, its bytes (R240). -/
structure LateStore where
  core : Nat
  slot : Nat
  piece : Piece
  bytes : List Byte
deriving DecidableEq, Repr

/-- The memory system (R194 to R200, R220 to R223, R264, R315). `lost` holds the poisoned words that the step in hand has
written back to HBM, each with the owner tag of its sector (R317). -/
structure Mem where
  hbm : List Host.Cell
  empties : List Nat
  poison : List Nat
  l2 : List Sector
  l1 : List L1Line
  partials : List Partial
  rfPartials : List RfPartial
  marks : List Nat
  srams : List Sram
  hwbuf : List BufLine
  tlb : List TlbEntry
  lost : List (Nat × Nat)
deriving DecidableEq, Repr

/-- The memory system as a core has found it at a thread's start or FENCEI: what a fetch may still read (R88). -/
structure CodeView where
  core : Nat
  mem : Mem
deriving DecidableEq, Repr

/-! ## A thread -/

/-- The kinds of a name (R30). -/
inductive Kind where
  | unsigned | signed | f64 | f32 | f16 | bf16
deriving DecidableEq, Repr, Inhabited

/-- What a name is bound to (R159, R254): nothing, a logical link, or a flume, with the pattern of the element that the name
holds. -/
inductive Bind where
  | none
  | link (l : Fin 4)
  | flume (handle : Word) (held : Option Word)
deriving DecidableEq, Repr, Inhabited

/-- One name of the active register map (R30, R34): its declaration, its pattern in the low `width` bits, its binding.
Width 0 is an undeclared index. -/
structure NameCell where
  width : Nat
  kind : Kind
  mode : OvMode
  pat : Word
  bind : Bind
deriving DecidableEq, Repr

/-- One vector register (R68, R151). -/
structure VRegVal where
  data : BitVec 512
  side : BitVec 64
  tag : Tag
deriving DecidableEq, Repr

/-- The flags word (R10). -/
structure Flags where
  z : Bool
  n : Bool
  c : Bool
  v : Bool
  sf : Bool
deriving DecidableEq, Repr

/-- PRIVL (R12). -/
structure Privl where
  priv : Bool
  tact : Bool
  ppriv : Bool
  skip : Bool
deriving DecidableEq, Repr

/-- SRNGC (R59). -/
structure Srngc where
  base : BitVec 45
  exh : Bool
  full : Bool
  hfail : Bool
  mode : BitVec 2
deriving DecidableEq, Repr

/-- DBGCTL (R20). -/
structure Dbgctl where
  stepov : Bool
  dkind : BitVec 2
  den : Bool
  ien : Bool
  lkchk : Bool
deriving DecidableEq, Repr

/-- The causes of R29. -/
inductive Cause where
  | illegalInstruction | mapFault | widthOverflow | divideByZero | align | pageFault | protection | spaceForeign
  | spaceReserved | tagMismatch | flumeCorrupt | waitExpired | lookaheadViolation | codeIntegrity | uncorrectable
  | matrixShape | tokenFault | breakpoint | trapInstr | privilege
deriving DecidableEq, Repr

/-- What a trap reports beside the PC (R27, R29). `fetch` marks a trap with ILEN 0: a fetch fault, an asynchronous
delivery, a fault at map load. -/
structure Trap where
  cause : Cause
  addr : Word
  x0 : Word
  x1 : Word
  perf : Bool
  fetch : Bool
deriving DecidableEq, Repr

/-- What an instruction writes to the flags (R11): each flag that it names, and whether its narrowing saturated. -/
structure FlagWrite where
  z : Option Bool
  n : Option Bool
  c : Option Bool
  v : Option Bool
  sf : Bool
deriving DecidableEq, Repr

/-- The destination of a long-latency instruction and what it receives (R17): patterns of names, registers, flags, and
the words of the push entries that it reserved at issue (R160), each with the physical core and the direction of its
runnel. -/
structure Pending where
  names : List (Name × Word)
  vregs : List (VReg × VRegVal)
  flags : FlagWrite
  pushes : List (Nat × Nat × Word)
deriving DecidableEq, Repr

/-- What an open window still waits for, beside its count. -/
inductive Await where
  | nothing
  | offtake (id : Nat) (d : Name)
  | slotLoaded (quad slot : Nat)
  | drained (id : Nat)
  | count (id : Nat) (d : Name)
deriving DecidableEq, Repr

/-- A long-latency instruction that has issued and not completed (R17 to R21). `flagsLive` is false once a later
instruction of the thread has written flags, itself or at the end of its own window; `sfLive` is false once a later SFCLR or MTF has written SF. -/
structure InFlight where
  id : Nat
  pc : Word
  left : Nat
  lkchk : Bool
  result : Pending
  flagsLive : Bool
  sfLive : Bool
  awaits : Await
deriving DecidableEq, Repr

/-- How fetching the instruction that a REP repeats ended (R22, R23, R85). -/
inductive Inner where
  | absent
  | trap (t : Trap)
  | illegal (word len : Nat)
  | ok (i : Instr) (word len : Nat)
deriving DecidableEq, Repr

/-- The instruction word being executed: its bits, its length in bytes, and for a REP the repeated instruction. -/
structure Ir where
  word : Nat
  len : Nat
  inner : Inner
deriving DecidableEq, Repr

/-- A repeat in progress (R22): the REP word, the repeated instruction's word and length, and the index of the
iteration that is being executed. -/
structure RepCtx where
  rword : Nat
  inner : Nat
  ilen : Nat
  iter : Nat
deriving DecidableEq, Repr

/-- What a parked thread waits for (R128, R138), with the destination where no wait list carries it: also a status of an
offtake whose instruction has not completed, the pause before RINVW sends again (R369, R370), and the noria's answer to an
MACQ, MREL, MHND or MCHK (R289). At a runnel it names the link-bound names that the instruction pops and pushes (R160). -/
inductive Wait where
  | fullEmpty
  | flume
  | group
  | reservation
  | runnel (pops pushes : List Name)
  | tokens (mask : Nat) (kind : TokKind)
  | basin
  | time (target : Nat) (d : Name)
  | drain (ctx : Nat) (d : Name)
  | offtake (id : Nat) (d : Name)
  | retry (d : Name)
  | noria (id : Nat) (d : Name)
deriving DecidableEq, Repr

/-- Whose row a tailwater handler finishes (R293, R294). -/
structure HandlerId where
  quad : Nat
  tile : Nat
  row : Nat
  done : Bool
deriving DecidableEq, Repr

/-- A line of code held since the thread's last FENCEI (R88, R124): its physical line and the bytes it held. -/
structure CodeLine where
  line : Nat
  bytes : List Byte
deriving DecidableEq, Repr

/-- The progress of a BMOV, BSET or MRUN one of whose names is bound to a link, between its steps: the instruction's PC and
iteration, whether it stands in a handler, and the values that its bound names would hold (R120, R288, log 11). -/
structure StepShadow where
  tact : Bool
  pc : Word
  iter : Nat
  vals : List (Name × Word)
deriving DecidableEq, Repr

/-- A firmware expansion between its steps (R87, R333): how many it has taken, and the effects that it has gathered: names,
registers and flags, and stores by pointer. They take place together at its end (log 52). -/
structure Expansion where
  step : Nat
  result : Pending
  stores : List (Word × List Byte)
deriving DecidableEq, Repr

/-- A RINVW that has not completed (R370): attempts made, whether its limit was not above 0, and the packet it sends. -/
structure Retry where
  attempts : Nat
  expired : Bool
  packet : List Word
deriving DecidableEq, Repr

/-- A held asynchronous error, or the refused trap of a frozen slot, with what its record reports (R26, R316, R324); `exp`
is the step of a firmware expansion in which the trap arose (R333). -/
structure HeldTrap where
  trap : Trap
  pc : Word
  word : Nat
  ilen : Nat
  rep : Option RepCtx
  repix : Nat
  exp : Option Nat
deriving DecidableEq, Repr

/-- A push entry that a parked instruction has reserved: for which name, in which runnel, under which number (R160, log 82). -/
structure PushSlot where
  name : Name
  src : Nat
  dir : Nat
  id : Nat
deriving DecidableEq, Repr

/-- A thread (R9 and the rules that INVENTORY.md names field by field). `reads` are the names whose held elements a parked
instruction consumes when it completes, `pops` the runnels whose entries it then pops, `pushes` the entries that it has
reserved; `pushing` are the link-bound names that the instruction in hand writes (R160, R254); `codeView` is the memory system as the thread's core found it at the
thread's start or last FENCEI, and `code` the lines of code that it has fetched since (R88). -/
structure Thread where
  ctx : Nat
  recIx : Nat
  pc : Word
  maph : Word
  names : Vector NameCell 64
  flags : Flags
  privl : Privl
  trapc : Word
  trappc : Word
  trapx : Word
  trapa : Word
  trapv : Word
  traprec : Word
  vregs : Vector VRegVal 32
  toks : BitVec 16
  srngc : Srngc
  dbgctl : Dbgctl
  dbga : Word
  dbgm : Word
  groups : Vector (Option Word) 4
  cmt : Bool
  rsl : Bool
  aff : Option Nat
  span : Nat
  inflight : List InFlight
  rep : Option RepCtx
  ir : Ir
  wait : Option Wait
  reads : List Name
  pops : List (Nat × Nat)
  pushes : List PushSlot
  pushing : List Name
  pendTrap : Option Trap
  asyncErr : Option Trap
  frozen : Option HeldTrap
  handler : Option HandlerId
  launch : Option (Nat × Nat)
  code : List CodeLine
  codeView : CodeView
  shadows : List StepShadow
  exp : Option Expansion
  retry : Option Retry
  acq : Option Scope
  placing : Bool
  out : Bool
  forgo : Bool
  stepover : Bool
deriving DecidableEq, Repr

/-! ## A core -/

/-- Who stands in a slot: nobody, the thread that is checked out as the running one, or a resident thread. -/
inductive Occ where
  | free
  | running
  | thread (t : Thread)
deriving DecidableEq, Repr

/-- A slot (R128): the RESERVED mark of MHND (R292) and its occupant. -/
structure Slot where
  reserved : Bool
  occ : Occ
deriving DecidableEq, Repr

/-- An operation queued at the repack engine (R46): the placement of the thread that enters a slot, or the spill of a parked
thread, named by its context and record. A RESIZE, and the write-back of a thread by its own YIELD or by SPILL, is performed
at once after everything that the queue holds (log 54). -/
inductive RepackOp where
  | place (slot : Nat)
  | spill (slot ctx k : Nat)
deriving DecidableEq, Repr

/-- An entry of a core's vector dispatch queue (R153): an ordinary operation, whose results are visible from its issue
by the interlock of R15, or the hand-off of an MMAC (R156). -/
inductive VqEntry where
  | op (slot : Nat)
  | handoff (slot : Nat) (id : Nat)
deriving DecidableEq, Repr

/-- What one thread asks of the noria (R289, R304): a load with the codes and exponents it has read and the first poisoned
word that it met, a row step with its token (0xFF: none), a drain; what MACQ, MREL, MHND and MCHK ask. -/
inductive NoriaOp where
  | load (desc : BitVec 512) (elems pairs : List (List Nat)) (poison : Option Nat)
  | row (a : VRegVal) (shape : Nat) (tok : Nat) (ready : Bool)
  | drain (tile first count : Nat) (cookie : Word)
  | acquire (tiles slots : List Nat)
  | release (tiles slots : List Nat)
  | register (h : Nat) (handle pc maph : Word)
  | check (tile : Nat) (on : Bool)
deriving DecidableEq, Repr

/-- An entry of a core's noria queue (R289): who issued it and what it asks. -/
structure NqEntry where
  id : Nat
  slot : Nat
  ctx : Nat
  recIx : Nat
  op : NoriaOp
deriving DecidableEq, Repr

/-- A tailwater handler registration (R292). -/
structure HandlerReg where
  ctx : Nat
  recIx : Nat
  handle : Word
  entry : Word
  maph : Word
  trapv : Word
  traprec : Word
  recs : List Nat
  slots : List Nat
deriving DecidableEq, Repr

/-- A core (R128, R129, R153, R158, R190, R289, R292). -/
structure CoreSt where
  slots : Vector Slot 16
  rottab : Word
  ptr : Nat
  sps : Nat
  own : Nat
  ldir : BitVec 8
  repackq : List RepackOp
  vq : List VqEntry
  nq : List NqEntry
  handler : Option HandlerReg
  lastCtx : Nat
deriving DecidableEq, Repr

/-! ## A quad -/

/-- One row of an accumulator tile that is not all +0 with status 0 and idle (R280, R293 to R295). -/
structure TileRow where
  row : Nat
  vals : List (BitVec 32)
  status : Nat
  draining : Bool
deriving DecidableEq, Repr

/-- An accumulator tile (R280). The holder is a context and a record index. -/
structure Tile where
  holder : Option (Nat × Nat)
  chk : Bool
  rows : List TileRow
deriving DecidableEq, Repr

/-- A B slot (R280, R282, R283): element codes and exponents (E0, E1 of block 0, then of block 1) column by column, and the
checksum column: for each k the sums of the classes 0 and 1. -/
structure BSlot where
  holder : Option (Nat × Nat)
  loaded : Bool
  desc : BitVec 512
  elems : List (List Nat)
  pairs : List (List Nat)
  sums : List (Int × Int)
deriving DecidableEq, Repr

/-- A row step that the noria has taken and not written, with its B slot as it then stood (R289, R287); or an MCHK that
follows row steps which are not yet written (R295). -/
structure RowStep where
  core : Nat
  entry : NqEntry
  slot : BSlot
deriving DecidableEq, Repr

/-- A load under way into a slot, or an MREL that has been taken and waits (R280, R289). -/
structure LoadStep where
  core : Nat
  entry : NqEntry
deriving DecidableEq, Repr

/-- A drain whose rows are being copied out (R293): rows FIRST + `next` onward are still to come. -/
structure DrainStep where
  core : Nat
  entry : NqEntry
  next : Nat
deriving DecidableEq, Repr

/-- A drained row that awaits its handler (R293). -/
structure DrainedRow where
  core : Nat
  ctx : Nat
  recIx : Nat
  tile : Nat
  row : Nat
  status : Nat
  vals : List (BitVec 32)
  cookie : Word
deriving DecidableEq, Repr

/-- A quad's noria and vector unit (R154, R280, R289, R295) and its noise source (R61). `abuf` is the row step that holds the A
row buffer. -/
structure QuadSt where
  tiles : Vector Tile 4
  bslots : Vector BSlot 8
  abuf : Option Nat
  rowsIn : List RowStep
  releases : List LoadStep
  loads : List LoadStep
  drains : List DrainStep
  drained : List DrainedRow
  mismatches : Nat
  lastVec : Nat
  lastNoria : Nat
  noiseFailed : Bool
deriving DecidableEq, Repr

/-- An entry of a runnel (R157, R162): the CTXID of its pusher and its word; `waits` names the reservation of an entry that
is not yet filled (R160). -/
structure RunEntry where
  ctx : Nat
  word : Word
  waits : Option Nat
deriving DecidableEq, Repr

/-- A runnel between neighbouring cores (R157, R162): the physical core that pushes, the direction, and the entries,
oldest first. -/
structure Runnel where
  src : Nat
  dir : Nat
  entries : List RunEntry
deriving DecidableEq, Repr

/-! ## Wait objects and engines -/

/-- Who waits at a home: a slot, a spilled thread's record, or a party outside this device's threads. -/
inductive Party where
  | slot (core slot : Nat)
  | record (ctx k : Nat)
  | remote (who : Nat)
deriving DecidableEq, Repr

/-- The operation of a full/empty waiter (R245, R246). -/
inductive FeOp where
  | lde | ldff
  | stf (v : Word)
deriving DecidableEq, Repr

/-- Where a full/empty or reservation word lives: global memory by physical address, or a core's SRAM. -/
inductive WordLoc where
  | global (pa : Nat)
  | sram (core off : Nat)
deriving DecidableEq, Repr

/-- A full/empty waiter, with the pointer that it used (R245, R315). -/
structure FeWaiter where
  loc : WordLoc
  who : Party
  op : FeOp
  dest : Name
  pc : Word
  len : Nat
  va : Word
deriving DecidableEq, Repr

/-- A flume waiter (R230). `ctl` is the controller whose list it stands in: a compute die, or 16 plus a base die (R351). For an
enqueue, the element; for a dequeue, the first destination name, or the bound name of
a QBIND read. `tok` is the token of a parked CPY or COLL with its state before. -/
structure FlumeWaiter where
  fcb : Nat
  ctl : Nat
  enq : Bool
  who : Party
  elem : List Word
  dest : Name
  qbind : Bool
  limited : Bool
  tok : Option (Nat × Nat)
  va : Word
  rctx : Nat
deriving DecidableEq, Repr

/-- A group waiter (R148). -/
structure GroupWaiter where
  pa : Nat
  phase : Nat
  scope : Scope
  who : Party
deriving DecidableEq, Repr

/-- A reservation that is held, or waits (R224, R225). The head of the entries of one word at one home is its holder.
`admitted` is false for an LRW that found its home full; `va` is the pointer that it used (R315). -/
structure ResEntry where
  home : ResHome
  loc : WordLoc
  who : Party
  ctx : Nat
  recIx : Nat
  granted : Bool
  admitted : Bool
  scope : Scope
  dest : Name
  va : Word
deriving DecidableEq, Repr

/-- A basin waiter (R272). -/
structure BasinWaiter where
  pa : Nat
  scope : Scope
  dest : Name
  who : Party
deriving DecidableEq, Repr

/-- What a parked thread has asked of another device (R224, R354, R356): an enqueue, a dequeue, a basin word's change of phase
and the scope of its acquire, a barrier, a full/empty operation, a reservation; with the destination. A basin word of the host or of a
root port is waited for in the same way (R272). -/
inductive RemoteOp where
  | enq
  | deq (dest : Name) (n : Nat) (qbind : Bool)
  | basin (dest : Name) (sc : Scope)
  | group (sc : Scope)
  | word (dest : Name) (op : FeOp)
  | reserve (loc : WordLoc)
deriving DecidableEq, Repr

/-- A wait for another device's answer (R356): who waits, for what, at which address; whether with a limit; the token of a
parked CPY or COLL with its state before. -/
structure RemoteWait where
  who : Party
  op : RemoteOp
  va : Word
  limited : Bool
  tok : Option (Nat × Nat)
deriving DecidableEq, Repr

/-- Another device's answer: the words that the operation delivers; that the flume is corrupt; that the limit passed, with HEAD
and TAIL (R229, R231, R356). -/
inductive Reply where
  | done (words : List Word)
  | corrupt (code : Nat)
  | expired (head tail : Word)
deriving DecidableEq, Repr

/-- How far a copy or collective packet has come (R262). -/
inductive PktPhase where
  | dequeued
  | held          -- waits for NB (R263)
  | executed      -- elements done or held in `updates`; SRC not yet sent
  | srcDone
deriving DecidableEq, Repr

/-- A destination update that a SEQ packet has not yet applied (R267): address and element bytes. -/
structure HeldUpdate where
  addr : Word
  bytes : List Byte
deriving DecidableEq, Repr

/-- A packet that a headworks core or the collective engine has dequeued (R258, R262, R365). `core` is the
headworks core that runs it, `pos` the HEAD count at its dequeue. -/
structure Packet where
  id : Nat
  fcb : Nat
  ctx : Nat
  baseDie : Nat
  core : Nat
  pos : Nat
  data : BitVec 512
  phase : PktPhase
  err : Nat
  updates : List HeldUpdate
  collective : Bool
deriving DecidableEq, Repr

/-- A decrement on its way to a launch record (R276): whose record, and the basin word that hears of error 0x06. -/
structure Decrement where
  ctx : Nat
  j : Nat
  basin : Word
  sys : Bool
  master : Nat
deriving DecidableEq, Repr

/-- A launch kept PENDING by a scheduler (R278), in the order in which it became so. -/
structure PendLaunch where
  die : Nat
  ctx : Nat
  j : Nat
deriving DecidableEq, Repr

/-- A ready flume (R143): of a core (some core) or of a die, for one context; record indices, oldest first. -/
structure ReadyFlume where
  ctx : Nat
  core : Option Nat
  die : Nat
  recs : List Nat
deriving DecidableEq, Repr

/-- An offtake that a thread has sent and whose status has not returned (R360, R369). -/
structure Offtake where
  id : Nat
  who : Party
  dev : Nat
  packet : List Word
deriving DecidableEq, Repr

/-! ## Contexts and the device -/

/-- What the model keeps of a continuation record beside its bytes in memory (R133, R135, R140, R254, R316, R331, R333): `under`
holds, for each bound name with an element, the row bits as they were bound. -/
structure RecInfo where
  k : Nat
  retiring : Bool
  launch : Option (Nat × Nat)
  pendTrap : Option Trap
  asyncErr : Option Trap
  acq : Option Scope
  toks : BitVec 16
  rep : Option RepCtx
  ir : Ir
  code : List CodeLine
  codeView : Option CodeView
  shadows : List StepShadow
  die : Nat
  reads : List Name
  handler : Option HandlerId
  links : List (Name × Fin 4)
  core : Option Nat
  exp : Option Expansion
  under : List (Name × Word)
deriving DecidableEq, Repr

/-- A piece of core or quad state that a drain saves and a restore puts back (R326, R330). `waits` are the rows of a tile that await
their handler, each with its core. -/
inductive SavedSec where
  | tile (quad tile : Nat) (t : Tile) (waits : List (Nat × Nat))
  | bslot (quad slot : Nat) (b : BSlot)
  | handler (core : Nat) (h : HandlerReg) (rows : List DrainedRow)
  | runnel (core : Nat) (ldir : BitVec 8) (link : Fin 4) (recIx : Nat) (name : Name) (ins outs : List Word)
  | sram (core sps addr : Nat)
deriving DecidableEq, Repr

/-- A resident context: what the core reads of its table entry when it is made resident (R188, R325), its state, and
the restores that wait (R330). -/
structure Ctx where
  id : Nat
  root : Nat
  prvbase : Nat
  prvsz : Nat
  cpool : Word
  cpsz : Nat
  lpool : Word
  save : Word
  secsize : Nat
  rstate : Nat
  recs : List RecInfo
  sections : List SavedSec
deriving DecidableEq, Repr

/-- What a drained context has left on the device beside its save area, from its retirement to its next load (R326, R328,
R342). -/
structure SavedCtx where
  id : Nat
  recs : List RecInfo
  sections : List SavedSec
deriving DecidableEq, Repr

/-- Masters other than thread slots (R322). -/
inductive Master where
  | headworks (n : Nat)
  | hostPort
  | aqueduct (p : Nat)
  | appCore (n : Nat)
  | schedCore (n : Nat)
deriving DecidableEq, Repr

/-- The request that a frozen master holds (R323, R324). -/
inductive HeldReq where
  | service (fcb baseDie entry : Nat)
  | bus (r : BusReq)
  | offtake (a : Arrival)
  | flume (fcb : Nat) (enq : Bool) (r : FlumeReq)
  | regs (off : Nat) (val : Word)
  | regRead (off : Nat)
  | none
deriving DecidableEq, Repr

/-- A frozen master other than a thread slot, the request at which it froze, and those that have come since, oldest first
(R323, R360). -/
structure FrozenMaster where
  master : Master
  req : HeldReq
  later : List HeldReq
deriving DecidableEq, Repr

/-- What the sensors of a compute die and of its quads show (R380), an input from outside. -/
structure Sensors where
  die : Nat
  idx : Nat
  max : BitVec 16
  vsram : BitVec 16
  vcore : BitVec 16
  dieavg : BitVec 16
  quads : List (Nat × BitVec 16)
deriving DecidableEq, Repr

/-- The device (R4, R318, R319, R336, R346, R352, R366, R371, R377, R381, R383, R385). `power` is the module's input power in watts
averaged over 1 ms, `powerDies` are the dies that draw noria and vector work together, `rails` the dies with a rail that has been
outside its bounds for 10 µs, `stkmon` what the stacks' monitors show; `answer` is the last register value that an agent has read. `minimal` is the mode of this start,
`bootMin` the kept MIN; `weakQuads` holds the kept counters by physical quad: one per B slot, one per column. -/
structure Device where
  timebase : Word
  trim : Int
  timeSteps : Nat
  follower : Bool
  timeOffset : Int
  slew : Int
  subNs : Int
  errBase : BitVec 36
  errEn : Bool
  errOvf : Bool
  errLogn : Nat
  errHead : BitVec 32
  errTail : BitVec 32
  errDrop : Nat
  regs : List (Nat × Word)
  tlbBusy : Bool
  tlbCmd : Word
  tlbPage : Nat
  removedQuads : List Nat
  bootState : Nat
  bootStage : Nat
  bootLast : Nat
  bootFails : Nat
  bootMin : Bool
  minimal : Bool
  weakQuads : List (Nat × List Nat × List Nat)
  diesUp : List Nat
  stacksUp : List Nat
  takenOver : List Nat
  deadSched : List Nat
  linksDown : List Nat
  clockStep : List (Nat × Nat)
  sensors : List Sensors
  power : Nat
  powerDies : List Nat
  rails : List Nat
  stkmon : List (Nat × Word)
  answer : Word
  expansions : List Nat
  refused : Nat
  overflow : Nat
  poisonedObjects : List (Nat × Nat × Nat)
  clocksStopped : Bool
deriving DecidableEq, Repr

/-- What the environment does next (log 3): a core's cycle passes, in which the slot of R130 issues; the same, where words of the
vector store that issues reach memory later (R240); an engine or an outside party acts; dirty words of an L1 line are written
back before the rest (R205); a row step's A row has been broadcast (R289); another device answers; an agent reads a register;
time passes; or an input arrives. -/
inductive Turn where
  | run (core : Nat)
  | split (core : Nat) (late : List Nat)
  | event (i : Instr)
  | writeBack (core line : Nat) (mask : BitVec 8)
  | rowBroadcast (quad : Nat)
  | remoteReply (k : Nat) (r : Reply)
  | readRegister (agent : Agent) (off : Nat)
  | tick (ns : Nat)
  | poison (loc : WordLoc)
  | poisonL1 (core line word : Nat)
  | poisonL2 (die word : Nat)
  | rowFileError (core slot : Nat) (addr : Word)
  | corrected (pa unit syndrome : Nat)
  | offtakeStatus (id code : Nat)
  | sensors (v : Sensors)
  | power (watts : Nat) (dies : List Nat)
  | rails (dies : List Nat)
  | stackMonitor (i : Nat) (v : Word)
  | flushBuffer (core line : Nat)
  | macroUpset (quad slot column k code : Nat)
deriving DecidableEq, Repr

/-- The machine. `copyPtr` is, for each base die, the table entry from which its headworks cores look for a flume next (R258).
`late` holds the words of vector stores that have yet to reach memory, oldest first, and `keep` names the words that the vector
store of the turn in hand keeps back, by their place in the store (R240, log 3).
`thr` is the running thread, checked out of the slot `cur` = (core, slot). -/
structure State where
  thr : Thread
  cur : Nat × Nat
  cores : List (Nat × CoreSt)
  quads : List (Nat × QuadSt)
  runnels : List Runnel
  mem : Mem
  late : List LateStore
  keep : List Nat
  feWaits : List FeWaiter
  flumeWaits : List FlumeWaiter
  groupWaits : List GroupWaiter
  resvs : List ResEntry
  basinWaits : List BasinWaiter
  remoteWaits : List RemoteWait
  packets : List Packet
  copyPtr : List (Nat × Nat)
  copyOwners : List (Nat × Nat)
  decrements : List Decrement
  pending : List PendLaunch
  launchFaults : List (Nat × Nat)
  ready : List ReadyFlume
  diePos : List (Nat × Nat)
  offtakes : List Offtake
  arrivedAt : List (Nat × Nat × Nat)
  ctxs : List Ctx
  saved : List SavedCtx
  frozenMasters : List FrozenMaster
  dev : Device
  agenda : List Turn
  freeCtr : Nat
  serial : Nat
  parkOrder : List (Nat × Nat)
deriving DecidableEq, Repr

/-! ## Outcomes -/

/-- Why the machine stops. -/
inductive Fault where
  /-- Raised by `step` when a protective shutdown has stopped every clock (R381): nothing can issue until a power cycle
  or BOOTCMD 2, which are steps of outside parties. Safe. -/
  | clocksStopped
deriving DecidableEq, Repr

/-- Why an instruction has no meaning in the model. -/
inductive Refusal where
  /-- Raised by `exec` for an instruction whose meaning has not been written. Safe. -/
  | notModelled (mnemonic : String)
deriving DecidableEq, Repr

/-- The outcome of a step. -/
abbrev Out := Host.Outcome State Fault Refusal

/-! ## Reset -/

/-- An undeclared index (R31). -/
def NameCell.undeclared : NameCell := ⟨0, .unsigned, .wrap, 0, .none⟩

/-- A vector register at the start of a thread (R9). -/
def VRegVal.zero : VRegVal := ⟨0, 0, .raw⟩

/-- Memory at reset: nothing listed, every word full (R196; HBM contents: log 4). -/
def Mem.reset : Mem := ⟨[], [], [], [], [], [], [], [], [], [], [], []⟩

/-- The thread of a slot in which no thread has run (R9; the fields that the spec leaves to the creator: log 2). -/
def Thread.empty : Thread where
  ctx := 0
  recIx := 0
  pc := 0
  maph := 0
  names := Vector.replicate 64 NameCell.undeclared
  flags := ⟨false, false, false, false, false⟩
  privl := ⟨false, false, false, false⟩
  trapc := 0
  trappc := 0
  trapx := 0
  trapa := 0
  trapv := 0
  traprec := 0
  vregs := Vector.replicate 32 VRegVal.zero
  toks := 0
  srngc := ⟨0, false, false, false, 0⟩
  dbgctl := ⟨false, 0, false, false, false⟩
  dbga := 0
  dbgm := 0
  groups := Vector.replicate 4 none
  cmt := false
  rsl := false
  aff := none
  span := 0
  inflight := []
  rep := none
  ir := ⟨0, 0, .absent⟩
  wait := none
  reads := []
  pops := []
  pushes := []
  pushing := []
  pendTrap := none
  asyncErr := none
  frozen := none
  handler := none
  launch := none
  code := []
  codeView := ⟨0, Mem.reset⟩
  shadows := []
  exp := none
  retry := none
  acq := none
  placing := false
  out := false
  forgo := false
  stepover := false

/-- A core at reset (R128, R129, R158, R190). -/
def CoreSt.reset : CoreSt where
  slots := Vector.replicate 16 ⟨false, .free⟩
  rottab := 0xFEDCBA9876543210
  ptr := 0
  sps := 0
  own := 0
  ldir := 0xE4
  repackq := []
  vq := []
  nq := []
  handler := none
  lastCtx := 0

/-- A quad at reset (R280; the choices of log 2). -/
def QuadSt.reset : QuadSt where
  tiles := Vector.replicate 4 ⟨none, false, []⟩
  bslots := Vector.replicate 8 ⟨none, false, 0, [], [], []⟩
  abuf := none
  rowsIn := []
  releases := []
  loads := []
  drains := []
  drained := []
  mismatches := 0
  lastVec := 3
  lastNoria := 3
  noiseFailed := false

/-- The device at reset (R318, R319, R346, R377, R385; the choices of log 2). -/
def Device.reset : Device where
  timebase := 0
  trim := 0
  timeSteps := 0
  follower := false
  timeOffset := 0
  slew := 0
  subNs := 0
  errBase := 0
  errEn := false
  errOvf := false
  errLogn := 6
  errHead := 0
  errTail := 0
  errDrop := 0
  regs := []
  tlbBusy := false
  tlbCmd := 0
  tlbPage := 0
  removedQuads := []
  bootState := 0
  bootStage := 0
  bootLast := 0
  bootFails := 0
  bootMin := false
  minimal := false
  weakQuads := []
  diesUp := List.range 16
  stacksUp := List.range 12
  takenOver := []
  deadSched := []
  linksDown := []
  clockStep := []
  sensors := []
  power := 0
  powerDies := []
  rails := []
  stkmon := []
  answer := 0
  expansions := []
  refused := 0
  overflow := 0
  poisonedObjects := []
  clocksStopped := false

/-- The machine right after reset: no context resident, no thread in any slot (R9, R128, R197, R377, R385). -/
def State.reset : State where
  thr := Thread.empty
  cur := (0, 0)
  cores := []
  quads := []
  runnels := []
  mem := Mem.reset
  late := []
  keep := []
  feWaits := []
  flumeWaits := []
  groupWaits := []
  resvs := []
  basinWaits := []
  remoteWaits := []
  packets := []
  copyPtr := []
  copyOwners := []
  decrements := []
  pending := []
  launchFaults := []
  ready := []
  diePos := []
  offtakes := []
  arrivedAt := []
  ctxs := []
  saved := []
  frozenMasters := []
  dev := Device.reset
  agenda := []
  freeCtr := 0
  serial := 0
  parkOrder := []

end Sys2Proof.Machine
end

