-- ==== Sys2Proof/Machine/Flags.lean ====
section
/-! DEFINITION. Flags: reading a pattern, narrowing a result (R34 to R36), and the flags an instruction writes (R10, R11). -/

namespace Sys2Proof.Machine
open Sys2Proof

/-- 2^n as an integer. -/
def ipow (n : Nat) : Int := ((2 ^ n : Nat) : Int)

/-- The value of a `w`-bit pattern `p` under a kind (R34). -/
def patVal (k : Kind) (w p : Nat) : Int :=
  if k = .signed ∧ 2 ^ (w - 1) ≤ p ∧ w ≠ 0 then (p : Int) - ipow w else (p : Int)

/-- The least value of a `w`-bit name (R34). -/
def rangeLo (k : Kind) (w : Nat) : Int := if k = .signed then -ipow (w - 1) else 0

/-- The greatest value of a `w`-bit name (R34). -/
def rangeHi (k : Kind) (w : Nat) : Int := if k = .signed then ipow (w - 1) - 1 else ipow w - 1

/-- The low `w` bits of the two's-complement pattern of `x`. -/
def lowBits (w : Nat) (x : Int) : Nat := (x % ipow w).toNat

/-- x modulo 2^64, as a word (R101). -/
def toWord (x : Int) : Word := BitVec.ofNat 64 (lowBits 64 x)

/-- What narrowing stores and reports (R35). -/
structure Narrowed where
  pat : Word
  z : Bool
  n : Bool
  c : Bool
  v : Bool
  sat : Bool
deriving DecidableEq, Repr

/-- The value that narrowing stores, when it does not trap (R35). -/
def narrowVal (k : Kind) (w : Nat) (m : OvMode) (x : Int) : Option Int :=
  if rangeLo k w ≤ x ∧ x ≤ rangeHi k w then some x
  else match m with
    | .wrap => some (patVal k w (lowBits w x))
    | .sat => some (if x < rangeLo k w then rangeLo k w else rangeHi k w)
    | .trap => none

/-- narrow(x, d) for a destination of the given declaration (R35); none for WIDTH_OVERFLOW. -/
def narrow (k : Kind) (w : Nat) (m : OvMode) (x : Int) : Option Narrowed :=
  match narrowVal k w m x with
  | none => none
  | some y => some {
      pat := BitVec.ofNat 64 (lowBits w y)
      z := decide (y = 0)
      n := decide (y < 0)
      c := decide (x / ipow w % 2 = 1)
      v := !decide (rangeLo k w ≤ x ∧ x ≤ rangeHi k w)
      sat := decide (m = .sat) && !decide (rangeLo k w ≤ x ∧ x ≤ rangeHi k w) }

/-- An instruction that writes no flag. -/
def FlagWrite.none : FlagWrite := ⟨.none, .none, .none, .none, false⟩

/-- The flags that narrow writes: Z, N, C, V, and SF when it saturates (R35). -/
def Narrowed.flags (r : Narrowed) : FlagWrite := ⟨some r.z, some r.n, some r.c, some r.v, r.sat⟩

/-- The same with Z replaced (R247, R250, R340, R345). -/
def FlagWrite.withZ (f : FlagWrite) (z : Bool) : FlagWrite := { f with z := some z }

/-- Z alone. -/
def FlagWrite.onlyZ (z : Bool) : FlagWrite := ⟨some z, .none, .none, .none, false⟩

/-- Whether Z, N, C or V is written. -/
def FlagWrite.any (f : FlagWrite) : Bool := f.z.isSome || f.n.isSome || f.c.isSome || f.v.isSome

/-- Writes flags: a flag that is not named keeps its value (R11); SF is only set (R10). -/
def Flags.put (f : Flags) (w : FlagWrite) : Flags :=
  ⟨w.z.getD f.z, w.n.getD f.n, w.c.getD f.c, w.v.getD f.v, f.sf || w.sf⟩

/-- Sets the sticky SF and nothing else: the part of a stale write that still counts (R17). -/
def Flags.putSf (f : Flags) (sf : Bool) : Flags := { f with sf := f.sf || sf }

/-- The flags word (R10). -/
def Flags.word (f : Flags) : Nat :=
  f.z.toNat + 2 * f.n.toNat + 4 * f.c.toNat + 8 * f.v.toNat + 16 * f.sf.toNat

/-- The flags from bits [4:0] of a value (R10, R111). -/
def Flags.ofNat (x : Nat) : Flags := ⟨x.testBit 0, x.testBit 1, x.testBit 2, x.testBit 3, x.testBit 4⟩

end Sys2Proof.Machine
end

