-- ==== Sys2Proof/Machine/Access.lean ====
section
/-! DEFINITION. Access: where each piece of state is read and written: sparse lists, cores, slots, quads, threads,
contexts, the running thread's registers. -/

namespace Sys2Proof.Machine
open Sys2Proof

/-! ## Lists by key -/

/-- The value under a key, or the default. -/
def getK {α : Type} (d : α) (k : Nat) : List (Nat × α) → α
  | [] => d
  | (j, v) :: r => if j = k then v else getK d k r

/-- The list with a key set; keys stay ascending. -/
def setK {α : Type} (k : Nat) (v : α) : List (Nat × α) → List (Nat × α)
  | [] => [(k, v)]
  | (j, w) :: r => if k < j then (k, v) :: (j, w) :: r else if j = k then (k, v) :: r else (j, w) :: setK k v r

/-- A number put into an ascending list of numbers. -/
def insertN (k : Nat) : List Nat → List Nat
  | [] => [k]
  | j :: r => if k < j then k :: j :: r else if j = k then j :: r else j :: insertN k r

/-- A number taken out of a list. -/
def eraseN (k : Nat) (l : List Nat) : List Nat := l.filter (fun j => decide (j ≠ k))

/-- Bits [lo + n - 1 : lo] of a number. -/
def bits (x lo n : Nat) : Nat := x / 2 ^ lo % 2 ^ n

/-- A bit of a number. -/
def bit1 (x i : Nat) : Bool := decide (x / 2 ^ i % 2 = 1)

/-! ## Cores, slots, quads, contexts -/

/-- A core's state. -/
def State.core (s : State) (c : Nat) : CoreSt := getK CoreSt.reset c s.cores

/-- A core's state replaced. -/
def State.setCore (s : State) (c : Nat) (v : CoreSt) : State := { s with cores := setK c v s.cores }

/-- A slot of a core; an index of 16 or more names no slot and reads as a free one. -/
def CoreSt.slot (c : CoreSt) (i : Nat) : Slot := c.slots.toList.getD i ⟨false, .free⟩

/-- A slot of a core replaced. -/
def CoreSt.setSlot (c : CoreSt) (i : Nat) (v : Slot) : CoreSt := { c with slots := c.slots.setIfInBounds i v }

/-- The running thread's core and slot. -/
def State.curCore (s : State) : Nat := s.cur.1
/-- The running thread's slot. -/
def State.curSlot (s : State) : Nat := s.cur.2

/-- Whether the thread in `thr` stands in the slot `cur`. -/
def State.hasRunning (s : State) : Bool := decide (((s.core s.cur.1).slot s.cur.2).occ = .running)

/-- The thread that stands in a slot: the running one from `thr`. -/
def State.threadAt (s : State) (c i : Nat) : Option Thread :=
  match ((s.core c).slot i).occ with
  | .free => none
  | .running => if s.cur = (c, i) then some s.thr else none
  | .thread t => some t

/-- Puts a thread back into the slot where it stands. -/
def State.putThread (s : State) (c i : Nat) (t : Thread) : State :=
  match ((s.core c).slot i).occ with
  | .free => s
  | .running => if s.cur = (c, i) then { s with thr := t } else s
  | .thread _ => s.setCore c ((s.core c).setSlot i ⟨((s.core c).slot i).reserved, .thread t⟩)

/-- Changes the thread of a slot. -/
def State.modThread (s : State) (c i : Nat) (f : Thread → Thread) : State :=
  match s.threadAt c i with
  | none => s
  | some t => s.putThread c i (f t)

/-- Changes what a slot holds. -/
def State.setOcc (s : State) (c i : Nat) (o : Occ) : State :=
  s.setCore c ((s.core c).setSlot i { (s.core c).slot i with occ := o })

/-- Changes the running thread. -/
def State.modThr (s : State) (f : Thread → Thread) : State := { s with thr := f s.thr }

/-- A quad's state. -/
def State.quad (s : State) (q : Nat) : QuadSt := getK QuadSt.reset q s.quads

/-- A quad's state replaced. -/
def State.setQuad (s : State) (q : Nat) (v : QuadSt) : State := { s with quads := setK q v s.quads }

/-- Changes the quad's tile `t`. -/
def QuadSt.modTile (q : QuadSt) (t : Nat) (f : Tile → Tile) : QuadSt :=
  { q with tiles := q.tiles.setIfInBounds t (f (q.tiles.toList.getD t ⟨none, false, []⟩)) }

/-- A tile of the quad. -/
def QuadSt.tile (q : QuadSt) (t : Nat) : Tile := q.tiles.toList.getD t ⟨none, false, []⟩

/-- A B slot of the quad. -/
def QuadSt.bslot (q : QuadSt) (i : Nat) : BSlot := q.bslots.toList.getD i ⟨none, false, 0, [], [], []⟩

/-- Changes the quad's B slot `i`. -/
def QuadSt.modBslot (q : QuadSt) (i : Nat) (f : BSlot → BSlot) : QuadSt :=
  { q with bslots := q.bslots.setIfInBounds i (f (q.bslot i)) }

/-- A resident context. -/
def State.ctxOf (s : State) (c : Nat) : Option Ctx := s.ctxs.find? (fun x => decide (x.id = c))

/-- A resident context replaced or added. -/
def State.setCtx (s : State) (x : Ctx) : State :=
  { s with ctxs := x :: s.ctxs.filter (fun y => decide (y.id ≠ x.id)) }

/-- Changes a resident context. -/
def State.modCtx (s : State) (c : Nat) (f : Ctx → Ctx) : State :=
  { s with ctxs := s.ctxs.map (fun x => if x.id = c then f x else x) }

/-- Changes the device. -/
def State.modDev (s : State) (f : Device → Device) : State := { s with dev := f s.dev }

/-- Changes the memory system. -/
def State.modMem (s : State) (f : Mem → Mem) : State := { s with mem := f s.mem }

/-- The next serial number, and the state in which it is taken. -/
def State.fresh (s : State) : Nat × State := (s.serial, { s with serial := s.serial + 1 })

/-- A free choice among `k` outcomes (log 5); none to make where there is at most one. -/
def State.choose (s : State) (k : Nat) : Nat × State :=
  if k ≤ 1 then (0, s) else (Config.choice s.freeCtr % k, { s with freeCtr := s.freeCtr + 1 })

/-! ## Where cores stand (R1, R157, R336, R379, R383) -/

/-- Quads of a die that the logical core map names. -/
def Device.quadsOf (d : Device) (die : Nat) : Nat :=
  if die ∈ d.diesUp then 4096 - (d.removedQuads.filter (fun q => decide (q / 4096 = die))).length else 0

/-- The on-die index of the `i`-th quad that has not been removed, among removed indices in ascending order. -/
def skipRemoved : List Nat → Nat → Nat
  | [], i => i
  | r :: rest, i => if r ≤ i then skipRemoved rest (i + 1) else i

/-- The physical quad of a logical quad, searched over the dies from `die` upward (R383). -/
def Device.physQuadFrom (d : Device) : Nat → Nat → Nat → Option Nat
  | 0, _, _ => none
  | fuel + 1, die, q =>
    if q < d.quadsOf die then
      some (4096 * die +
        skipRemoved ((d.removedQuads.filter (fun x => decide (x / 4096 = die))).map (fun x => x % 4096)) q)
    else d.physQuadFrom fuel (die + 1) (q - d.quadsOf die)

/-- The physical quad of a logical quad (R336). -/
def Device.physQuad (d : Device) (q : Nat) : Option Nat := d.physQuadFrom 16 0 q

/-- How many logical quads there are below a die. -/
def Device.quadsBelow (d : Device) : Nat → Nat
  | 0 => 0
  | die + 1 => d.quadsBelow die + d.quadsOf die

/-- Logical quads in all: Q of R336. -/
def Device.quadCount (d : Device) : Nat := d.quadsBelow 16

/-- The logical quad of a physical one, if the map names it. -/
def Device.logicalQuad (d : Device) (p : Nat) : Option Nat :=
  if p / 4096 ∈ d.diesUp ∧ p ∉ d.removedQuads then
    some (d.quadsBelow (p / 4096) + p % 4096 -
      (d.removedQuads.filter (fun x => decide (x / 4096 = p / 4096 ∧ x < p))).length)
  else none

/-- Whether `c` is a logical core of the device (R134, R276). -/
def Device.isCore (d : Device) (c : Nat) : Bool := decide (c < 4 * d.quadCount)

/-- The die on which a logical core stands (R165). -/
def Device.dieOf (d : Device) (c : Nat) : Nat := (d.physQuad (c / 4)).getD 0 / 4096

/-- The physical core of a logical core. -/
def Device.physCore (d : Device) (c : Nat) : Nat := 4 * (d.physQuad (c / 4)).getD 0 + c % 4

/-- The logical core at a grid position of a die, if the map names it (R157). -/
def Device.coreAt (d : Device) (die x y : Nat) : Option Nat :=
  match d.logicalQuad (4096 * die + (y / 2) * 64 + x / 2) with
  | some q => some (4 * q + (x % 2) + 2 * (y % 2))
  | none => none

/-- The logical core beside a logical core in a direction: 0 north, 1 east, 2 south, 3 west (R157, R158). -/
def Device.neighbour (d : Device) (c dir : Nat) : Option Nat :=
  let p := (d.physQuad (c / 4)).getD 0
  let q := p % 4096
  let x := 2 * (q % 64) + c % 2
  let y := 2 * (q / 64) + c / 2 % 2
  let die := p / 4096
  match dir with
  | 0 => if y = 0 then none else d.coreAt die x (y - 1)
  | 1 => if x = 127 then none else d.coreAt die (x + 1) y
  | 2 => if y = 127 then none else d.coreAt die x (y + 1)
  | _ => if x = 0 then none else d.coreAt die (x - 1) y

/-- The base dies that are up, and the base die that is home to a block of HBM (R197, R379). -/
def Device.stackOf (d : Device) (pa : Nat) : Nat :=
  if d.minimal then d.stacksUp.headD 0 else pa / 1024 % 12

/-- The pseudo-channel of a block: its stack's blocks are interleaved over 512; the one stack of minimal mode holds every
block (R197, R379, log 95). -/
def Device.pseudoChannel (d : Device) (pa : Nat) : Nat := if d.minimal then pa / 1024 % 512 else pa / 1024 / 12 % 512

/-- The die whose scheduler complex keeps launch record `j` (R274, R379). -/
def Device.recordDie (d : Device) (j : Nat) : Nat := if d.minimal then d.diesUp.headD 0 else j % 16

/-! ## Runnels -/

/-- The entries of the runnel that leaves a physical core in a direction. -/
def State.runnel (s : State) (src dir : Nat) : List RunEntry :=
  match s.runnels.find? (fun r => decide (r.src = src ∧ r.dir = dir)) with
  | some r => r.entries
  | none => []

/-- The same runnel with other entries; an empty one is not listed. -/
def State.setRunnel (s : State) (src dir : Nat) (es : List RunEntry) : State :=
  let rest := s.runnels.filter (fun r => decide (¬(r.src = src ∧ r.dir = dir)))
  { s with runnels := if es.isEmpty then rest else ⟨src, dir, es⟩ :: rest }

/-- The direction of a logical link (R158). -/
def CoreSt.linkDir (c : CoreSt) (l : Nat) : Nat := bits c.ldir.toNat (2 * l) 2

/-- The opposite direction. -/
def oppositeDir (d : Nat) : Nat := (d + 2) % 4

/-! ## The running thread's registers -/

/-- A name of a thread; n63 is a 64-bit signed wrap name that holds 0 (R32, R36). -/
def Thread.name (t : Thread) (n : Name) : NameCell :=
  if n = 63 then ⟨64, .signed, .wrap, 0, .none⟩ else t.names[n]

/-- A name of a thread replaced; n63 discards (R32). -/
def Thread.setName (t : Thread) (n : Name) (c : NameCell) : Thread :=
  if n = 63 then t else { t with names := t.names.set n c }

/-- A name's pattern replaced. -/
def Thread.setPat (t : Thread) (n : Name) (p : Word) : Thread := t.setName n { t.name n with pat := p }

/-- A vector register of a thread. -/
def Thread.vreg (t : Thread) (v : VReg) : VRegVal := t.vregs[v]

/-- A vector register replaced. -/
def Thread.setVreg (t : Thread) (v : VReg) (x : VRegVal) : Thread := { t with vregs := t.vregs.set v x }

/-- A token's state (R268). -/
def Thread.tok (t : Thread) (k : Nat) : Nat := bits t.toks.toNat (2 * k) 2

/-- Token states with one replaced. -/
def setTok (w : BitVec 16) (k v : Nat) : BitVec 16 :=
  BitVec.ofNat 16 (w.toNat - bits w.toNat (2 * k) 2 * 2 ^ (2 * k) + v % 4 * 2 ^ (2 * k))

/-- A token's state replaced (R268). -/
def Thread.setTok (t : Thread) (k v : Nat) : Thread := { t with toks := Machine.setTok t.toks k v }

/-- A group handle (R145). -/
def Thread.group (t : Thread) (g : Grp) : Option Word := t.groups[g]

/-- A group handle replaced. -/
def Thread.setGroup (t : Thread) (g : Grp) (x : Option Word) : Thread := { t with groups := t.groups.set g x }

/-- Writes flags; a write of Z, N, C or V ends the claim of every open window on them (R17). -/
def Thread.putFlags (t : Thread) (w : FlagWrite) : Thread :=
  { t with
    flags := t.flags.put w
    inflight := if w.any then t.inflight.map (fun e => { e with flagsLive := false }) else t.inflight }

/-- The low 64 bits of PRIVL (R12). -/
def Privl.word (p : Privl) : Nat := p.priv.toNat + 2 * p.tact.toNat + 4 * p.ppriv.toNat + 8 * p.skip.toNat

/-- SRNGC as a word (R59). -/
def Srngc.word (r : Srngc) : Nat :=
  r.mode.toNat + 4 * r.hfail.toNat + 8 * r.full.toNat + 16 * r.exh.toNat + 4096 * r.base.toNat

/-- DBGCTL as a word (R20). -/
def Dbgctl.word (d : Dbgctl) : Nat :=
  d.lkchk.toNat + 2 * d.ien.toNat + 4 * d.den.toNat + 16 * d.dkind.toNat + 64 * d.stepov.toNat

/-- The code of a kind in a descriptor entry (R30). -/
def Kind.code : Kind → Nat
  | .unsigned => 0 | .signed => 1 | .f64 => 2 | .f32 => 3 | .f16 => 4 | .bf16 => 5

/-- The kind of a code; codes 6 and 7 are reserved (R30). -/
def kindOfCode : Nat → Option Kind
  | 0 => some .unsigned | 1 => some .signed | 2 => some .f64 | 3 => some .f32 | 4 => some .f16 | 5 => some .bf16
  | _ => none

/-- A float kind (R30). -/
def Kind.isFloat : Kind → Bool
  | .unsigned | .signed => false
  | _ => true

/-- The descriptor entry of a name as it now stands (R30, R110, R137). -/
def NameCell.entry (c : NameCell) : Nat :=
  if c.width = 0 then 0 else c.width + 128 * c.kind.code + 1024 * (ovCode' c.mode)
where
  /-- Mode codes (R30). -/
  ovCode' : OvMode → Nat
    | .wrap => 0 | .sat => 1 | .trap => 2

/-- The bits of the span: the sum of the widths of n0 to n62 (R38). -/
def Thread.spanBits (t : Thread) : Nat := (t.names.toList.take 63).foldl (fun n c => n + c.width) 0

/-- The cause codes (R29). -/
def Cause.code : Cause → Nat
  | .illegalInstruction => 0x01 | .mapFault => 0x02 | .widthOverflow => 0x03 | .divideByZero => 0x04
  | .align => 0x05 | .pageFault => 0x06 | .protection => 0x07 | .spaceForeign => 0x08 | .spaceReserved => 0x09
  | .tagMismatch => 0x0A | .flumeCorrupt => 0x0B | .waitExpired => 0x0C | .lookaheadViolation => 0x0D
  | .codeIntegrity => 0x0E | .uncorrectable => 0x0F | .matrixShape => 0x10 | .tokenFault => 0x11
  | .breakpoint => 0x12 | .trapInstr => 0x13 | .privilege => 0x14

/-- A trap of a cause with its address and extra words. -/
def mkTrap (c : Cause) (addr x0 x1 : Nat) : Trap :=
  ⟨c, BitVec.ofNat 64 addr, BitVec.ofNat 64 x0, BitVec.ofNat 64 x1, false, false⟩

/-- MAP_FAULT naming an index (R29). -/
def mapFault (i : Nat) : Trap := mkTrap .mapFault 0 i 0

/-- ILLEGAL_INSTRUCTION (R29). -/
def illegal : Trap := mkTrap .illegalInstruction 0 0 0

/-- Changes the thread that a party is, when it stands in a slot. -/
def State.modSlotParty (s : State) (p : Party) (f : Thread → Thread) : State :=
  match p with
  | .slot c i => s.modThread c i f
  | _ => s

/-- The running thread as a party. -/
def State.me (s : State) : Party := .slot s.cur.1 s.cur.2

end Sys2Proof.Machine
end

