-- ==== Sys2Proof/Machine/Float.lean ====
section
/-! DEFINITION. Float: the floating-point formats, exact values, and the one rounding of R56 and R57. -/

namespace Sys2Proof.Machine
open Sys2Proof

/-- An exact value (R51): NaN, an infinity, or (−1)^neg × m × 2^e. A value read from a format has 2^e as the spacing of
the format at that value, which is what stochastic rounding counts by (R57). -/
inductive FVal where
  | nan
  | inf (neg : Bool)
  | fin (neg : Bool) (m : Nat) (e : Int)
deriving DecidableEq, Repr

/-- Which patterns of a format are NaN (R51): the IEEE style, the E4M3 style, none. -/
inductive NanStyle where
  | ieee | e4m3 | none
deriving DecidableEq, Repr

/-- A floating-point format (R51). -/
structure Fmt where
  ew : Nat
  fw : Nat
  bias : Nat
  nans : NanStyle
deriving DecidableEq, Repr

/-- binary64. -/
def Fmt.b64 : Fmt := ⟨11, 52, 1023, .ieee⟩
/-- binary32. -/
def Fmt.b32 : Fmt := ⟨8, 23, 127, .ieee⟩
/-- binary16. -/
def Fmt.b16 : Fmt := ⟨5, 10, 15, .ieee⟩
/-- BF16. -/
def Fmt.bf16 : Fmt := ⟨8, 7, 127, .ieee⟩
/-- E4M3. -/
def Fmt.e4m3 : Fmt := ⟨4, 3, 7, .e4m3⟩
/-- E5M2. -/
def Fmt.e5m2 : Fmt := ⟨5, 2, 15, .ieee⟩
/-- E2M1. -/
def Fmt.e2m1 : Fmt := ⟨2, 1, 1, .none⟩
/-- E2M3. -/
def Fmt.e2m3 : Fmt := ⟨2, 3, 1, .none⟩
/-- E3M2. -/
def Fmt.e3m2 : Fmt := ⟨3, 2, 3, .none⟩

/-- The format of a float kind (R101). -/
def Kind.fmt : Kind → Fmt
  | .f64 => Fmt.b64
  | .f32 => Fmt.b32
  | .f16 => Fmt.b16
  | _ => Fmt.bf16

/-- Bits of a pattern. -/
def Fmt.width (f : Fmt) : Nat := 1 + f.ew + f.fw

/-- The greatest finite magnitude's pattern (R51). -/
def Fmt.maxCode (f : Fmt) : Nat :=
  match f.nans with
  | .ieee => (2 ^ f.ew - 1) * 2 ^ f.fw - 1
  | .e4m3 => 2 ^ (f.ew + f.fw) - 2
  | .none => 2 ^ (f.ew + f.fw) - 1

/-- Whether the format has infinities (R51). -/
def Fmt.hasInf (f : Fmt) : Bool := decide (f.nans = .ieee)

/-- The pattern of +∞. -/
def Fmt.infCode (f : Fmt) : Nat := (2 ^ f.ew - 1) * 2 ^ f.fw

/-- The canonical NaN (R51, R53); formats without NaN have none and give 0. -/
def Fmt.nanCode (f : Fmt) : Nat :=
  match f.nans with
  | .ieee => f.infCode + 2 ^ (f.fw - 1)
  | .e4m3 => 2 ^ (f.ew + f.fw) - 1
  | .none => 0

/-- A pattern with its sign bit. -/
def Fmt.signed (f : Fmt) (neg : Bool) (c : Nat) : Nat := if neg then 2 ^ (f.ew + f.fw) + c else c

/-- The exact value of a pattern (R51). -/
def Fmt.value (f : Fmt) (p : Nat) : FVal :=
  let neg := bit1 p (f.ew + f.fw)
  let c := p % 2 ^ (f.ew + f.fw)
  let ex := c / 2 ^ f.fw
  let fr := c % 2 ^ f.fw
  if c ≤ f.maxCode then
    if ex = 0 then .fin neg fr (1 - (f.bias : Int) - f.fw)
    else .fin neg (2 ^ f.fw + fr) ((ex : Int) - f.bias - f.fw)
  else if f.hasInf && decide (c = f.infCode) then .inf neg
  else .nan

/-- m × 2^e, rounded to a whole multiple of 2^ue under a mode, with noise word `nw` for SR (R56, R57). -/
def roundUnits (neg : Bool) (m : Nat) (e ue : Int) (mode : RMode) (nw : Nat) : Nat :=
  if ue ≤ e then m * 2 ^ (e - ue).toNat
  else
    let sh := (ue - e).toNat
    let q := m / 2 ^ sh
    let r := m % 2 ^ sh
    match mode with
    | .rne => if 2 * r > 2 ^ sh ∨ (2 * r = 2 ^ sh ∧ q % 2 = 1) then q + 1 else q
    | .rtz => q
    | .rdn => if neg ∧ r ≠ 0 then q + 1 else q
    | .rup => if ¬neg ∧ r ≠ 0 then q + 1 else q
    | .sr =>
      let ee := min sh 16
      (m / 2 ^ (sh - ee) + nw % 2 ^ ee) / 2 ^ ee

/-- The exponent of the spacing of a format at m × 2^e, m ≠ 0, the range unbounded above (R56, R57). -/
def Fmt.unit (f : Fmt) (m : Nat) (e : Int) : Int :=
  max ((Nat.log2 m : Int) + e) (1 - (f.bias : Int)) - f.fw

/-- What exceeds the largest finite magnitude becomes (R56). -/
def Fmt.overflow (f : Fmt) (neg : Bool) (mode : RMode) : Nat :=
  if f.hasInf then
    match mode with
    | .rne | .sr => f.signed neg f.infCode
    | .rtz => f.signed neg f.maxCode
    | .rdn => if neg then f.signed true f.infCode else f.maxCode
    | .rup => if neg then f.signed true f.maxCode else f.infCode
  else f.signed neg f.maxCode

/-- round(v, F, mode) as a pattern (R56, R57). -/
def Fmt.round (f : Fmt) (mode : RMode) (nw : Nat) : FVal → Nat
  | .nan => f.nanCode
  | .inf neg => if f.hasInf then f.signed neg f.infCode else f.signed neg f.maxCode
  | .fin neg m e =>
    if m = 0 then f.signed neg 0
    else
      let ue := f.unit m e
      let k := roundUnits neg m e ue mode nw
      let c := if k < 2 ^ f.fw then k else ((ue + f.fw + f.bias).toNat) * 2 ^ f.fw + (k - 2 ^ f.fw)
      if c ≤ f.maxCode then f.signed neg c else f.overflow neg mode

/-- rne(v, F) (R7). -/
def Fmt.rne (f : Fmt) (v : FVal) : Nat := f.round .rne 0 v

/-- An integer as an exact value. -/
def FVal.ofInt (x : Int) : FVal := .fin (decide (x < 0)) x.natAbs 0

/-- The signed significand at a common exponent. -/
def signedAt (neg : Bool) (m : Nat) (e lo : Int) : Int :=
  let k : Int := (m * 2 ^ (e - lo).toNat : Nat)
  if neg then -k else k

/-- Exact sum (R115, R116): an exact zero sum is +0 unless both are −0. -/
def FVal.add : FVal → FVal → FVal
  | .nan, _ => .nan
  | _, .nan => .nan
  | .inf a, .inf b => if a = b then .inf a else .nan
  | .inf a, .fin _ _ _ => .inf a
  | .fin _ _ _, .inf b => .inf b
  | .fin na ma ea, .fin nb mb eb =>
    let lo := min ea eb
    let t := signedAt na ma ea lo + signedAt nb mb eb lo
    if t = 0 then .fin (na && nb && decide (ma = 0) && decide (mb = 0)) 0 lo
    else .fin (decide (t < 0)) t.natAbs lo

/-- Negation of an exact value; NaN stays NaN. -/
def FVal.neg : FVal → FVal
  | .nan => .nan
  | .inf a => .inf (!a)
  | .fin a m e => .fin (!a) m e

/-- Magnitude of an exact value. -/
def FVal.abs : FVal → FVal
  | .nan => .nan
  | .inf _ => .inf false
  | .fin _ m e => .fin false m e

/-- Exact product (R115, R116). -/
def FVal.mul : FVal → FVal → FVal
  | .nan, _ => .nan
  | _, .nan => .nan
  | .inf a, .inf b => .inf (a != b)
  | .inf a, .fin b m _ => if m = 0 then .nan else .inf (a != b)
  | .fin a m _, .inf b => if m = 0 then .nan else .inf (a != b)
  | .fin a ma ea, .fin b mb eb => .fin (a != b) (ma * mb) (ea + eb)

/-- Quotient with a sticky last bit: it rounds as the exact quotient does under RNE into any format (R115, R116). -/
def FVal.div : FVal → FVal → FVal
  | .nan, _ => .nan
  | _, .nan => .nan
  | .inf _, .inf _ => .nan
  | .inf a, .fin b _ _ => .inf (a != b)
  | .fin a _ _, .inf b => .fin (a != b) 0 0
  | .fin a ma ea, .fin b mb eb =>
    if mb = 0 then (if ma = 0 then .nan else .inf (a != b))
    else if ma = 0 then .fin (a != b) 0 0
    else
      let k := 70 + Nat.log2 mb
      let q := ma * 2 ^ k / mb
      let st := if ma * 2 ^ k % mb = 0 then 0 else 1
      .fin (a != b) (2 * q + st) (ea - eb - k - 1)

/-- The integer square root of `n`, bit by bit from bit `k - 1` down. -/
def isqrtFrom (n : Nat) : Nat → Nat → Nat
  | 0, r => r
  | k + 1, r => if (r + 2 ^ k) * (r + 2 ^ k) ≤ n then isqrtFrom n k (r + 2 ^ k) else isqrtFrom n k r

/-- Square root with a sticky last bit (R115, R116). -/
def FVal.sqrt : FVal → FVal
  | .nan => .nan
  | .inf neg => if neg then .nan else .inf false
  | .fin neg m e =>
    if m = 0 then .fin neg 0 0
    else if neg then .nan
    else
      let sh0 := 140 - Nat.log2 m
      let sh := if (e - sh0) % 2 = 0 then sh0 else sh0 + 1
      let n := m * 2 ^ sh
      let r := isqrtFrom n 72 0
      .fin false (2 * r + (if r * r = n then 0 else 1)) ((e - sh) / 2 - 1)

/-- a < b as exact values; false when either is NaN (R116). -/
def FVal.lt : FVal → FVal → Bool
  | .nan, _ => false
  | _, .nan => false
  | .inf a, .inf b => a && !b
  | .inf a, .fin _ _ _ => a
  | .fin _ _ _, .inf b => !b
  | .fin na ma ea, .fin nb mb eb =>
    let lo := min ea eb
    decide (signedAt na ma ea lo < signedAt nb mb eb lo)

/-- a = b as exact values, −0 equal to +0; false when either is NaN (R116). -/
def FVal.eq (a b : FVal) : Bool :=
  match a, b with
  | .nan, _ => false
  | _, .nan => false
  | a, b => !(a.lt b) && !(b.lt a)

/-- A zero with the sign bit set. -/
def FVal.isNegZero : FVal → Bool
  | .fin neg m _ => neg && decide (m = 0)
  | _ => false

/-- minimumNumber (R116): one NaN gives the other operand; −0 counts as less than +0. -/
def FVal.minNum (a b : FVal) : FVal :=
  match a, b with
  | .nan, y => y
  | x, .nan => x
  | x, y => if x.lt y || (x.eq y && x.isNegZero) then x else y

/-- maximumNumber (R116). -/
def FVal.maxNum (a b : FVal) : FVal :=
  match a, b with
  | .nan, y => y
  | x, .nan => x
  | x, y => if y.lt x || (x.eq y && y.isNegZero) then x else y

/-- The k of FCLASS (R116). -/
def Fmt.classOf (f : Fmt) (p : Nat) : Nat :=
  match f.value p with
  | .nan => 8
  | .inf neg => if neg then 0 else 7
  | .fin neg m _ =>
    if m = 0 then (if neg then 3 else 4)
    else if m < 2 ^ f.fw then (if neg then 2 else 5)
    else (if neg then 1 else 6)

/-- A finite value rounded to an integer under a mode (R71). -/
def roundInt (neg : Bool) (m : Nat) (e : Int) (mode : RMode) (nw : Nat) : Int :=
  let k : Int := (roundUnits neg m e 0 mode nw : Nat)
  if neg then -k else k

/-- Every value of `a` is a value of `b` (R55, R70). -/
def Fmt.within (a b : Fmt) : Bool :=
  decide (a.fw ≤ b.fw) &&
  decide ((b.bias : Int) + b.fw ≥ (a.bias : Int) + a.fw) &&
  decide (Int.ofNat (a.maxCode / 2 ^ a.fw) - a.bias ≤ Int.ofNat (b.maxCode / 2 ^ b.fw) - b.bias) &&
  (!a.hasInf || b.hasInf) && (decide (a.nans = .none) || decide (b.nans ≠ .none))

/-- Every value of a `w`-bit integer name is a value of `f` (R70, R117). -/
def Fmt.holdsInt (f : Fmt) (k : Kind) (w : Nat) : Bool :=
  let sig := if k = .signed then w - 1 else w
  decide (sig ≤ f.fw + 1) && decide (Int.ofNat sig ≤ Int.ofNat (f.maxCode / 2 ^ f.fw) - f.bias)

end Sys2Proof.Machine
end

