-- ==== Sys2Proof/Machine/Memory.lean ====
section
/-! DEFINITION. Memory: bytes in HBM, die L2 sectors, L1 lines and scratchpads, and how they move between levels
(R193 to R198, R204 to R210, R218 to R223, R315, R317). Addresses here are physical, or offsets in a scratchpad. -/

namespace Sys2Proof.Machine
open Sys2Proof

/-! ## Lists of cells in canonical form: addresses strictly rising, no byte 0 -/

/-- The byte at an address; an unlisted one reads 0 (log 4). -/
def cellGet : List Host.Cell → Nat → Byte
  | [], _ => 0
  | (k, b) :: r, a => if k = a then b else cellGet r a

/-- The cells with one byte written; writing 0 removes the entry. -/
def cellSet : List Host.Cell → Nat → Byte → List Host.Cell
  | [], a, b => if b = 0 then [] else [(a, b)]
  | (k, c) :: r, a, b =>
    if k < a then (k, c) :: cellSet r a b
    else if k = a then (if b = 0 then r else (a, b) :: r)
    else if b = 0 then (k, c) :: r else (a, b) :: (k, c) :: r

/-- The canonical form, above a bound. -/
def cellsWfFrom : Nat → List Host.Cell → Bool
  | _, [] => true
  | lo, (k, b) :: r => decide (lo ≤ k) && decide (b ≠ 0) && cellsWfFrom (k + 1) r

/-- The canonical form of a list of cells. -/
def cellsWf (l : List Host.Cell) : Bool := cellsWfFrom 0 l

/-- `n` bytes from an address. -/
def cellsRead (l : List Host.Cell) (a : Nat) : Nat → List Byte
  | 0 => []
  | n + 1 => cellGet l a :: cellsRead l (a + 1) n

/-- Bytes at successive addresses. -/
def bytesAt (a : Nat) : List Byte → List Host.Cell
  | [] => []
  | b :: r => (a, b) :: bytesAt (a + 1) r

/-- Writes the given bytes. -/
def cellsWrite (l : List Host.Cell) (ps : List Host.Cell) : List Host.Cell :=
  ps.foldl (fun l p => cellSet l p.1 p.2) l

/-- The cells of a range of addresses. -/
def cellsIn (l : List Host.Cell) (lo n : Nat) : List Host.Cell :=
  l.filter (fun p => decide (lo ≤ p.1 ∧ p.1 < lo + n))

/-- Little-endian bytes as a number (R5). -/
def leNat : List Byte → Nat
  | [] => 0
  | b :: r => b.toNat + 256 * leNat r

/-- A number as `n` little-endian bytes (R5). -/
def leBytes : Nat → Nat → List Byte
  | 0, _ => []
  | n + 1, x => BitVec.ofNat 8 x :: leBytes n (x / 256)

/-- The 8-byte words that a list of bytes covers whole. -/
def fullWords (ps : List Host.Cell) : List Nat :=
  ((ps.map (fun p => p.1 / 8)).eraseDups).filter
    (fun w => (List.range 8).all (fun i => ps.any (fun p => decide (p.1 = 8 * w + i))))

/-- Poison marks after a write: a whole-word write clears the mark, a narrower one leaves it (R315). -/
def poisonAfter (poison : List Nat) (ps : List Host.Cell) : List Nat :=
  if poison.isEmpty then [] else
  let fw := fullWords ps
  poison.filter (fun w => decide (w ∉ fw))

/-- The words of a range. -/
def wordsOf (a n : Nat) : List Nat := if n = 0 then [] else (List.range ((a + n - 1) / 8 - a / 8 + 1)).map (· + a / 8)

/-- The first poisoned word of a range, if there is one. -/
def firstPoison (poison : List Nat) (a n : Nat) : Option Nat := (wordsOf a n).find? (fun w => decide (w ∈ poison))

/-! ## The physical map (R197, R353, R379) -/

/-- What a physical address reaches. -/
inductive PaKind where
  | hbm | reserved | fabric | host | root | regs
deriving DecidableEq, Repr

/-- The physical map (R197); the fabric window lies in the range that R197 leaves reserved (R353). -/
def Device.paKind (d : Device) (pa : Nat) : PaKind :=
  if pa < (if d.minimal then 0xC00000000 else 0x9000000000) then .hbm
  else if pa < 0x200000000000 then .reserved
  else if pa < 0x400000000000 then .fabric
  else if pa < 0x800000000000 then .host
  else if pa < 0xC00000000000 then .root
  else .regs

/-- Bytes that another party keeps: free values (log 5). -/
def State.externalRead (s : State) (pa n : Nat) : List Byte × State :=
  ((List.range n).map (fun i => Config.externalByte s.freeCtr (pa + i)), { s with freeCtr := s.freeCtr + 1 })

/-! ## HBM and the die L2 (R195, R196) -/

/-- Writes bytes to HBM. -/
def Mem.hbmWrite (m : Mem) (ps : List Host.Cell) : Mem :=
  { m with hbm := cellsWrite m.hbm ps, poison := poisonAfter m.poison ps }

/-- Block number of an address. -/
def blockOf (pa : Nat) : Nat := pa / 1024

/-- The die's sector of a block. -/
def Mem.sector (m : Mem) (die block : Nat) : Option Sector :=
  m.l2.find? (fun x => decide (x.die = die ∧ x.block = block))

/-- Puts a sector. -/
def Mem.putSector (m : Mem) (x : Sector) : Mem :=
  { m with l2 := x :: m.l2.filter (fun y => decide (¬(y.die = x.die ∧ y.block = x.block))) }

/-- The dirty bytes of a sector. -/
def Sector.dirtyCells (x : Sector) : List Host.Cell := x.dirty.map (fun a => (a, cellGet x.cells a))

/-- The poisoned words among a sector's dirty ones. -/
def Sector.badWords (x : Sector) : List Nat := x.poison.filter (fun w => x.dirty.any (fun a => decide (a / 8 = w)))

/-- Writes a sector's dirty bytes back to HBM, masked; a poisoned word reaches memory poisoned, and is noted (R317). -/
def Mem.writeBackSector (m : Mem) (x : Sector) : Mem :=
  let m1 := m.hbmWrite x.dirtyCells
  { m1 with
    poison := x.badWords.foldl (fun l w => insertN w l) m1.poison
    lost := m1.lost ++ x.badWords.map (fun w => (x.owner, w)) }

/-- Every die writes its dirty bytes of a block back and keeps a clean copy. -/
def Mem.recall (m : Mem) (block : Nat) : Mem :=
  let xs := m.l2.filter (fun x => decide (x.block = block ∧ x.dirty ≠ []))
  let m1 := xs.foldl (fun m x => m.writeBackSector x) m
  { m1 with l2 := m1.l2.map (fun x => if x.block = block then { x with dirty := [] } else x) }

/-- Every die but `keep` drops its copy of a block, after writing back (R196). -/
def Mem.dropOthers (m : Mem) (keep : Option Nat) (block : Nat) : Mem :=
  let out := m.l2.filter (fun x => decide (x.block = block) && decide (some x.die ≠ keep))
  let m1 := out.foldl (fun m x => m.writeBackSector x) m
  { m1 with l2 := m1.l2.filter (fun x => !(decide (x.block = block) && decide (some x.die ≠ keep))) }

/-- The sectors that a die's L2 has in use: one for each copy of a block (R195). -/
def Mem.l2Copies (m : Mem) (die : Nat) : Nat :=
  ((m.l2.filter (fun x => decide (x.die = die))).map (fun x => x.rowCopy.toNat + x.colCopy.toNat)).sum

/-- A die's L2 keeps within its 96 MiB of 1 KiB sectors (R1, R195): of the block that was filled or written longest ago, the
second copy is dropped, or the block is written back and leaves (log 94). -/
def Mem.shrink (m : Mem) (die : Nat) : Mem :=
  if m.l2Copies die ≤ 98304 then m
  else
    match (m.l2.filter (fun x => decide (x.die = die))).getLast? with
    | none => m
    | some x =>
      let others (m : Mem) := m.l2.filter (fun y => decide (¬(y.die = x.die ∧ y.block = x.block)))
      if x.rowCopy && x.colCopy then { m with l2 := others m ++ [{ x with colCopy := false }] }
      else
        let m1 := m.writeBackSector x
        { m1 with l2 := others m1 }

/-- A die's holding of a block with the row copy, or the column copy, that an access reads through, filled if the die lacks
it: from the other copy, or from the block's home (R195, R196). -/
def Mem.fill (m : Mem) (die block : Nat) (col : Bool) : Sector × Mem :=
  match m.sector die block with
  | some x =>
    if (if col then x.colCopy else x.rowCopy) then (x, m)
    else
      let y := { x with rowCopy := x.rowCopy || !col, colCopy := x.colCopy || col }
      (y, (m.putSector y).shrink die)
  | none =>
    let m1 := m.recall block
    let x : Sector := ⟨die, block, cellsIn m1.hbm (1024 * block) 1024, [], !col, col,
      m1.poison.filter (fun w => decide (w / 128 = block)), 0, false⟩
    (x, (m1.putSector x).shrink die)

/-- The bytes that a die L2 read along rows, or along columns, returns (within one block), and the fill it makes. -/
def Mem.l2Read (m : Mem) (die pa n : Nat) (col : Bool) : List Byte × Mem :=
  let (x, m1) := m.fill die (blockOf pa) col
  (cellsRead x.cells pa n, m1)

/-- A masked write at a die L2, which holds the block alone (R196). The owner is set when the sector first becomes dirty
(R195). -/
def Mem.l2Write (m : Mem) (die owner : Nat) (ps : List Host.Cell) : Mem :=
  match ps with
  | [] => m
  | p :: _ =>
    let (_, m1) := m.fill die (blockOf p.1) false
    let m2 := m1.dropOthers (some die) (blockOf p.1)
    let (x, m3) := m2.fill die (blockOf p.1) false
    m3.putSector { x with
      cells := cellsWrite x.cells ps
      owner := if x.dirty.isEmpty then owner else x.owner
      dirty := ps.foldl (fun l q => insertN q.1 l) x.dirty
      poison := poisonAfter x.poison ps }

/-- What a die L2 read would return, without a fill: page walks and instruction fetch. -/
def Mem.peek (m : Mem) (die pa n : Nat) : List Byte :=
  match m.sector die (blockOf pa) with
  | some x => cellsRead x.cells pa n
  | none => cellsRead (m.recall (blockOf pa)).hbm pa n

/-- Poison met by a die L2 read, without a fill. -/
def Mem.peekPoison (m : Mem) (die pa n : Nat) : Option Nat :=
  match m.sector die (blockOf pa) with
  | some x => firstPoison x.poison pa n
  | none => firstPoison (m.recall (blockOf pa)).poison pa n

/-- A read at the block's home: dirty copies are recalled first (R196, R198). -/
def Mem.homeRead (m : Mem) (pa n : Nat) : List Byte × Mem :=
  let m1 := m.recall (blockOf pa)
  (cellsRead m1.hbm pa n, m1)

/-- What a home read would return, without a recall. -/
def Mem.homePeek (m : Mem) (pa n : Nat) : List Byte := cellsRead (m.recall (blockOf pa)).hbm pa n

/-- A write at the home that holds the block alone: atomics, flume controllers, copies (R196, R264). -/
def Mem.homeWrite (m : Mem) (ps : List Host.Cell) : Mem :=
  match ps with
  | [] => m
  | p :: _ => (m.dropOthers none (blockOf p.1)).hbmWrite ps

/-- A policy 2 store, or a write of the host port, at the home: die L2 copies stay until an acquire at host scope
(R202, R210). -/
def Mem.homeStore (m : Mem) (ps : List Host.Cell) : Mem :=
  match ps with
  | [] => m
  | p :: _ =>
    let m1 := (m.recall (blockOf p.1)).hbmWrite ps
    { m1 with l2 := m1.l2.map (fun x => if x.block = blockOf p.1 then { x with stale := true } else x) }

/-! ## The L1 (R194) -/

/-- A core's line. -/
def Mem.line (m : Mem) (core line : Nat) : Option L1Line :=
  m.l1.find? (fun x => decide (x.core = core ∧ x.line = line))

/-- Puts a line. -/
def Mem.putLine (m : Mem) (x : L1Line) : Mem :=
  { m with l1 := x :: m.l1.filter (fun y => decide (¬(y.core = x.core ∧ y.line = x.line))) }

/-- Drops a core's line without a write-back. -/
def Mem.dropLine (m : Mem) (core line : Nat) : Mem :=
  { m with l1 := m.l1.filter (fun y => decide (¬(y.core = core ∧ y.line = line))) }

/-- Byte `i` of a line. -/
def L1Line.byte (x : L1Line) (i : Nat) : Byte := BitVec.ofNat 8 (x.data.toNat / 2 ^ (8 * i))

/-- A line with byte `i` written and valid. -/
def L1Line.setByte (x : L1Line) (i : Nat) (b : Byte) : L1Line :=
  { x with
    data := BitVec.ofNat 512 (x.data.toNat - x.data.toNat / 2 ^ (8 * i) % 256 * 2 ^ (8 * i) + b.toNat * 2 ^ (8 * i))
    valid := x.valid ||| BitVec.ofNat 64 (2 ^ i) }

/-- The valid bytes of the dirty words of a line: what a write-back carries (R194). -/
def L1Line.dirtyCells (x : L1Line) : List Host.Cell :=
  ((List.range 64).filter (fun i => x.dirty.getLsbD (i / 8) && x.valid.getLsbD i)).map
    (fun i => (64 * x.line + i, x.byte i))

/-- Writes at the level below the L1: the die L2 for HBM; what lies elsewhere leaves the device. -/
def State.belowWrite (s : State) (die owner : Nat) (ps : List Host.Cell) : State :=
  match ps with
  | [] => s
  | p :: _ => if s.dev.paKind p.1 = .hbm then s.modMem (fun m => m.l2Write die owner ps) else s

/-- Marks words of the die's sector poisoned: a write-back carries the marks of the line (R315). -/
def Mem.poisonSector (m : Mem) (die block : Nat) (ws : List Nat) : Mem :=
  match m.sector die block with
  | some x => m.putSector { x with poison := ws.foldl (fun l w => insertN w l) x.poison }
  | none => m

/-- Writes a line's dirty words back to the die L2 and leaves it clean (R194). -/
def State.writeBackLine (s : State) (x : L1Line) : State :=
  if x.dirty = 0 then s
  else
    let s1 := s.belowWrite (s.dev.dieOf x.core) x.owner x.dirtyCells
    let bad := ((List.range 8).filter (fun w => x.dirty.getLsbD w && x.poison.getLsbD w)).map (· + 8 * x.line)
    let s2 := if bad.isEmpty then s1
      else s1.modMem (fun m => m.poisonSector (s.dev.dieOf x.core) (blockOf (64 * x.line)) bad)
    s2.modMem (fun m => m.putLine { x with dirty := 0 })

/-- Writes back and drops a core's line: before an atomic, a full/empty or a reservation operation (R218, R226, R245). -/
def State.flushLine (s : State) (core line : Nat) : State :=
  match s.mem.line core line with
  | some x => (s.writeBackLine x).modMem (fun m => m.dropLine core line)
  | none => s

/-! ## Update-only words and reduction slots (R220 to R223) -/

/-- The identity of a reduction (R220). -/
def RedOp.identity : RedOp → Word
  | .add | .or => 0
  | .min => 0x7FFFFFFFFFFFFFFF
  | .max => 0x8000000000000000

/-- Combines two words (R220). -/
def RedOp.combine (op : RedOp) (a b : Word) : Word :=
  match op with
  | .add => a + b
  | .or => a ||| b
  | .min => if a.toInt ≤ b.toInt then a else b
  | .max => if a.toInt ≤ b.toInt then b else a

/-- The levels at which an access can be performed (R198, R204). -/
inductive Level where
  | l1 | l2 | home
deriving DecidableEq, Repr

/-- Reads `n` bytes (within one block) at the die L2 or the home; another party's bytes are free values. -/
def State.levelRead (s : State) (lv : Level) (die pa n : Nat) : List Byte × State :=
  if s.dev.paKind pa = .hbm then
    let (b, m) := if lv = .home then s.mem.homeRead pa n else s.mem.l2Read die pa n false
    (b, { s with mem := m })
  else s.externalRead pa n

/-- Reads `n` bytes (within one block) at the die L2 along rows or along columns (R195). -/
def State.l2Bytes (s : State) (die pa n : Nat) (col : Bool) : List Byte × State :=
  if s.dev.paKind pa = .hbm then
    let (b, m) := s.mem.l2Read die pa n col
    (b, { s with mem := m })
  else s.externalRead pa n

/-- Writes bytes (within one block) at the die L2 or, holding the block alone, at the home. -/
def State.levelWrite (s : State) (lv : Level) (die owner : Nat) (ps : List Host.Cell) : State :=
  match ps with
  | [] => s
  | p :: _ =>
    if s.dev.paKind p.1 = .hbm then
      if lv = .home then s.modMem (fun m => m.homeWrite ps) else s.modMem (fun m => m.l2Write die owner ps)
    else s

/-- An indivisible read-modify-write of an aligned 8-byte word at a level (R218, R219): the prior word. -/
def State.rmw (s : State) (lv : Level) (die owner pa : Nat) (f : Word → Word) : Word × State :=
  let (b, s1) := s.levelRead lv die pa 8
  let w := BitVec.ofNat 64 (leNat b)
  (w, if f w = w then s1 else s1.levelWrite lv die owner (bytesAt pa (leBytes 8 (f w).toNat)))

/-- The level that serves a scope for global memory (R198). -/
def scopeLevel : Scope → Level
  | .core => .l1
  | .quad | .die => .l2
  | _ => .home

/-- Whether a push of a partial would update a poisoned word: it is left unchanged and poisoned (R315, log 75). -/
def State.pushPoisoned (s : State) (home : Bool) (die pa n : Nat) : Bool :=
  decide (s.dev.paKind pa = .hbm) &&
    (if home then firstPoison (s.mem.recall (blockOf pa)).poison pa n else s.mem.peekPoison die pa n).isSome

/-- Pushes an update-only partial to the level that serves its scope (R221). -/
def State.pushPartial (s : State) (p : Partial) : State :=
  let s1 := s.modMem (fun m => { m with partials := m.partials.filter (fun x => decide (x ≠ p)) })
  if s1.pushPoisoned (decide (scopeLevel p.scope = .home)) (s.dev.dieOf p.core) (8 * p.word) 8 then s1
  else (s1.rmw (if scopeLevel p.scope = .home then .home else .l2) (s.dev.dieOf p.core) p.owner (8 * p.word)
    (fun w => p.op.combine w p.val)).2

/-- A store of any size that reaches a marked slot sets its 64 bytes to 0 at their home and clears the mark (R223). -/
def State.zeroSlot (s : State) (slot owner : Nat) : State :=
  (s.levelWrite .home 0 owner (bytesAt (64 * slot) (List.replicate 64 0))).modMem
    (fun m => { m with marks := eraseN slot m.marks })

/-- A store of bytes, within one 64-byte line, that is performed at a level: a marked slot takes it as R223 gives. -/
def State.levelStore (s : State) (lv : Level) (die owner pa : Nat) (bs : List Byte) : State :=
  if pa / 64 ∈ s.mem.marks then s.zeroSlot (pa / 64) owner else s.levelWrite lv die owner (bytesAt pa bs)

/-- Adds a partial slot into the slot at its home, and marks the slot; no L1 holds a marked slot's bytes (R223). The mark of a slot
that another device, the host or a root port keeps is its home's (R354). -/
def State.pushRf (s : State) (p : RfPartial) : State :=
  let s1 := s.modMem (fun m => { m with rfPartials := m.rfPartials.filter (fun x => decide (x ≠ p)) })
  if s1.dev.paKind (64 * p.slot) ≠ .hbm then s1 else
  let s2 := (s1.mem.l1.filter (fun x => decide (x.line = p.slot))).foldl
    (fun t x => (t.writeBackLine x).modMem (fun m => m.dropLine x.core x.line)) s1
  let (b, s3) := s2.levelRead .home 0 (64 * p.slot) 64
  let x := leNat b
  let acc := (bits x 0 320 + p.acc.toNat) % 2 ^ 320
  let pinf := min (bits x 320 32 + p.pinf) (2 ^ 32 - 1)
  let ninf := min (bits x 352 32 + p.ninf) (2 ^ 32 - 1)
  let nan := (bit1 x 384 || p.nan).toNat
  let y := acc + 2 ^ 320 * pinf + 2 ^ 352 * ninf + 2 ^ 384 * nan
  if s3.pushPoisoned true 0 (64 * p.slot) 64 then s3
  else (s3.levelWrite .home 0 0 (bytesAt (64 * p.slot) (leBytes 64 y))).modMem
    (fun m => { m with marks := insertN p.slot m.marks })

/-- The L1 evicts a line: partials of its words and its slot are pushed, its dirty words are written back, and it is
dropped (R194, R205, R221). -/
def State.evictLine (s : State) (core line : Nat) : State :=
  let ps := s.mem.partials.filter (fun p => decide (p.core = core ∧ p.word / 8 = line))
  let rs := s.mem.rfPartials.filter (fun p => decide (p.core = core ∧ p.slot = line))
  (rs.foldl (fun t p => t.pushRf p) (ps.foldl (fun t p => t.pushPartial p) s)).flushLine core line

/-- Ways of a set of the L1, by the scratchpad units (R194). -/
def l1Ways (sps : Nat) : Nat := 4 * (4 - sps)

/-- The lines that a core's L1 holds: with bytes, or with a word or a slot in update-only state (R194, R220, R223). -/
def Mem.heldLines (m : Mem) (core : Nat) : List Nat :=
  let lines := (m.l1.filter (fun x => decide (x.core = core))).map (fun x => x.line)
  let words := (m.partials.filter (fun p => decide (p.core = core))).map (fun p => p.word / 8)
  let slots := (m.rfPartials.filter (fun p => decide (p.core = core))).map (fun p => p.slot)
  (lines ++ words ++ slots).eraseDups

/-- Makes room for a line that the core does not hold: when its set is full, a line of the set is evicted, whichever the
hardware chooses (R194, R205; the choice is free, log 5). With SPS = 4 the 32-line buffer serves as one set. -/
def State.makeRoom (s : State) (core line : Nat) : State :=
  let sps := (s.core core).sps
  let held := s.mem.heldLines core
  let peers := held.filter (fun x => decide (4 ≤ sps) || decide (x % 64 = line % 64))
  let cap := if 4 ≤ sps then 32 else l1Ways sps
  if line ∈ held ∨ peers.length < cap then s
  else
    let (k, s1) := s.choose peers.length
    match peers[k]? with
    | some v => s1.evictLine core v
    | none => s1

/-- A line of the core, allocated with no byte valid if it is absent (R194). -/
def State.allocLine (s : State) (core line : Nat) : L1Line × State :=
  match s.mem.line core line with
  | some x => (x, s)
  | none =>
    let s1 := s.makeRoom core line
    let x : L1Line := ⟨core, line, 0, 0, 0, 0, 0⟩
    (x, s1.modMem (fun m => m.putLine x))

/-- Before the core touches a range: partials of its words and slot are pushed (R221, R223). -/
def State.settle (s : State) (core pa n : Nat) : State :=
  if s.mem.partials.isEmpty && s.mem.rfPartials.isEmpty then s
  else
    let ps := s.mem.partials.filter (fun p => decide (p.core = core ∧ p.word ∈ wordsOf pa n))
    let rs := s.mem.rfPartials.filter (fun p => decide (p.core = core ∧ p.slot = pa / 64))
    rs.foldl (fun t p => t.pushRf p) (ps.foldl (fun t p => t.pushPartial p) s)

/-- The FP32 pattern that a 4-byte load at the start of a marked slot returns (R223). -/
def rfValue (x : Nat) : Nat :=
  let pinf := decide (bits x 320 32 ≠ 0)
  let ninf := decide (bits x 352 32 ≠ 0)
  if bit1 x 384 || (pinf && ninf) then Fmt.b32.nanCode
  else if pinf then Fmt.b32.infCode
  else if ninf then Fmt.b32.signed true Fmt.b32.infCode
  else
    let a := bits x 0 320
    let neg := bit1 a 319
    Fmt.b32.rne (.fin (neg && decide (a ≠ 0)) (if neg then 2 ^ 320 - a else a) (-149))

/-! ## Ordinary accesses of a core (R194, R204, R223). A range lies within one 64-byte line. -/

/-- Whether a word of a core's L1 is in update-only state (R220). -/
def State.updateOnly (s : State) (core word : Nat) : Bool :=
  s.mem.partials.any (fun p => decide (p.core = core ∧ p.word = word))

/-- Poison that a load of a range would meet, at the level that policy `pol` names, of a marked slot at its home (R223, R315). -/
def State.loadPoison (s : State) (core pol pa n : Nat) : Option Nat :=
  let die := s.dev.dieOf core
  let pol := if pa / 64 ∈ s.mem.marks then 2 else pol
  let below := if s.dev.paKind pa = .hbm then s.mem.peekPoison die pa n else none
  if pol = 0 then
    match s.mem.line core (pa / 64) with
    | some x =>
      let off := pa % 64
      let filled (w : Nat) : Bool := (List.range n).any (fun i => decide ((pa + i) / 8 = w) && !x.valid.getLsbD (off + i))
      (wordsOf pa n).find? (fun w => x.poison.getLsbD (w % 8) ||
        (filled w && decide (s.dev.paKind pa = .hbm) && (s.mem.peekPoison die (8 * w) 8).isSome))
    | none => below
  else if pol = 1 then below
  else if s.dev.paKind pa = .hbm then firstPoison (s.mem.recall (blockOf pa)).poison pa n else none

/-- A merging fill of a line from the die L2 (R194): dirty words are written back, bytes that are not valid are read, but for those
of a word in update-only state (R220). -/
def State.fillLine (s : State) (core line : Nat) : L1Line × State :=
  let (x0, s1) := s.allocLine core line
  let s2 := s1.writeBackLine x0
  let die := s.dev.dieOf core
  let (bs, s3) := s2.levelRead .l2 die (64 * line) 64
  let x := { x0 with dirty := 0 }
  let y := (List.range 64).foldl
    (fun y i => if x.valid.getLsbD i || s3.updateOnly core (8 * line + i / 8) then y else y.setByte i (bs.getD i 0)) x
  let read (w : Nat) : Bool :=
    !s3.updateOnly core (8 * line + w) && (List.range 8).any (fun i => !x.valid.getLsbD (8 * w + i))
  let bad := match s3.mem.sector die (blockOf (64 * line)) with
    | some sec => (List.range 8).foldl
        (fun (p : BitVec 8) w => if read w && decide (8 * line + w ∈ sec.poison) then p ||| BitVec.ofNat 8 (2 ^ w) else p) 0
    | none => 0
  let z := { y with poison := y.poison ||| bad }
  (z, s3.modMem (fun m => m.putLine z))

/-- A load of a range under a policy (R204). -/
def State.load (s : State) (core pol pa n : Nat) : List Byte × State :=
  let s0 := s.settle core pa n
  let die := s.dev.dieOf core
  if decide (pa / 64 ∈ s0.mem.marks) then
    let (bs, s1) := s0.levelRead .home die (64 * (pa / 64)) 64
    if n = 4 ∧ pa % 64 = 0 then (leBytes 4 (rfValue (leNat bs)), s1)
    else ((bs.drop (pa % 64)).take n, s1)
  else if pol = 0 then
    let have' := match s0.mem.line core (pa / 64) with
      | some x => (List.range n).all (fun i => x.valid.getLsbD (pa % 64 + i))
      | none => false
    let (x, s1) := if have' then s0.allocLine core (pa / 64) else s0.fillLine core (pa / 64)
    ((List.range n).map (fun i => x.byte (pa % 64 + i)), s1)
  else s0.levelRead (if pol = 1 then .l2 else .home) die pa n

/-- A store of bytes to a range under a policy (R204). `owner` is the owner that the translation gives (R199); an L1 line keeps the
owner of its last store (log 125). -/
def State.store (s : State) (core pol owner pa : Nat) (bs : List Byte) : State :=
  let s0 := s.settle core pa bs.length
  let die := s.dev.dieOf core
  if decide (pa / 64 ∈ s0.mem.marks) then s0.zeroSlot (pa / 64) owner
  else if pol = 0 then
    let (x, s1) := s0.allocLine core (pa / 64)
    let ps := bytesAt pa bs
    let y := ps.foldl (fun y p => y.setByte (p.1 % 64) p.2) x
    let words := (wordsOf pa bs.length).map (· % 8)
    let full := (fullWords ps).map (· % 8)
    let z : L1Line := { y with
      dirty := words.foldl (fun d w => d ||| BitVec.ofNat 8 (2 ^ w)) y.dirty
      poison := full.foldl (fun p w => p &&& ~~~(BitVec.ofNat 8 (2 ^ w))) y.poison
      owner := owner }
    s1.modMem (fun m => m.putLine z)
  else if pol = 1 then s0.levelWrite .l2 die owner (bytesAt pa bs)
  else if s.dev.paKind pa = .hbm then s0.modMem (fun m => m.homeStore (bytesAt pa bs))
  else s0

/-! ## Scratchpads (R190 to R193, R196) -/

/-- A core's scratchpad. -/
def Mem.sram (m : Mem) (core : Nat) : Sram :=
  match m.srams.find? (fun x => decide (x.core = core)) with
  | some x => x
  | none => ⟨core, [], [], []⟩

/-- Puts a core's scratchpad. -/
def Mem.putSram (m : Mem) (x : Sram) : Mem :=
  { m with srams := x :: m.srams.filter (fun y => decide (y.core ≠ x.core)) }

/-- Holds a block alone at a die L2 (R196): the die fills it if it lacks it, and every other die writes back and drops its copy. -/
def Mem.holdAlone (m : Mem) (die block : Nat) : Mem := (m.fill die block false).2.dropOthers (some die) block

/-- Reads bytes of a scratchpad. -/
def Mem.sramRead (m : Mem) (core off n : Nat) : List Byte := cellsRead (m.sram core).cells off n

/-- Writes bytes of a scratchpad. -/
def Mem.sramWrite (m : Mem) (core : Nat) (ps : List Host.Cell) : Mem :=
  let x := m.sram core
  m.putSram { x with cells := cellsWrite x.cells ps, poison := poisonAfter x.poison ps }

/-- Clears the units [lo, hi) of a scratchpad: words 0, full, not poisoned (R191, R192). -/
def Mem.clearUnits (m : Mem) (core lo hi : Nat) : Mem :=
  let x := m.sram core
  let out (a : Nat) : Bool := !(decide (16384 * lo ≤ a) && decide (a < 16384 * hi))
  m.putSram { x with
    cells := x.cells.filter (fun p => out p.1)
    empties := x.empties.filter (fun w => out (8 * w))
    poison := x.poison.filter (fun w => out (8 * w)) }

/-! ## Stores to checked pieces (R204, R240) -/

/-- Stores bytes to a piece (R204). -/
def State.storePiece (s : State) (core : Nat) (x : Piece) (bs : List Byte) : State :=
  match x.loc with
  | .global pa pol owner => s.store core pol owner pa bs
  | .sram c off => s.modMem (fun m => m.sramWrite c (bytesAt off bs))

/-- The late words of vector stores that meet a condition reach memory, oldest first (R240), and all of them together (log 127). -/
def State.landStores (s : State) (p : LateStore → Bool) : State :=
  if s.late.isEmpty then s
  else (s.late.filter p).foldl (fun t x => t.storePiece x.core x.piece x.bytes)
    { s with late := s.late.filter (fun x => !p x) }

/-- The late words of a slot's thread reach memory. -/
def State.landSlotStores (s : State) (core slot : Nat) : State :=
  s.landStores (fun x => decide (x.core = core ∧ x.slot = slot))

/-- The late words that a core's slots have stored to scratchpads reach memory (R209). -/
def State.landSramStores (s : State) (core : Nat) : State :=
  s.landStores (fun x => decide (x.core = core) && (match x.piece.loc with | .sram _ _ => true | _ => false))

/-! ## Release and acquire (R209, R210) -/

/-- The order of scopes (R203). -/
def scopeRank : Scope → Nat
  | .core => 0 | .quad => 1 | .die => 2 | .dev => 3 | .host => 4 | .fab => 5

/-- A scope is at most another (R203). -/
def scopeLe (a b : Scope) : Bool := decide (scopeRank a ≤ scopeRank b)

/-- What a release writes back and pushes (R209). At host scope the die L2's dirty bytes reach HBM. -/
def State.releaseLines (s : State) (core : Nat) (sc : Scope) : State :=
  if sc = .core then s
  else
    let s1 := (s.mem.l1.filter (fun x => decide (x.core = core))).foldl (fun t x => t.writeBackLine x) s
    let s2 := (s1.mem.partials.filter (fun p => decide (p.core = core) && scopeLe p.scope sc)).foldl
      (fun t p => t.pushPartial p) s1
    let s3 := (s2.mem.rfPartials.filter (fun p => decide (p.core = core) && scopeLe p.scope sc)).foldl
      (fun t p => t.pushRf p) s2
    if sc = .host then
      s3.modMem (fun m =>
        (m.l2.filter (fun x => decide (x.die = s.dev.dieOf core ∧ x.dirty ≠ []))).foldl (fun m x => m.recall x.block) m)
    else s3

/-- Release at a scope by a core (R209). -/
def State.release (s : State) (core : Nat) (sc : Scope) : State := (s.landSramStores core).releaseLines core sc

/-- What an acquire leaves of a line: the valid bits and the poison marks of its dirty words (R210, R315). -/
def L1Line.acquired (x : L1Line) : L1Line :=
  let keep := (List.range 64).foldl
    (fun (v : BitVec 64) i => if x.dirty.getLsbD (i / 8) && x.valid.getLsbD i then v ||| BitVec.ofNat 64 (2 ^ i) else v) 0
  { x with valid := keep, poison := x.poison &&& x.dirty }

/-- Acquire at a scope by a core (R210). -/
def State.acquire (s : State) (core : Nat) (sc : Scope) : State :=
  if sc = .core then s
  else
    let s1 := s.modMem (fun m => { m with
      l1 := (m.l1.map (fun x => if x.core = core then x.acquired else x)).filter
        (fun x => !(decide (x.core = core) && decide (x.valid = 0))) })
    if sc = .host then
      s1.modMem (fun m =>
        (m.l2.filter (fun x => decide (x.die = s.dev.dieOf core) && x.stale)).foldl
          (fun m x =>
            let m1 := m.writeBackSector x
            { m1 with l2 := m1.l2.filter (fun y => decide (¬(y.die = x.die ∧ y.block = x.block))) }) m)
    else s1

end Sys2Proof.Machine
end

