-- ==== Sys2Proof/Machine/Translate.lean ====
section
/-! DEFINITION. Translate: generic pointers, the checks of an access, page walks and the TLB, private segments,
scratchpad ownership, the fabric window, and data matches (R20, R185 to R192, R199, R200, R353, R354). -/

namespace Sys2Proof.Machine
open Sys2Proof

/-- The access kinds that PAGE_FAULT and PROTECTION report (R186). -/
inductive AccKind where
  | read | write | fetch | rmw
deriving DecidableEq, Repr

/-- The code of an access kind (R186). -/
def AccKind.code : AccKind → Nat
  | .read => 0 | .write => 1 | .fetch => 2 | .rmw => 3

/-- The failed check of an access: its place in the order of R29, and the trap. -/
structure Fail where
  rank : Nat
  trap : Trap
deriving DecidableEq, Repr

/-- Of two failures the one that R29 reports: the lower rank, and the first of two alike. -/
def Fail.worse (a b : Fail) : Fail := if b.rank < a.rank then b else a

/-! ## Device registers that translation reads (R352, R353, R385) -/

/-- A 64-bit device register, or a 16-bit ROUTE entry, by offset; the values of R385 and log 2 where none was written. -/
def Device.reg (d : Device) (off : Nat) : Nat :=
  (getK (if off = 0x10 then 4095 else if off = 0x68 then 8
    else if decide (0x2000 ≤ off) && decide (off < 0x3FFE) then 15 else 0 : Word) off d.regs).toNat

/-- The route to a fabric number: a port whose link is not marked down, or none (R352); none in minimal mode (R379). -/
def Device.route (d : Device) (num : Nat) : Option Nat :=
  let r := d.reg (0x2000 + 2 * num)
  let port := bits r 0 4
  if 4095 ≤ num ∨ 12 ≤ port ∨ port ∈ d.linksDown ∨ d.minimal then none else some port

/-- Whether a fabric-window address names a usable aperture (R353). -/
def Device.apertureOk (d : Device) (pa : Nat) : Bool :=
  let e := d.reg (0x200 + 8 * bits pa 40 5)
  bit1 e 0 && (d.route (bits e 1 12)).isSome && decide (bits e 1 12 ≠ d.reg 0x10)

/-! ## Walks (R199) -/

/-- How a walk ends. -/
inductive Walk where
  | leaf (entry level : Nat)
  | pageFault
  | protection
deriving DecidableEq, Repr

/-- A page-table entry, read as a die-L2 read (R200); tables in memory that another party keeps read as free values. A table pointer
to a reserved or a device-register address has none: the walk ends with PROTECTION (R197, log 107). -/
def State.ptEntry (s : State) (die pa : Nat) : Option Nat :=
  match s.dev.paKind pa with
  | .hbm => some (leNat (s.mem.peek die pa 8))
  | .reserved | .regs => none
  | .fabric | .host | .root => some (leNat ((List.range 8).map (fun i => Config.externalByte s.freeCtr (pa + i))))

/-- The levels of a walk: number, lowest index bit, index bits (R199). -/
def walkLevels : List (Nat × Nat × Nat) := [(0, 48, 9), (1, 39, 9), (2, 30, 9), (3, 21, 9), (4, 16, 5)]

/-- A walk from a table at physical address `base` (R199). -/
def State.walkFrom (s : State) (die va : Nat) : List (Nat × Nat × Nat) → Nat → Walk
  | [], _ => .pageFault
  | (lv, sh, nb) :: rest, base =>
    match s.ptEntry die (base + 8 * bits va sh nb) with
    | none => .protection
    | some e =>
      let leaf := bit1 e 1
      if !bit1 e 0 then .pageFault
      else if bits e 61 3 ≠ 0 ∨ bits e 6 2 = 3 then .pageFault
      else if leaf && decide (lv < 2) then .pageFault
      else if !leaf && decide (lv = 4) then .pageFault
      else if leaf then
        if bits e 8 (sh - 8) ≠ 0 then .pageFault else .leaf e lv
      else s.walkFrom die va rest (bits e 8 40 * 256)

/-- The lowest address bit above a page of a leaf's level. -/
def pageShift (level : Nat) : Nat := if level = 2 then 30 else if level = 3 then 21 else 16

/-- The walk of a context's address. -/
def State.walk (s : State) (die ctx va : Nat) : Walk :=
  match s.ctxOf ctx with
  | none => .pageFault
  | some x => s.walkFrom die va walkLevels (x.root * 4096)

/-- The TLBs that serve an access: those of the core, its quad and its die; for an engine, its die's (R200). -/
def tlbsFor (die : Nat) (core : Option Nat) : List TlbAt :=
  match core with
  | some c => [.core c, .quad (c / 4), .die die]
  | none => [.die die]

/-- The entries of a TLB (R200). -/
def TlbAt.size : TlbAt → Nat
  | .core _ => 32 | .quad _ => 256 | .die _ => 16384

/-- A TLB holds an entry, in place of one for the same page; the oldest leaves a full one (R200). -/
def Mem.hold (m : Mem) (e : TlbEntry) : Mem :=
  let mine := m.tlb.filter (fun x => decide (x.at_ = e.at_ ∧ ¬(x.ctx = e.ctx ∧ x.page = e.page)))
  { m with tlb := e :: mine.take (e.at_.size - 1) ++ m.tlb.filter (fun x => decide (x.at_ ≠ e.at_)) }

/-- The translations that these TLBs hold of a page. -/
def Mem.held (m : Mem) (ats : List TlbAt) (ctx page : Nat) : List (Nat × Nat) :=
  (m.tlb.filter (fun e => decide (e.at_ ∈ ats ∧ e.ctx = ctx ∧ e.page = page))).map (fun e => (e.leaf.toNat, e.level))

/-- The translation that an access uses: the walk's, or one that a TLB on its way still holds, whichever (R200). The TLBs
then hold it. -/
def State.lookup (s : State) (die : Nat) (core : Option Nat) (ctx va : Nat) : Walk × State :=
  let ats := tlbsFor die core
  let w := s.walk die ctx va
  let olds := ((s.mem.held ats ctx (va / 65536)).map (fun p => Walk.leaf p.1 p.2)).eraseDups.filter (fun x => decide (x ≠ w))
  let (k, s1) := s.choose (olds.length + 1)
  let r := if k = 0 then w else olds.getD (k - 1) w
  match r with
  | .leaf x lv => (r, s1.modMem (fun m => ats.foldl (fun m a => m.hold ⟨a, ctx, va / 65536, BitVec.ofNat 64 x, lv⟩) m))
  | _ => (r, s1)

/-- The failures of translation at an address (R186, R199). -/
def pageFault (addr : Nat) (k : AccKind) : Fail := ⟨5, mkTrap .pageFault addr k.code 0⟩

/-- PROTECTION for rights, bounds or ownership (R186, R199). -/
def protection (addr : Nat) (k : AccKind) : Fail := ⟨6, mkTrap .protection addr k.code 0⟩

/-- Whether a leaf's rights refuse an access (R199). -/
def leafRefuses (e : Nat) (user : Bool) (k : AccKind) (prv : Bool) : Bool :=
  (user && !bit1 e 4) || (decide (k = .write ∨ k = .rmw) && !bit1 e 2) || (decide (k = .fetch) && !bit1 e 3) ||
    (bit1 e 5 != prv)

/-- Translates a virtual address of a context (R199, R200, R197, R353, R354): physical address, policy, owner. `addr` is
the pointer that a failure reports. -/
def State.translate (s : State) (die : Nat) (core : Option Nat) (ctx : Nat) (user : Bool) (k : AccKind) (prv : Bool) (va addr : Nat) :
    Except Fail (Nat × Nat × Nat) × State :=
  match s.lookup die core ctx va with
  | (.pageFault, s1) => (.error (pageFault addr k), s1)
  | (.protection, s1) => (.error (protection addr k), s1)
  | (.leaf e lv, s1) =>
    let pa := bits e 8 40 * 256 + va % 2 ^ pageShift lv
    let pol := bits e 6 2
    let owner := if bit1 e 60 then bits e 48 12 else ctx
    if leafRefuses e user k prv then (.error (protection addr k), s1)
    else
      match s.dev.paKind pa with
      | .reserved | .regs => (.error (protection addr k), s1)
      | .fabric =>
        if s.dev.apertureOk pa && decide (pol = 2) && !prv then (.ok (pa, pol, owner), s1)
        else (.error (protection addr k), s1)
      | .hbm | .host | .root => (.ok (pa, pol, owner), s1)

/-! ## Pointers (R185, R186) -/

/-- The window tag of a pointer. -/
def ptrTag (p : Nat) : Nat := bits p 61 3

/-- Whether a bit that must be 0 is 1 (R185). -/
def ptrMbz (p : Nat) : Bool :=
  match ptrTag p with
  | 0 => decide (bits p 57 4 ≠ 0)
  | 1 => decide (bits p 40 21 ≠ 0)
  | 2 => bit1 p 60 || decide (bits p 16 26 ≠ 0)
  | 3 => bit1 p 60 || decide (bits p 18 26 ≠ 0)
  | _ => false

/-- The logical core that a scratchpad or quad-shared pointer names (R185). -/
def ptrCore (p : Nat) : Nat := if ptrTag p = 2 then bits p 42 18 else 4 * bits p 44 16 + bits p 16 2

/-- The offset of a scratchpad or quad-shared pointer. -/
def ptrOff (p : Nat) : Nat := bits p 0 16

/-- The window checks: SPACE_RESERVED, must-be-0 fields, SPACE_FOREIGN (R186). -/
def windowFail (core : Nat) (k : AccKind) (p : Nat) : Option Fail :=
  if 4 ≤ ptrTag p then some ⟨1, mkTrap .spaceReserved p 0 0⟩
  else if ptrMbz p then some ⟨2, mkTrap .protection p k.code 0⟩
  else if ptrTag p = 2 ∧ ptrCore p ≠ core then some ⟨3, mkTrap .spaceForeign p (ptrCore p) core⟩
  else if ptrTag p = 3 ∧ bits p 44 16 ≠ core / 4 then some ⟨3, mkTrap .spaceForeign p (ptrCore p) core⟩
  else none

/-- ALIGN for an access of `al` bytes (R186). -/
def alignFail (p al : Nat) : Option Fail :=
  if 1 < al ∧ p % al ≠ 0 then some ⟨4, mkTrap .align p 0 0⟩ else none

/-- The first of two checks that fails. -/
def Option.orFail (a b : Option Fail) : Option Fail := match a with | some f => some f | none => b

/-- Splits a run of bytes at 64-byte lines: offset from the start, address and length of each part. -/
def splitLines : Nat → Nat → Nat → Nat → List (Nat × Nat × Nat)
  | 0, _, _, _ => []
  | fuel + 1, done, a, n =>
    if n = 0 then []
    else
      let k := min n (64 - a % 64)
      (done, a, k) :: splitLines fuel (done + k) (a + k) (n - k)

/-- Translates the parts of a run one after the other; the first that fails is reported at its first byte, also where the element
bytes of VLDX or VSTX run into a page that fails (log 111). -/
def State.mapRun (s : State) (die : Nat) (core : Option Nat) (ctx : Nat) (user : Bool) (k : AccKind) (prv : Bool) (p : Nat) :
    List (Nat × Nat × Nat) → Except Fail (List Piece) × State
  | [] => (.ok [], s)
  | (off, va, n) :: rest =>
    if 2 ^ 57 ≤ va then (.error ⟨2, mkTrap .protection (p + off) k.code 0⟩, s)
    else
      match s.translate die core ctx user k prv va (p + off) with
      | (.error f, s1) => (.error f, s1)
      | (.ok (pa, pol, owner), s1) =>
        match s1.mapRun die core ctx user k prv p rest with
        | (.error f, s2) => (.error f, s2)
        | (.ok ps, s2) => (.ok (⟨p + off, .global pa pol owner, n⟩ :: ps), s2)

/-- The private segment of a record: base and log2 of its size (R189). -/
def State.privateSeg (s : State) (ctx k : Nat) : Nat × Nat :=
  match s.ctxOf ctx with
  | some x => (x.prvbase * 65536 + k * 2 ^ x.prvsz, x.prvsz)
  | none => (0, 0)

/-- Whether a data match is raised for a pointer (R20). -/
def Thread.dataMatch (t : Thread) (p : Nat) (k : AccKind) : Bool :=
  t.dbgctl.den && !t.privl.tact && !t.stepover &&
    (match t.dbgctl.dkind.toNat, k with
      | 0, .read | 0, .rmw => true
      | 1, .write | 1, .rmw => true
      | 2, .read | 2, .write | 2, .rmw => true
      | _, _ => false) &&
    decide ((BitVec.ofNat 64 p ^^^ t.dbga) &&& t.dbgm = 0)

/-- The data-match BREAKPOINT of a pointer (R20). -/
def Thread.matchFail (t : Thread) (p : Nat) (k : AccKind) : Option Fail :=
  if t.dataMatch p k then some ⟨7, mkTrap .breakpoint p 2 k.code⟩ else none

/-- Checks an access of a thread on a core to `n` bytes at a pointer, aligned to `al`, and finds where its bytes lie
(R186, R20). -/
def State.access (s : State) (t : Thread) (core : Nat) (k : AccKind) (p n al : Nat) :
    Except Fail (List Piece) × State :=
  match Option.orFail (windowFail core k p) (alignFail p al) with
  | some f => (.error f, s)
  | none =>
    let die := s.dev.dieOf core
    let fuel := n / 64 + 2
    let (r, s1) : Except Fail (List Piece) × State :=
      match ptrTag p with
      | 0 => s.mapRun die (some core) t.ctx (!t.privl.priv) k false p (splitLines fuel 0 (bits p 0 57) n)
      | 1 =>
        let (base, sz) := s.privateSeg t.ctx t.recIx
        if 2 ^ sz < bits p 0 40 + n then (.error (protection p k), s)
        else s.mapRun die (some core) t.ctx (!t.privl.priv) k true p (splitLines fuel 0 (base + bits p 0 40) n)
      | _ =>
        let c := s.core (ptrCore p)
        if 16384 * c.sps < ptrOff p + n ∨ c.own ≠ t.ctx then (.error (protection p k), s)
        else (.ok [⟨p, .sram (ptrCore p) (ptrOff p), n⟩], s)
    match r with
    | .error f => (.error f, s1)
    | .ok ps =>
      match t.matchFail p k with
      | some f => (.error f, s1)
      | none => (.ok ps, s1)

/-! ## Moving bytes of checked pieces -/

/-- The first poisoned word that a read of a piece meets, as the pointer of its first byte in the window used, and its
physical address or offset (R315). -/
def State.piecePoison (s : State) (core : Nat) (x : Piece) : Option (Nat × Nat) :=
  match x.loc with
  | .global pa pol _ =>
    (s.loadPoison core pol pa x.n).map (fun w => (x.addr / 8 * 8 + (8 * w - pa / 8 * 8), 8 * w))
  | .sram c off =>
    (firstPoison (s.mem.sram c).poison off x.n).map (fun w =>
      let p := x.addr / 8 * 8 + (8 * w - off / 8 * 8)
      (p, p))

/-- The first poisoned word of several pieces. -/
def State.piecesPoison (s : State) (core : Nat) : List Piece → Option (Nat × Nat)
  | [] => none
  | x :: r => match s.piecePoison core x with
    | some w => some w
    | none => s.piecesPoison core r

/-- Loads a piece (R204). -/
def State.loadPiece (s : State) (core : Nat) (x : Piece) : List Byte × State :=
  match x.loc with
  | .global pa pol _ => s.load core pol pa x.n
  | .sram c off => (s.mem.sramRead c off x.n, s)

/-- Loads the bytes of several pieces in order. -/
def State.loadPieces (s : State) (core : Nat) : List Piece → List Byte × State
  | [] => ([], s)
  | x :: r =>
    let (b, s1) := s.loadPiece core x
    let (bs, s2) := s1.loadPieces core r
    (b ++ bs, s2)

/-- Stores bytes to several pieces in order. -/
def State.storePieces (s : State) (core : Nat) : List Piece → List Byte → State
  | [], _ => s
  | x :: r, bs => (s.storePiece core x (bs.take x.n)).storePieces core r (bs.drop x.n)

/-- A piece with its bytes cut at the words of 8 bytes (R240). -/
def Piece.words (x : Piece) (bs : List Byte) : Nat → List (Piece × List Byte)
  | 0 => []
  | fuel + 1 =>
    let k := 8 - x.addr % 8
    if x.n ≤ k then [(x, bs.take x.n)]
    else
      let loc := match x.loc with
        | .global pa pol owner => Loc.global (pa + k) pol owner
        | .sram c off => Loc.sram c (off + k)
      (⟨x.addr, x.loc, k⟩, bs.take k) :: Piece.words ⟨x.addr + k, loc, x.n - k⟩ (bs.drop k) fuel

/-- The words that a vector store touches, each with its bytes, in order (R240). -/
def wordStores : List Piece → List Byte → List (Piece × List Byte)
  | [], _ => []
  | x :: r, bs => x.words bs (x.n / 8 + 2) ++ wordStores r (bs.drop x.n)

/-- The word of memory that a piece lies in. -/
def Piece.word (x : Piece) : WordLoc :=
  match x.loc with
  | .global pa _ _ => .global (pa / 8)
  | .sram c off => .sram c (off / 8)

/-- The stores of a vector store that come late: those that `keep` names by their place, and every other one to the same word, so
that each word receives its bytes in order (R240, R244). -/
def lateWords (keep : List Nat) (ws : List (Piece × List Byte)) : List (Piece × List Byte) × List (Piece × List Byte) :=
  let kept := keep.filterMap (fun k => (ws[k]?).map (fun w => w.1.word))
  ws.partition (fun w => decide (w.1.word ∈ kept))

/-- A vector store: one access for each word, in any order; the words that `keep` names come late (R217, R240, log 3). -/
def State.storeWords (s : State) (core : Nat) (ps : List Piece) (bs : List Byte) : State :=
  if s.keep.isEmpty then s.storePieces core ps bs
  else
    let (later, now) := lateWords s.keep (wordStores ps bs)
    let s1 := now.foldl (fun t w => t.storePiece core w.1 w.2) s
    { s1 with late := s1.late ++ later.map (fun w => ⟨core, s.cur.2, w.1, w.2⟩) }

/-! ## Engines (R187) -/

/-- A global address translated for an engine of a die that acts for a context (R187); only global pointers. -/
def State.engineVa (s : State) (die ctx : Nat) (user : Bool) (k : AccKind) (p n : Nat) :
    Except Fail (List Piece) × State :=
  s.mapRun die none ctx user k false p (splitLines (n / 64 + 2) 0 (bits p 0 57) n)

/-- An engine's access to any pointer of a context (R187): a private pointer is refused, no core is foreign. A failure names
the first byte that fails. -/
def State.engineAccess (s : State) (die ctx : Nat) (user : Bool) (k : AccKind) (p n : Nat) :
    Except Fail (List Piece) × State :=
  if 4 ≤ ptrTag p then (.error ⟨1, mkTrap .spaceReserved p 0 0⟩, s)
  else if ptrMbz p || decide (ptrTag p = 1) then (.error ⟨2, mkTrap .protection p k.code 0⟩, s)
  else if ptrTag p = 0 then s.engineVa die ctx user k p n
  else
    let c := s.core (ptrCore p)
    if c.own ≠ ctx then (.error (protection p k), s)
    else if 16384 * c.sps < ptrOff p + n then (.error (protection (p + (16384 * c.sps - ptrOff p)) k), s)
    else (.ok [⟨p, .sram (ptrCore p) (ptrOff p), n⟩], s)

/-- The bytes of an engine's pieces at the coherent level: the home of the block, or the scratchpad (R187, R264). -/
def State.homePieces (s : State) : List Piece → List Byte × State
  | [] => ([], s)
  | x :: r =>
    let (b, s1) := match x.loc with
      | .global pa _ _ => s.levelRead .home 0 pa x.n
      | .sram c off => (s.mem.sramRead c off x.n, s)
    let (bs, s2) := s1.homePieces r
    (b ++ bs, s2)

/-- The first poisoned word that an engine's read of pieces at the coherent level meets: its physical address, or a pointer
to it in a scratchpad (log 74). -/
def State.homePoison (s : State) (ps : List Piece) : Option Nat :=
  ps.findSome? (fun x => match x.loc with
    | .global pa _ _ =>
      if s.dev.paKind pa = .hbm then (firstPoison (s.mem.recall (blockOf pa)).poison pa x.n).map (8 * ·) else none
    | .sram c off => (firstPoison (s.mem.sram c).poison off x.n).map (fun w => x.addr / 8 * 8 + (8 * w - off / 8 * 8)))

/-- Writes an engine's pieces at the home, or the scratchpad. A store that reaches a marked slot clears it (R223). -/
def State.homeStorePieces (s : State) : List Piece → List Byte → State
  | [], _ => s
  | x :: r, bs =>
    let s1 := match x.loc with
      | .global pa _ owner => s.levelStore .home 0 owner pa (bs.take x.n)
      | .sram c off => s.modMem (fun m => m.sramWrite c (bytesAt off (bs.take x.n)))
    s1.homeStorePieces r (bs.drop x.n)

end Sys2Proof.Machine
end

