-- ==== Sys2Proof/Machine/Ops.lean ====
section
/-! DEFINITION. Ops: the named operations that every meaning uses: error records, reading and writing names, completing
long-latency instructions, moving past an instruction, parking, taking a trap and returning from one. -/

namespace Sys2Proof.Machine
open Sys2Proof

/-! ## The error ring (R318 to R322) -/

/-- The master identity of a thread slot (R322). -/
def slotMaster (core slot : Nat) : Nat := core * 256 + slot * 16

/-- A record for the error ring (R320). -/
structure ErrRec where
  kind : Nat
  code : Nat := 0
  ctx : Nat := 0
  ctx2 : Nat := 0
  addr : Nat := 0
  master : Nat := 0
  x0 : Nat := 0
  x1 : Nat := 0
  pc : Nat := 0
deriving DecidableEq, Repr

/-- The engine offers a record to the ring (R319). -/
def State.errRecord (s : State) (r : ErrRec) : State :=
  let d := s.dev
  let drop := min (d.errDrop + 1) (2 ^ 32 - 1)
  if !d.errEn then s.modDev (fun d => { d with errDrop := drop })
  else if d.errOvf || decide (2 ^ d.errLogn ≤ (d.errTail - d.errHead).toNat) then
    s.modDev (fun d => { d with errOvf := true, errDrop := drop })
  else
    let w0 := r.kind % 256 + r.code % 256 * 256 + r.ctx % 4096 * 2 ^ 16 + r.ctx2 % 4096 * 2 ^ 28
    let ws := [w0, d.timebase.toNat, r.addr, r.master, r.x0, r.x1, r.pc, d.errTail.toNat]
    let pa := d.errBase.toNat * 4096 + 64 * (d.errTail.toNat % 2 ^ d.errLogn)
    let s1 := s.levelWrite .home 0 0 (bytesAt pa (ws.flatMap (fun w => leBytes 8 w)))
    s1.modDev (fun d => { d with errTail := d.errTail + 1 })

/-! ## Links (R157 to R162) -/

/-- The runnel that arrives over a logical link of a core, if its direction has a neighbour. -/
def State.linkIn (s : State) (c : Nat) (l : Fin 4) : Option (Nat × Nat) :=
  let d := (s.core c).linkDir l
  (s.dev.neighbour c d).map (fun m => (s.dev.physCore m, oppositeDir d))

/-- The runnel that leaves over a logical link of a core, if its direction has a neighbour. -/
def State.linkOut (s : State) (c : Nat) (l : Fin 4) : Option (Nat × Nat) :=
  let d := (s.core c).linkDir l
  (s.dev.neighbour c d).map (fun _ => (s.dev.physCore c, d))

/-- Discards entries of other contexts at the head of a runnel, each with a record: its direction is that of the popping
link, and the popping context is charged (R162, R321, log 83). One that is reserved and not yet filled stands until it is filled
(log 123). -/
def State.discardForeign (s : State) (core ctx src dir : Nat) : Nat → State
  | 0 => s
  | fuel + 1 =>
    match s.runnel src dir with
    | e :: rest =>
      if e.ctx = ctx ∨ e.waits.isSome then s
      else
        ((s.setRunnel src dir rest).errRecord
          { kind := 0x0B, ctx := ctx, master := slotMaster core s.cur.2, x0 := core,
            x1 := oppositeDir dir + e.ctx % 4096 * 2 ^ 32 }).discardForeign core ctx src dir fuel
    | [] => s

/-- Whether the head of a runnel can be popped by a thread of a context (R160, R162). -/
def State.headReady (s : State) (ctx src dir : Nat) : Bool :=
  match s.runnel src dir with
  | e :: _ => decide (e.ctx = ctx) && e.waits.isNone
  | [] => false

/-- Appends an entry to a runnel. -/
def State.putEntry (s : State) (src dir : Nat) (e : RunEntry) : State := s.setRunnel src dir (s.runnel src dir ++ [e])

/-- Fills a reserved entry (R160, R169). -/
def State.fillEntry (s : State) (src dir id : Nat) (w : Word) : State :=
  s.setRunnel src dir ((s.runnel src dir).map (fun e => if e.waits = some id then { e with word := w, waits := none } else e))

/-- Gives a reserved entry up. -/
def State.dropEntry (s : State) (src dir id : Nat) : State :=
  s.setRunnel src dir ((s.runnel src dir).filter (fun e => decide (e.waits ≠ some id)))

/-- Gives up every entry that a parked instruction has reserved. -/
def State.dropPushes (s : State) (t : Thread) : State := t.pushes.foldl (fun s p => s.dropEntry p.src p.dir p.id) s

/-- Pops the heads of runnels. -/
def State.popRunnels (s : State) (ps : List (Nat × Nat)) : State :=
  ps.foldl (fun s p => s.setRunnel p.1 p.2 (s.runnel p.1 p.2).tail) s

/-- The runnels that reading names pops (R160). -/
def State.popsOf (s : State) (core : Nat) (t : Thread) (ns : List Name) : List (Nat × Nat) :=
  ns.filterMap (fun n => match (t.name n).bind with
    | .link l => s.linkIn core l
    | _ => none)

/-! ## Reading names (R34, R160, R254) -/

/-- The iteration of its repeat at which a thread stands. -/
def Thread.iter (t : Thread) : Nat := match t.rep with | some r => r.iter | none => 0

/-- Whether the steps that are kept are those of the instruction at which a thread stands (R120, R288, log 11). -/
def StepShadow.here (x : StepShadow) (t : Thread) : Bool := decide (x.tact = t.privl.tact ∧ x.pc = t.pc ∧ x.iter = t.iter)

/-- What the steps of the instruction in hand have left for a bound name. -/
def Thread.stepVal (t : Thread) (n : Name) : Option Word :=
  (t.shadows.find? (fun x => x.here t)).bind (fun x => (x.vals.find? (fun p => decide (p.1 = n))).map Prod.snd)

/-- What the steps of the instruction in hand leave for bound names. -/
def Thread.setSteps (t : Thread) (vs : List (Name × Word)) : Thread :=
  { t with shadows := (if vs.isEmpty then [] else [⟨t.privl.tact, t.pc, t.iter, vs⟩]) ++ t.shadows.filter (fun x => !x.here t) }

/-- The pattern of a name of the running thread: its bits, or for a name bound to a link the low bits of the entry at
the head of the arriving runnel (R160), or what the steps of the instruction in hand have made of it; for a name bound to a flume
the element that it holds (R254). -/
def State.pat (s : State) (n : Name) : Word :=
  match (s.thr.name n).bind with
  | .link l =>
    match s.thr.stepVal n with
    | some w => w
    | none =>
      match s.linkIn s.cur.1 l with
      | some (src, dir) =>
        match s.runnel src dir with
        | e :: _ => BitVec.ofNat 64 (e.word.toNat % 2 ^ (s.thr.name n).width)
        | [] => 0
      | none => 0
  | .flume _ (some e) => e
  | _ => (s.thr.name n).pat

/-- The integer that an instruction reads from a name (R34). -/
def State.val (s : State) (n : Name) : Int := patVal (s.thr.name n).kind (s.thr.name n).width (s.pat n).toNat

/-- ext64(val(n)) as a number below 2^64 (R101). -/
def State.ext (s : State) (n : Name) : Nat := lowBits 64 (s.val n)

/-- The pattern of a name as a number: its unsigned reading. -/
def State.upat (s : State) (n : Name) : Nat := (s.pat n).toNat

/-! ## Writing results -/

/-- No result. -/
def Pending.none : Pending := ⟨[], [], FlagWrite.none, []⟩

/-- ext64 of a stored pattern: what a write to a bound name pushes (R160). -/
def NameCell.ext (c : NameCell) (p : Word) : Word := toWord (patVal c.kind c.width p.toNat)

/-- Writes a pattern to a name of the running thread: a push for a name bound to a link (R160). -/
def State.writeName (s : State) (n : Name) (p : Word) : State :=
  match (s.thr.name n).bind with
  | .link l =>
    match s.linkOut s.cur.1 l with
    | some (src, dir) => s.putEntry src dir ⟨s.thr.ctx, (s.thr.name n).ext p, none⟩
    | none => s
  | _ => s.modThr (fun t => t.setPat n p)

/-- Consumes the held elements of bound names, whose row bits are as they were bound (R254). -/
def Thread.clearHeld (t : Thread) (ns : List Name) : Thread :=
  ns.foldl (fun t n =>
    match (t.name n).bind with
    | .flume h _ => t.setName n { t.name n with bind := .flume h none }
    | _ => t) t

/-- What reading names leaves behind when the instruction completes: entries popped, held elements consumed, each name
once (R160, R254). -/
def State.consume (s : State) (ns : List Name) : State :=
  (s.popRunnels (s.popsOf s.cur.1 s.thr ns.eraseDups)).modThr (fun t => t.clearHeld ns)

/-- A pattern put into a name that is bound to no link. -/
def Thread.setFreePat (t : Thread) (n : Name) (p : Word) : Thread :=
  match (t.name n).bind with
  | .link _ => t
  | _ => t.setPat n p

/-- Writes a result: names, vector registers, flags. -/
def State.apply (s : State) (r : Pending) : State :=
  let s1 := r.names.foldl (fun s p => s.writeName p.1 p.2) s
  let s2 := r.vregs.foldl (fun s p => s.modThr (fun t => t.setVreg p.1 p.2)) s1
  s2.modThr (fun t => t.putFlags r.flags)

/-! ## Long-latency instructions (R17 to R21) -/

/-- The result of an open window written into a thread; its write of Z, N, C and V ends the claim of every older window on
them (R17). A name that LINK has bound since the window opened is written in the row file all the same (log 79). -/
def Thread.land (t : Thread) (e : InFlight) : Thread :=
  let t1 := e.result.names.foldl (fun t p => t.setPat p.1 p.2) t
  let t2 := e.result.vregs.foldl (fun t p => t.setVreg p.1 p.2) t1
  let f := e.result.flags
  { t2 with
    flags := if e.flagsLive then t2.flags.put { f with sf := f.sf && e.sfLive } else t2.flags.putSf (f.sf && e.sfLive)
    inflight := if e.flagsLive && f.any then
        t2.inflight.map (fun x => if x.id < e.id then { x with flagsLive := false } else x)
      else t2.inflight }

/-- The reserved pushes of an open window, filled (R160). -/
def State.landPushes (s : State) (e : InFlight) : State :=
  e.result.pushes.foldl (fun s p => s.fillEntry p.1 p.2.1 e.id p.2.2) s

/-- Completes an open window of a thread. -/
def State.landOne (s : State) (t : Thread) (e : InFlight) : State × Thread :=
  (s.landPushes e, { t.land e with inflight := (t.land e).inflight.filter (fun x => decide (x.id ≠ e.id)) })

/-- Whether an open window awaits an answer from elsewhere. -/
def InFlight.awaiting (e : InFlight) : Bool := decide (e.awaits ≠ .nothing)

/-- Whether every open window of the thread can complete. -/
def Thread.quiet (t : Thread) : Bool := t.inflight.all (fun e => !e.awaiting)

/-- Completes every open window of a thread that awaits no answer, oldest first. -/
def State.landAll (s : State) (t : Thread) : State × Thread :=
  (t.inflight.filter (fun e => !e.awaiting)).foldl (fun p e => p.1.landOne p.2 e) (s, t)

/-- Completes the running thread's open windows. -/
def State.settleWindows (s : State) : State :=
  if s.thr.inflight.isEmpty then s
  else
    let (s1, t) := s.landAll s.thr
    { s1 with thr := t }

/-! ## Moving past an instruction -/

/-- The pattern that REP leaves in rp after an iteration: the index advances and the count falls, or 0 at the end
(R22). -/
def rpAfter (iter : Nat) (rp : Nat) : Nat :=
  let rem := (bits rp 0 7 + 127) % 128
  if rem = 0 then 0 else rem + 128 * ((iter + 1) % 128)

/-- Writes rp directly (R22). -/
def Thread.setRp (t : Thread) (v : Nat) : Thread := t.setPat 61 (BitVec.ofNat 64 v)

/-- An instruction that STEPOV covers uses it up (R20). -/
def Thread.stepUsed (t : Thread) : Thread :=
  if t.stepover then { t with stepover := false, dbgctl := { t.dbgctl with stepov := false } } else t

/-- An instruction ends: it uses up STEPOV, and nothing is kept of its steps (R20, log 11). The steps of the code that a
handler interrupted stay. -/
def Thread.stepDone (t : Thread) : Thread :=
  { t.stepUsed with pushing := [], shadows := if t.privl.tact then t.shadows.filter (fun x => !x.tact) else [], exp := none }

/-- Moves past the instruction that has completed: the PC advances, or the repeat goes on (R13, R22). -/
def Thread.retire (t : Thread) : Thread :=
  let t1 := t.stepDone
  match t1.rep with
  | none => { t1 with pc := t1.pc + BitVec.ofNat 64 t1.ir.len }
  | some r =>
    let v := rpAfter r.iter (t1.name 61).pat.toNat
    let t2 := t1.setRp v
    if v = 0 then { t2 with rep := none, pc := t2.pc + BitVec.ofNat 64 (2 + r.ilen) }
    else { t2 with rep := some { r with iter := (r.iter + 1) % 128 } }

/-- Completes an instruction that transfers control (R13). -/
def Thread.jumpTo (t : Thread) (pc : Word) : Thread := { t.stepDone with pc := pc }

/-- An instruction that issued and has not completed: it counts in the open windows only once (R17). -/
def Thread.unissue (t : Thread) : Thread :=
  { t with inflight := t.inflight.map (fun e => { e with left := e.left + 1 }), stepover := false }

/-- The running thread's instruction goes on in a later turn. -/
def State.again (s : State) : Out := .next (s.modThr Thread.unissue)

/-- Completes the running thread's instruction, which transferred no control. -/
def State.retire (s : State) : State := s.modThr Thread.retire

/-- The same as an outcome. -/
def State.done (s : State) : Out := .next s.retire

/-- Completes an instruction with its reads consumed and its result written. -/
def State.finish (s : State) (reads : List Name) (r : Pending) : Out := ((s.consume reads).apply r).done

/-- Splits the names of a result into those in the row file and the pushes that a bound name reserves (R160). -/
def State.splitPushes (s : State) : List (Name × Word) → List (Name × Word) × List (Nat × Nat × Word)
  | [] => ([], [])
  | (n, p) :: r =>
    let (ns, ps) := s.splitPushes r
    match (s.thr.name n).bind with
    | .link l =>
      match s.linkOut s.cur.1 l with
      | some (src, dir) => (ns, (src, dir, (s.thr.name n).ext p) :: ps)
      | none => (ns, ps)
    | _ => ((n, p) :: ns, ps)

/-- Opens a window for a long-latency instruction that has issued, its push entries reserved (R17, R160). -/
def State.openWindow (s : State) (look : Nat) (r : Pending) (aw : Await) : State :=
  let (id, s1) := s.fresh
  let (ns, ps) := s1.splitPushes r.names
  let e : InFlight := ⟨id, s1.thr.pc, look, s1.thr.dbgctl.lkchk, ⟨ns, r.vregs, r.flags, ps⟩, true, true, aw⟩
  (ps.foldl (fun s p => s.putEntry p.1 p.2.1 ⟨s.thr.ctx, 0, some id⟩) s1).modThr
    (fun t => { t with inflight := t.inflight ++ [e] })

/-- Completes the issue of a long-latency instruction: at once with look 0, else with its window open (R17). -/
def State.finishLong (s : State) (look : Nat) (reads : List Name) (r : Pending) : Out :=
  if look = 0 then s.finish reads r else ((s.consume reads).openWindow look r .nothing).done

/-! ## Taking a trap (R25 to R27) -/

/-- What the record of a trap of this thread reports beside its cause (R27, R316, R333). A fetch fault has fetched no word:
ENC is 0 (log 80). -/
def Thread.held (t : Thread) (x : Trap) : HeldTrap :=
  match t.rep with
  | some r =>
    if x.fetch then ⟨x, t.pc, 0, 0, none, 0, none⟩
    else ⟨x, t.pc, r.inner, if r.ilen = 2 then 3 else 4, some r, r.iter, t.exp.map (fun e => e.step)⟩
  | none =>
    if x.fetch then ⟨x, t.pc, 0, 0, none, 0, none⟩
    else ⟨x, t.pc, t.ir.word, t.ir.len / 2, none, 0, t.exp.map (fun e => e.step)⟩

/-- The eight words of the trap record (R27). -/
def trapRecordWords (t : Thread) (h : HeldTrap) (time core slot : Nat) : List Nat :=
  let w0 := h.trap.cause.code + 2 ^ 8 * t.flags.word + 2 ^ 13 * t.privl.priv.toNat + 2 ^ 14 * h.rep.isSome.toNat +
    2 ^ 15 * h.exp.isSome.toNat + 2 ^ 16 * h.ilen + 2 ^ 19 * h.trap.perf.toNat + 2 ^ 24 * h.repix
  let w2 := h.word + (match h.rep with | some r => 2 ^ 32 * r.rword | none => 0) + 2 ^ 48 * (h.exp.getD 0 % 65536)
  [w0, h.pc.toNat, w2, h.trap.addr.toNat, h.trap.x0.toNat, h.trap.x1.toNat, time, t.ctx + 2 ^ 16 * slot + 2 ^ 32 * core]

/-- TRAPX at entry: extra word 0, or inside a firmware expansion 2^63 and the step (R25, R333). -/
def HeldTrap.trapx (h : HeldTrap) : Word :=
  match h.exp with
  | some k => BitVec.ofNat 64 (2 ^ 63 + k)
  | none => h.trap.x0

/-- A thread in its handler (R25). -/
def Thread.enterHandler (t : Thread) (h : HeldTrap) : Thread :=
  { t with
    trapc := BitVec.ofNat 64 h.trap.cause.code
    trappc := h.pc
    trapa := h.trap.addr
    trapx := h.trapx
    privl := ⟨true, true, t.privl.priv, false⟩
    pc := t.trapv &&& ~~~(63 : Word)
    rep := none
    wait := none
    reads := []
    pops := []
    pushes := []
    pushing := []
    pendTrap := none
    frozen := none
    retry := none
    exp := none
    stepover := false
    dbgctl := if t.stepover then { t.dbgctl with stepov := false } else t.dbgctl }

/-- The trap record lands at TRAPREC with bits [5:0] taken as 0, at system privilege (R25). -/
def State.writeTrapRecord (s : State) (core slot : Nat) (t : Thread) (h : HeldTrap) : Option State :=
  let t1 := { t with privl := { t.privl with priv := true }, dbgctl := { t.dbgctl with den := false } }
  match s.access t1 core .write (t.traprec.toNat / 64 * 64) 64 64 with
  | (.error _, _) => none
  | (.ok ps, s1) =>
    some (s1.storePieces core ps
      ((trapRecordWords t h s.dev.timebase.toNat core slot).flatMap (fun w => leBytes 8 w)))

/-- Freezes a thread slot with a refused trap: state intact, a record of KIND 5 with the refused address (R26, R323). -/
def State.freeze (s : State) (core slot : Nat) (t : Thread) (h : HeldTrap) (cause addr : Nat) : State × Thread :=
  (s.errRecord { kind := 0x05, code := h.trap.cause.code, ctx := t.ctx, addr := addr,
                 master := slotMaster core slot, x0 := cause, pc := h.pc.toNat },
   { t with frozen := some h, rep := none, wait := none, pendTrap := none, exp := none })

/-- A launch whose thread raises CODE_INTEGRITY is remembered until it completes (R334). -/
def State.noteCode (s : State) (t : Thread) (h : HeldTrap) : State :=
  match t.launch with
  | some (j, _) =>
    if h.trap.cause = .codeIntegrity then { s with launchFaults := (t.ctx, j) :: s.launchFaults.filter (fun p => decide (p ≠ (t.ctx, j))) }
    else s
  | none => s

/-- Trap entry for a thread in a slot, its windows complete: the handler, or the frozen state (R25, R26). -/
def State.trapEntry (s : State) (core slot : Nat) (t : Thread) (h : HeldTrap) : State × Thread :=
  let s0 := s.noteCode t h
  if t.privl.tact then s0.freeze core slot t h 2 h.trap.addr.toNat
  else
    match s0.writeTrapRecord core slot t h with
    | none => s0.freeze core slot t h 2 (t.traprec.toNat / 64 * 64)
    | some s1 => (s1, t.enterHandler h)

/-- The record of KIND 2 that a consumed uncorrectable error leaves (R321). -/
def State.noteUncorrectable (s : State) (core slot : Nat) (t : Thread) (pa x0 pc : Nat) : State :=
  s.errRecord { kind := 0x02, code := 0x0F, ctx := t.ctx, addr := pa, master := slotMaster core slot, x0 := x0, pc := pc }

/-- A hand-off ends: the slot is back, the row step has its data, the token is in state 2 (R156, R291). -/
def State.handOver (s : State) (core slot id : Nat) : State :=
  let c := s.core core
  let tok := (c.nq.find? (fun e => decide (e.id = id))).bind (fun e => match e.op with
    | .row _ _ k _ => if k < 8 then some k else none
    | _ => none)
  let nq := c.nq.map (fun e => if e.id = id then
      { e with op := match e.op with | .row a h k _ => .row a h k true | op => op } else e)
  (s.setCore core { c with nq := nq }).modThread core slot (fun t =>
    { (match tok with | some k => t.setTok k 2 | none => t) with out := false })

/-- The vector unit has taken an entry of a core: an operation's results stand in its thread's registers since it issued (R15,
R154). -/
def State.vectorServe (s : State) (core : Nat) : VqEntry → State
  | .op _ => s
  | .handoff slot id => s.handOver core slot id

/-- The order in which the cores of a quad are examined after the one served last (R154, R289). -/
def rotation (last : Nat) : List Nat := (List.range 4).map (fun i => (last + 1 + i) % 4)

/-- Takes the first queue head of these cores (R154). -/
def State.vectorTake (s : State) (q : Nat) : List Nat → State
  | [] => s
  | c :: r =>
    let core := 4 * q + c
    match (s.core core).vq with
    | [] => s.vectorTake q r
    | e :: rest =>
      ((s.setCore core { s.core core with vq := rest }).setQuad q { s.quad q with lastVec := c }).vectorServe core e

/-- The vector unit takes heads of its quad's queues in their rotation until a core's queue holds no operation of a slot's thread
(R153 to R155). -/
def State.vectorDrain (s : State) (core slot : Nat) : Nat → State
  | 0 => s
  | n + 1 =>
    if VqEntry.op slot ∈ (s.core core).vq then
      (s.vectorTake (core / 4) (rotation (s.quad (core / 4)).lastVec)).vectorDrain core slot n
    else s

/-- The entries of a slot's thread in its core's vector dispatch queue, and in the unit, complete, when the unit's rotation has come
to them (R153 to R155). -/
def State.vectorDone (s : State) (core slot : Nat) : State :=
  s.vectorDrain core slot ((List.range 4).map (fun c => (s.core (4 * (core / 4) + c)).vq.length)).sum

/-- TAKING AN EXCEPTION: the running thread's instruction traps. Its issued long-latency instructions and its
entries at the vector unit complete first; a window that awaits an answer keeps the trap pending until the answer arrives
(R21, R25, R26, R155). -/
def State.takeTrap (s : State) (x : Trap) : State :=
  if s.thr.quiet then
    let s1 := s.settleWindows.vectorDone s.cur.1 s.cur.2
    let (s2, t) := s1.trapEntry s1.cur.1 s1.cur.2 s1.thr (s1.thr.held x)
    { s2 with thr := t }
  else s.modThr (fun t => { t with pendTrap := some x })

/-- The same as an outcome. -/
def State.trap (s : State) (x : Trap) : Out := .next (s.takeTrap x)

/-- A failed access check as an outcome. -/
def State.fail (s : State) (f : Fail) : Out := s.trap f.trap

/-- WIDTH_OVERFLOW naming a destination, with the exact result (R29, R35). -/
def widthOverflow (d : Name) (x : Int) : Trap := mkTrap .widthOverflow 0 d.val (lowBits 64 x)

/-- The same after an effect that was performed before the narrowing (R25). -/
def widthOverflowPerf (d : Name) (x : Int) : Trap := { widthOverflow d x with perf := true }

/-! ## Parking (R138) -/

/-- Reserves the push entries of a parked instruction, in the order of its destinations (R160, log 82). -/
def State.reservePushes (s : State) : List Name → State
  | [] => s
  | n :: rest =>
    match (s.thr.name n).bind with
    | .link l =>
      match s.linkOut s.cur.1 l with
      | some (src, dir) =>
        let (id, s1) := s.fresh
        ((s1.putEntry src dir ⟨s1.thr.ctx, 0, some id⟩).modThr
          (fun t => { t with pushes := t.pushes ++ [⟨n, src, dir, id⟩] })).reservePushes rest
      | none => s.reservePushes rest
    | _ => s.reservePushes rest

/-- Parks the running thread before its instruction has begun: it meets its bound operands again (R160, R254). -/
def State.parkBare (s : State) (w : Wait) : State :=
  { s.modThr (fun t => { t with wait := some w, reads := [], pops := [], pushes := [] }) with
    parkOrder := s.parkOrder.filter (fun p => decide (p ≠ s.cur)) ++ [s.cur] }

/-- Parks the running thread in its instruction, which will consume what it has read and fill what it has reserved. -/
def State.park (s : State) (reads : List Name) (w : Wait) : State :=
  let ps := s.popsOf s.cur.1 s.thr reads.eraseDups
  ((s.parkBare w).modThr (fun t => { t with reads := reads.eraseDups, pops := ps })).reservePushes s.thr.pushing

/-- A slot is no longer among the parked ones. -/
def State.unparkOrder (s : State) (c i : Nat) : State :=
  { s with parkOrder := s.parkOrder.filter (fun p => decide (p ≠ (c, i))) }

/-! ## Narrowing into the running thread's names (R35, R36) -/

/-- narrow(x, d) for a name of a thread. -/
def Thread.narrow (t : Thread) (d : Name) (x : Int) : Option Narrowed :=
  Machine.narrow (t.name d).kind (t.name d).width (t.name d).mode x

/-- Narrows into a name, with the flags that narrowing writes, or WIDTH_OVERFLOW. -/
def State.narrowInto (s : State) (reads : List Name) (d : Name) (x : Int) (g : FlagWrite → FlagWrite) : Out :=
  match s.thr.narrow d x with
  | none => s.trap (widthOverflow d x)
  | some r => s.finish reads { Pending.none with names := [(d, r.pat)], flags := g r.flags }

/-- The same for an instruction whose effect comes first: a trap reports PERF (R25, log 43). -/
def State.narrowAfter (s : State) (reads : List Name) (d : Name) (x : Int) (g : FlagWrite → FlagWrite) : Out :=
  match s.thr.narrow d x with
  | none => s.trap (widthOverflowPerf d x)
  | some r => s.finish reads { Pending.none with names := [(d, r.pat)], flags := g r.flags }

/-- The same for a long-latency instruction: a destination in trap mode makes its look 0 (R21). -/
def State.narrowLong (s : State) (look : Nat) (reads : List Name) (d : Name) (x : Int) : Out :=
  match s.thr.narrow d x with
  | none => s.trap (widthOverflow d x)
  | some r =>
    s.finishLong (if (s.thr.name d).mode = .trap then 0 else look) reads
      { Pending.none with names := [(d, r.pat)], flags := r.flags }

/-- A long-latency result narrowed after an effect (R21, R25). -/
def State.narrowLongAfter (s : State) (look : Nat) (reads : List Name) (d : Name) (x : Int) : Out :=
  match s.thr.narrow d x with
  | none => s.trap (widthOverflowPerf d x)
  | some r =>
    s.finishLong (if (s.thr.name d).mode = .trap then 0 else look) reads
      { Pending.none with names := [(d, r.pat)], flags := r.flags }

/-- Stores a pattern in a name, no flag written. -/
def State.putPat (s : State) (reads : List Name) (d : Name) (p : Word) : Out :=
  s.finish reads { Pending.none with names := [(d, p)] }

/-- Writes flags only. -/
def State.putFlags (s : State) (reads : List Name) (f : FlagWrite) : Out :=
  s.finish reads { Pending.none with flags := f }

/-! ## Loads and stores of the running thread -/

/-- A checked load of bytes by the running thread: the bytes, or the trap to take. Poison is met last (R315). -/
def State.loadBytes (s : State) (ps : List Piece) : Except Trap (List Byte) × State :=
  match s.piecesPoison s.cur.1 ps with
  | some (ptr, pa) =>
    (.error (mkTrap .uncorrectable ptr 0x100 0), s.noteUncorrectable s.cur.1 s.cur.2 s.thr pa 0x100 s.thr.pc.toNat)
  | none =>
    let (bs, s1) := s.loadPieces s.cur.1 ps
    (.ok bs, s1)

/-- A load of `n` bytes at a pointer by the running thread: checked, then read; or the trap. -/
def State.threadLoad (s : State) (ptr n al : Nat) : Except Trap (List Byte) × State :=
  match s.access s.thr s.cur.1 .read ptr n al with
  | (.error f, s1) => (.error f.trap, s1)
  | (.ok ps, s1) => s1.loadBytes ps

/-- A store of bytes at a pointer by the running thread: checked, then written; or the trap. -/
def State.threadStore (s : State) (ptr al : Nat) (bs : List Byte) : Option Trap × State :=
  match s.access s.thr s.cur.1 .write ptr bs.length al with
  | (.error f, s1) => (some f.trap, s1)
  | (.ok ps, s1) => (none, s1.storePieces s.cur.1 ps bs)

/-! ## Fetching code (R13, R14, R88, R315, R334) -/

/-- The bytes of a line of code as a fetch by a core finds them in a memory system: the core's L1 where valid, else the die
L2. -/
def State.codeBytes (s : State) (m : Mem) (core line : Nat) : List Byte :=
  let below := if s.dev.paKind (64 * line) = .hbm then m.peek (s.dev.dieOf core) (64 * line) 64
    else (List.range 64).map (fun i => Config.externalByte s.freeCtr (64 * line + i))
  match m.line core line with
  | none => below
  | some x => (List.range 64).map (fun i => if x.valid.getLsbD i then x.byte i else below.getD i 0)

/-- The object of a page of code: as its check found it, or as its manifest says (R334). -/
def Device.objectOf (d : Device) (page : Nat) : Nat :=
  match d.poisonedObjects.find? (fun x => decide (x.1 = page)) with
  | some (_, o, _) => o
  | none => Config.codeObject page

/-- Whether a page of code belongs to an object that failed its check, and that object (R334). -/
def Device.poisonedObject (d : Device) (page : Nat) : Option Nat :=
  if d.poisonedObjects.any (fun x => decide (x.2.2 = 0) && decide (x.2.1 = d.objectOf page)) then some (d.objectOf page) else none

/-- A page of code has been checked; one that fails poisons its object and leaves a record of KIND 0x08 (R321, R334). -/
def State.pageChecked (s : State) (page object : Nat) (good : Bool) : State :=
  let s1 := s.modDev (fun d => { d with poisonedObjects := (page, object, good.toNat) :: d.poisonedObjects })
  if good then s1 else s1.errRecord { kind := 0x08, addr := page, x0 := object }

/-- The check of a page of code before its first fetch; whether its hash is that of the manifest is a free value (R334, R376, log 5).
A page of an object that is poisoned already is not checked. -/
def State.checkPage (s : State) (page : Nat) : State :=
  if s.dev.poisonedObjects.any (fun x => decide (x.1 = page)) || (s.dev.poisonedObject page).isSome then s
  else
    let (k, s1) := s.choose 2
    s1.pageChecked page (Config.codeObject page) (decide (k = 0))

/-- Poison that a fetch of a halfword meets (R315). -/
def State.codePoison (s : State) (core pa : Nat) : Bool :=
  match s.mem.line core (pa / 64) with
  | some x => if x.valid.getLsbD (pa % 64) then x.poison.getLsbD (pa % 64 / 8)
    else (s.mem.peekPoison (s.dev.dieOf core) pa 2).isSome
  | none => (s.mem.peekPoison (s.dev.dieOf core) pa 2).isSome

/-- A halfword of a list of bytes. -/
def halfAt (bs : List Byte) (i : Nat) : Nat := (bs.getD i 0).toNat + 256 * (bs.getD (i + 1) 0).toNat

/-- One of the values of a list that are not alike: the only one, or a free choice (log 5). -/
def State.oneOf (s : State) (l : List Nat) : Nat × State :=
  let xs := l.eraseDups
  let (k, s1) := s.choose xs.length
  (xs.getD k 0, s1)

/-- Fetches a halfword for a thread: as memory now has it, as the thread has fetched it since its last FENCEI, or as memory
had it then, whichever where they differ (R88). -/
def State.fetch16 (s : State) (t : Thread) (core pc : Nat) : Except Trap Nat × State × Thread :=
  match s.access t core .fetch pc 2 2 with
  | (.error f, s1) => (.error { f.trap with fetch := true }, s1, t)
  | (.ok ps, s1) =>
    match ps with
    | ⟨_, .global pa _ _, _⟩ :: _ =>
      let s1 := s1.checkPage (pa / 65536 * 65536)
      match s1.dev.poisonedObject (pa / 65536 * 65536) with
      | some o => (.error { mkTrap .codeIntegrity (pc / 65536 * 65536) o 0 with fetch := true }, s1, t)
      | none =>
        if s1.codePoison core pa then
          (.error { mkTrap .uncorrectable pc 0x101 0 with fetch := true },
            s1.noteUncorrectable core s1.cur.2 t pa 0x101 t.pc.toNat, t)
        else
          let now := s1.codeBytes s1.mem core (pa / 64)
          let old := s1.codeBytes t.codeView.mem t.codeView.core (pa / 64)
          let t1 := if t.code.any (fun x => decide (x.line = pa / 64)) then t
            else { t with code := ⟨pa / 64, now⟩ :: t.code }
          let seen := (t.code.filter (fun x => decide (x.line = pa / 64))).map (fun x => x.bytes)
          let (w, s2) := s1.oneOf ((now :: seen ++ [old]).map (fun b => halfAt b (pa % 64)))
          (.ok w, s2, t1)
    | ⟨_, .sram c off, _⟩ :: _ =>
      if (firstPoison (s1.mem.sram c).poison off 2).isSome then
        (.error { mkTrap .uncorrectable pc 0x101 0 with fetch := true },
          s1.noteUncorrectable core s1.cur.2 t off 0x101 t.pc.toNat, t)
      else
        let (w, s2) := s1.oneOf [halfAt (s1.mem.sramRead c off 2) 0, halfAt (t.codeView.mem.sramRead c off 2) 0]
        (.ok w, s2, t)
    | [] => (.ok 0, s1, t)

/-- Fetches an instruction word and its length for a thread (R13, R72, R86). -/
def State.fetchWord (s : State) (t : Thread) (core pc : Nat) : Except Trap (Nat × Nat) × State × Thread :=
  match s.fetch16 t core pc with
  | (.error x, s1, t1) => (.error x, s1, t1)
  | (.ok h, s1, t1) =>
    if h % 2 = 0 then (.ok (h, 2), s1, t1)
    else
      match s1.fetch16 t1 core ((pc + 2) % 2 ^ 64) with
      | (.error x, s2, t2) => (.error x, s2, t2)
      | (.ok h2, s2, t2) => (.ok (h + 65536 * h2, 4), s2, t2)

/-- Whether a 16-bit word is a REP prefix (R22). -/
def isRep (w len : Nat) : Bool := decide (len = 2) && decide (bits w 1 2 = 1) && !bit1 w 15

/-! ## The return from a trap (R28) -/

/-- The length that ERET skips: from ILEN, or for ILEN 0 from the halfwords at TRAPPC as the returning thread fetches
them; none where that fetch faults. The flag says whether it is a REP. -/
def State.skipLength (s : State) (t : Thread) (core ilen : Nat) : Option (Nat × Bool) × State :=
  match ilen with
  | 1 => (some (2, false), s)
  | 2 => (some (4, false), s)
  | 3 => (some (4, true), s)
  | 4 => (some (6, true), s)
  | _ =>
    match s.fetchWord t core t.trappc.toNat with
    | (.error _, s1, _) => (none, s1)
    | (.ok (w, len), s1, t1) =>
      if isRep w len then
        match s1.fetchWord t1 core ((t.trappc.toNat + 2) % 2 ^ 64) with
        | (.error _, s2, _) => (none, s2)
        | (.ok (_, len2), s2, _) => (some (2 + len2, true), s2)
      else (some (len, false), s1)

/-- An address as the PC holds it: bit 0 is 0 (R9, R14, log 81). -/
def evenPc (w : Word) : Word := w &&& ~~~(1 : Word)

/-- THE RETURN FROM AN EXCEPTION: the running thread leaves its handler (R28). The record is read at TRAPREC at system
privilege; a failed read is a trap of the ERET. -/
def State.returnFromTrap (s : State) : Out :=
  let core := s.cur.1
  match s.access s.thr core .read (s.thr.traprec.toNat / 64 * 64) 64 64 with
  | (.error f, s1) => s1.fail f
  | (.ok ps, s1) =>
    match s1.loadBytes ps with
    | (.error x, s2) => s2.trap x
    | (.ok bs, s2) =>
      let w0 := leNat (bs.take 8)
      let t := s2.thr
      let back := { t with privl := { t.privl with priv := t.privl.ppriv } }
      let (pc, rep, s3) : Word × Bool × State :=
        if !t.privl.skip then (t.trappc, false, s2)
        else
          match s2.skipLength back core (bits w0 16 3) with
          | (none, s3) => (t.trappc, false, s3)
          | (some (n, r), s3) => (t.trappc + BitVec.ofNat 64 n, r, s3)
      .next (s3.modThr (fun t =>
        let t1 := if rep then t.setRp 0 else t
        { t1.jumpTo (evenPc pc) with
          shadows := if t.privl.skip then [] else t1.shadows.filter (fun x => !x.tact && decide (x.pc = evenPc pc))
          flags := Flags.ofNat (bits w0 8 5)
          inflight := t1.inflight.map (fun e => { e with flagsLive := false, sfLive := false })
          privl := ⟨t.privl.ppriv, false, t.privl.ppriv, false⟩ }))

end Sys2Proof.Machine
end

