-- ==== Sys2Proof/Machine/Records.lean ====
section
/-! DEFINITION. Records: continuation records and images in memory, ready flumes, placement and spilling, the row file's
spans, and how a wait is completed for a resident or a spilled thread (R31, R38 to R47, R133 to R143, R268, R325). -/

namespace Sys2Proof.Machine
open Sys2Proof

/-! ## Memory that engines keep for a context -/

/-- Where `n` bytes at a context's global address lie; none where no page maps them. System software maps the pools that an
engine keeps without W (R274), so a leaf's rights do not bind the engine that keeps them (log 6). -/
def State.sysPieces (s : State) (ctx va n : Nat) : Option (List Piece) :=
  match (s.engineVa 0 ctx false .read va n).1 with
  | .ok ps => some ps
  | .error _ => none

/-- The bytes of a piece at the coherent level, nothing moved. -/
def State.peekPiece (s : State) (x : Piece) : List Byte :=
  match x.loc with
  | .global pa _ _ =>
    if s.dev.paKind pa = .hbm then s.mem.homePeek pa x.n
    else (List.range x.n).map (fun i => Config.externalByte s.freeCtr (pa + i))
  | .sram c off => s.mem.sramRead c off x.n

/-- Reads bytes of a context's memory for an engine; bytes that no translation reaches are free values (log 6). -/
def State.sysRead (s : State) (ctx va n : Nat) : List Byte :=
  match s.sysPieces ctx va n with
  | some ps => ps.flatMap s.peekPiece
  | none => (List.range n).map (fun i => Config.externalByte s.freeCtr (va + i))

/-- Reads a word of a context's memory for an engine. -/
def State.sysWord (s : State) (ctx va : Nat) : Nat := leNat (s.sysRead ctx va 8)

/-- Writes bytes of a context's memory for an engine; bytes that no translation reaches are lost (log 6). -/
def State.sysWrite (s : State) (ctx va : Nat) (bs : List Byte) : State :=
  match s.sysPieces ctx va bs.length with
  | some ps => s.homeStorePieces ps bs
  | none => s

/-- Writes a word of a context's memory for an engine. -/
def State.sysPut (s : State) (ctx va w : Nat) : State := s.sysWrite ctx va (leBytes 8 w)

/-! ## Records (R137, R325) -/

/-- The address of record `k`. -/
def Ctx.recAddr (x : Ctx) (k : Nat) : Nat := x.cpool.toNat + 64 * k

/-- The address of record `k`'s image. -/
def Ctx.imgAddr (x : Ctx) (k : Nat) : Nat := x.save.toNat + 2 ^ 20 + 4096 * k

/-- The WAIT field of a wait (R137). -/
def waitCode : Option Wait → Nat
  | some .fullEmpty => 1
  | some .flume => 2
  | some .group => 3
  | some .reservation => 4
  | _ => 0

/-- Word 0x10 of a record (R137). -/
def recWord2 (t : Thread) (fresh img : Bool) (wait : Nat) : Nat :=
  t.flags.word + 2 ^ 5 * t.privl.priv.toNat + 2 ^ 6 * fresh.toNat + 2 ^ 7 * img.toNat + 2 ^ 8 * wait +
    2 ^ 12 * t.toks.toNat + 2 ^ 28 * t.aff.getD 0 + 2 ^ 46 * t.aff.isNone.toNat + 2 ^ 52 * (t.ctx % 4096)

/-- The eight words of a thread's record (R137). -/
def recWords (t : Thread) (imgp : Nat) : List Nat :=
  [t.pc.toNat, t.maph.toNat, recWord2 t false true (waitCode t.wait)] ++
    (t.groups.toList.map (fun g => match g with | some a => a.toNat | none => 0)) ++ [imgp]

/-- A name's bits in a span: a held element stands in them (R137, R254). -/
def NameCell.spanPat (c : NameCell) : Word :=
  match c.bind with
  | .flume _ (some e) => e
  | _ => c.pat

/-- The span bits of a thread as one number: n0 lowest (R38). -/
def packSpan (cs : List NameCell) : Nat :=
  (cs.foldl (fun (p : Nat × Nat) c => (p.1 + c.spanPat.toNat % 2 ^ c.width * 2 ^ p.2, p.2 + c.width)) (0, 0)).1

/-- The flume bindings of a thread as the image's entries: handle, and index, HELD and V (R137). -/
def bindWords (t : Thread) : List Nat :=
  let bs := ((List.range 63).zip t.names.toList).filterMap (fun p => match p.2.bind with
    | .flume h held => some [h.toNat, p.1 + 2 ^ 8 * held.isSome.toNat + 2 ^ 15]
    | _ => none)
  (bs.flatten ++ List.replicate 8 0).take 8

/-- The thread word at 0x2C0 of the image (R325). -/
def threadWord (t : Thread) : Nat := t.cmt.toNat + 2 * t.rsl.toNat

/-- The eight words at 0x280 of the image, and the thread word. -/
def imageRegs (t : Thread) : List Nat :=
  [t.trapc.toNat, t.trappc.toNat, t.trapx.toNat, t.trapa.toNat, t.trapv.toNat, t.traprec.toNat, t.privl.word,
    t.srngc.word, threadWord t]

/-- A tag's byte. -/
def tagByte (t : Tag) : Nat := t.code

/-- The image of a thread (R137). -/
def imageBytes (t : Thread) : List Byte :=
  (t.names.toList.flatMap (fun c => leBytes 2 c.entry)) ++ leBytes 512 (packSpan (t.names.toList.take 63)) ++
  ((imageRegs t ++ [t.dbgctl.word, t.dbga.toNat, t.dbgm.toNat]).flatMap (leBytes 8)) ++ List.replicate 32 0 ++
  (t.vregs.toList.flatMap (fun v => leBytes 64 v.data.toNat ++ leBytes 8 v.side.toNat ++ leBytes 8 v.tag.code)) ++
  ((bindWords t).flatMap (leBytes 8))

/-- The overflow mode of a descriptor code; 3 is reserved (R30). -/
def modeOfCode : Nat → Option OvMode
  | 0 => some .wrap | 1 => some .sat | 2 => some .trap | _ => none

/-- A name declared by a descriptor entry with pattern 0, or none when the entry fails (R31). -/
def cellOfEntry (i e : Nat) : Option NameCell :=
  let w := bits e 0 7
  if bits e 12 4 ≠ 0 then none
  else if w = 0 then some NameCell.undeclared
  else
    match kindOfCode (bits e 7 3), modeOfCode (bits e 10 2) with
    | some k, some m =>
      let okW := match k with
        | .unsigned | .signed => decide (w ≤ 64)
        | .f64 => decide (w = 64)
        | .f32 => decide (w = 32)
        | .f16 | .bf16 => decide (w = 16)
      if okW && !(decide (i = 61) && k.isFloat) then some ⟨w, k, m, 0, .none⟩ else none
    | _, _ => none

/-- The cells of a descriptor's entries from index `i`, or the first index that fails; entry 63 is ignored (R31, R32). -/
def cellsOf : Nat → List Nat → Except Nat (List NameCell)
  | _, [] => .ok []
  | i, e :: r =>
    match (if i = 63 then some NameCell.undeclared else cellOfEntry i e) with
    | none => .error i
    | some c => match cellsOf (i + 1) r with
      | .error j => .error j
      | .ok cs => .ok (c :: cs)

/-- Halfwords of a list of bytes. -/
def halves : List Byte → List Nat
  | a :: b :: r => (a.toNat + 256 * b.toNat) :: halves r
  | _ => []

/-- Cells with their patterns taken from span bits (R38). -/
def unpackSpan (x : Nat) : Nat → List NameCell → List NameCell
  | _, [] => []
  | off, c :: r => { c with pat := BitVec.ofNat 64 (bits x off c.width) } :: unpackSpan x (off + c.width) r

/-- Sixty-four cells as a vector. -/
def cellVec (cs : List NameCell) : Vector NameCell 64 :=
  Vector.ofFn (fun i : Fin 64 => cs.getD i NameCell.undeclared)

/-- The map in which every index is undeclared (R31). -/
def emptyMap : Vector NameCell 64 := Vector.replicate 64 NameCell.undeclared

/-- A word of a list of bytes. -/
def wordAt (bs : List Byte) (off : Nat) : Nat := leNat ((bs.drop off).take 8)

/-- PRIVL from a word. -/
def Privl.ofNat (x : Nat) : Privl := ⟨bit1 x 0, bit1 x 1, bit1 x 2, bit1 x 3⟩

/-- SRNGC from a word. -/
def Srngc.ofNat (x : Nat) : Srngc :=
  ⟨BitVec.ofNat 45 (bits x 12 45), bit1 x 4, bit1 x 3, bit1 x 2, BitVec.ofNat 2 (bits x 0 2)⟩

/-- DBGCTL from a word. -/
def Dbgctl.ofNat (x : Nat) : Dbgctl := ⟨bit1 x 6, BitVec.ofNat 2 (bits x 4 2), bit1 x 2, bit1 x 1, bit1 x 0⟩

/-- A vector register from its 80 bytes. -/
def vregOf (bs : List Byte) : VRegVal :=
  ⟨BitVec.ofNat 512 (leNat (bs.take 64)), BitVec.ofNat 64 (leNat ((bs.drop 64).take 8)), tagOf (wordAt bs 72 % 16)⟩

/-- The flume bindings of an image put back into cells: with HELD the span bits are the element. -/
def rebind (bs : List Byte) (cs : List NameCell) : List NameCell :=
  (List.range 4).foldl (fun cs i =>
    let h := wordAt bs (0xD00 + 16 * i)
    let b := wordAt bs (0xD08 + 16 * i)
    if bit1 b 15 then cs.modify (bits b 0 6) (fun c =>
      { c with bind := .flume (BitVec.ofNat 64 h) (if bit1 b 8 then some c.pat else none) })
    else cs) cs

/-- The names of a thread that are bound to links. -/
def Thread.links (t : Thread) : List (Name × Fin 4) :=
  (List.range 63).filterMap (fun i =>
    let n : Name := Fin.ofNat 64 i
    match (t.name n).bind with
    | .link l => some (n, l)
    | _ => none)

/-- A thread whose names are bound to links again (R330). -/
def Thread.relink (t : Thread) (ls : List (Name × Fin 4)) : Thread :=
  ls.foldl (fun t p => t.setName p.1 { t.name p.1 with bind := .link p.2 }) t

/-- The row bits of the names that hold an element, as they were bound (R254, log 117). -/
def Thread.under (t : Thread) : List (Name × Word) :=
  (List.range 63).filterMap (fun i =>
    let n : Name := Fin.ofNat 64 i
    match (t.name n).bind with
    | .flume _ (some _) => some (n, (t.name n).pat)
    | _ => none)

/-- A thread whose bindings are whole again: to links, and with the row bits under held elements. -/
def Thread.rebound (t : Thread) (r : RecInfo) : Thread :=
  r.under.foldl (fun t p => match (t.name p.1).bind with
    | .flume _ (some _) => t.setName p.1 { t.name p.1 with pat := p.2 }
    | _ => t) (t.relink r.links)

/-- What the model keeps of a record. -/
def Ctx.recInfo (x : Ctx) (k : Nat) : Option RecInfo := x.recs.find? (fun r => decide (r.k = k))

/-- A record that nothing has been noted about. -/
def RecInfo.new (k : Nat) (launch : Option (Nat × Nat)) (die : Nat) : RecInfo :=
  ⟨k, false, launch, none, none, none, 0, none, ⟨0, 0, .absent⟩, [], none, [], die, [], none, [], none, none, []⟩

/-- Puts what the model keeps of a record. -/
def State.setRecInfo (s : State) (ctx : Nat) (r : RecInfo) : State :=
  s.modCtx ctx (fun x => { x with recs := r :: x.recs.filter (fun y => decide (y.k ≠ r.k)) })

/-- What the model keeps of a record of a context. -/
def State.recInfo (s : State) (ctx k : Nat) : RecInfo :=
  match s.ctxOf ctx with
  | some x => (x.recInfo k).getD (RecInfo.new k none 0)
  | none => RecInfo.new k none 0

/-- The thread that a record and its image hold, map and names apart (R137). Bit 0 of its PC is 0 (R9, log 81); an
instruction that it is parked in is still the one that STEPOV covers (R20). `m` is what fetch finds for a thread that has not been
resident (R88). -/
def threadOfRecord (ctx k : Nat) (rec img : List Byte) (r : RecInfo) (m : CodeView) : Thread :=
  let w2 := wordAt rec 0x10
  let fresh := bit1 w2 6
  let gh (i : Nat) : Option Word :=
    let a := wordAt rec (0x18 + 8 * i)
    if fresh ∨ a = 0 then none else some (BitVec.ofNat 64 a)
  let word (off : Nat) : Word := BitVec.ofNat 64 (wordAt img off)
  { Thread.empty with
    ctx := ctx, recIx := k
    pc := evenPc (BitVec.ofNat 64 (wordAt rec 0))
    maph := BitVec.ofNat 64 (wordAt rec 8 / 128 * 128)
    flags := Flags.ofNat (bits w2 0 5)
    privl := if fresh then ⟨bit1 w2 5, false, false, false⟩ else { Privl.ofNat (wordAt img 0x2B0) with priv := bit1 w2 5 }
    trapc := if fresh then 0 else word 0x280
    trappc := if fresh then 0 else word 0x288
    trapx := if fresh then 0 else word 0x290
    trapa := if fresh then 0 else word 0x298
    trapv := word 0x2A0
    traprec := word 0x2A8
    vregs := if fresh then Vector.replicate 32 VRegVal.zero
      else Vector.ofFn (fun i : Fin 32 => vregOf ((img.drop (0x300 + 80 * i.val)).take 80))
    toks := BitVec.ofNat 16 (bits w2 12 16)
    srngc := if fresh then ⟨0, false, false, false, 0⟩ else Srngc.ofNat (wordAt img 0x2B8)
    dbgctl := if fresh then ⟨false, 0, false, false, false⟩ else Dbgctl.ofNat (wordAt img 0x2C8)
    dbga := if fresh then 0 else word 0x2D0
    dbgm := if fresh then 0 else word 0x2D8
    groups := Vector.ofFn (fun i : Fin 4 => gh i)
    cmt := bit1 (wordAt img 0x2C0) 0
    rsl := bit1 (wordAt img 0x2C0) 1
    aff := if bit1 w2 46 then none else some (bits w2 28 18)
    rep := r.rep
    ir := r.ir
    reads := r.reads
    pendTrap := r.pendTrap
    asyncErr := r.asyncErr
    launch := r.launch
    handler := r.handler
    code := r.code
    codeView := r.codeView.getD m
    shadows := r.shadows
    exp := r.exp
    stepover := !fresh && decide (bits w2 8 4 ≠ 0) && bit1 (wordAt img 0x2C8) 6 && !bit1 (wordAt img 0x2B0) 1
    acq := r.acq
    wait := match bits w2 8 4 with
      | 1 => some .fullEmpty
      | 2 => some .flume
      | 3 => some .group
      | 4 => some .reservation
      | _ => none }

/-- The names of an image: its descriptor's cells with the span bits and flume bindings, or the index that fails. -/
def imageCells (img : List Byte) : Except Nat (List NameCell) :=
  match cellsOf 0 (halves (img.take 128)) with
  | .error i => .error i
  | .ok cs => .ok (rebind img (unpackSpan (leNat ((img.drop 128).take 504)) 0 (cs.take 63) ++ [NameCell.undeclared]))

/-- The spilled thread of a record, whole. -/
def State.readRecord (s : State) (ctx k : Nat) : Thread :=
  match s.ctxOf ctx with
  | none => Thread.empty
  | some x =>
    let rec_ := s.sysRead ctx (x.recAddr k) 64
    let img := s.sysRead ctx (x.imgAddr k) 3392
    let t := threadOfRecord ctx k rec_ img (s.recInfo ctx k) ⟨0, s.mem⟩
    match imageCells img with
    | .ok cs => ({ t with names := cellVec cs }).rebound (s.recInfo ctx k)
    | .error _ => t

/-- Writes a thread's record and image, and notes what they do not hold (R137, R139): of an expansion only the one in which a trap that
it has yet to take arose (R333). -/
def State.writeRecord (s : State) (t : Thread) (die : Nat) : State :=
  match s.ctxOf t.ctx with
  | none => s
  | some x =>
    let s1 := s.sysWrite t.ctx (x.imgAddr t.recIx) (imageBytes t)
    let s2 := s1.sysWrite t.ctx (x.recAddr t.recIx) ((recWords t (x.imgAddr t.recIx)).flatMap (leBytes 8))
    s2.setRecInfo t.ctx ⟨t.recIx, false, t.launch, t.pendTrap, t.asyncErr, t.acq, 0, t.rep, t.ir, t.code, some t.codeView, t.shadows, die,
      t.reads, t.handler, t.links, none, if t.pendTrap.isSome then t.exp else none, t.under⟩

/-- Writes a FRESH record (R134, R137): PC, map handle, privilege, context, affinity and the arguments; TRAPV, TRAPREC
and the thread word go into its image. -/
def State.writeFresh (s : State) (t : Thread) (args : List Nat) (die : Nat) : State :=
  match s.ctxOf t.ctx with
  | none => s
  | some x =>
    let ws := [t.pc.toNat, t.maph.toNat, recWord2 t true false 0] ++ (args ++ [0, 0, 0, 0]).take 4 ++ [x.imgAddr t.recIx]
    let s1 := s.sysWrite t.ctx (x.recAddr t.recIx) (ws.flatMap (leBytes 8))
    let s2 := s1.sysWrite t.ctx (x.imgAddr t.recIx + 0x280) ((imageRegs t).flatMap (leBytes 8))
    s2.setRecInfo t.ctx (RecInfo.new t.recIx t.launch die)

/-- Whether a record is in use: owned by a thread, or retiring (R133, R135). -/
def Ctx.inUse (x : Ctx) (k : Nat) : Bool := (x.recInfo k).isSome

/-- The `n`-th record that is not in use, in ascending order from `k`. -/
def Ctx.freeNth (x : Ctx) : Nat → Nat → Nat → Option Nat
  | 0, _, _ => none
  | fuel + 1, k, n =>
    if x.inUse k then x.freeNth fuel (k + 1) n else if n = 0 then some k else x.freeNth fuel (k + 1) (n - 1)

/-- A free record of a context: which of them is open (log 5). -/
def State.takeRecord (s : State) (ctx : Nat) : Option Nat × State :=
  match s.ctxOf ctx with
  | none => (none, s)
  | some x =>
    if x.cpsz ≤ x.recs.length then (none, s)
    else
      let (k, s1) := s.choose (x.cpsz - x.recs.length)
      (x.freeNth x.cpsz 0 k, s1)

/-- Whether a handler registration keeps a record (R292). -/
def State.recReserved (s : State) (ctx k : Nat) : Bool :=
  s.cores.any (fun c => match c.2.handler with | some h => decide (h.ctx = ctx ∧ k ∈ h.recs) | none => false)

/-- Returns a record to the pool or to the registration that keeps it, or holds it retiring until its last outstanding token
event (R135, R294). -/
def State.returnRecord (s : State) (ctx k : Nat) (toks : BitVec 16) : State :=
  let busy := (List.range 8).any (fun i => decide (bits toks.toNat (2 * i) 2 ≠ 0 ∧ bits toks.toNat (2 * i) 2 ≠ 3))
  if busy then s.setRecInfo ctx { RecInfo.new k none 0 with retiring := true, toks := toks }
  else if s.recReserved ctx k then s.setRecInfo ctx (RecInfo.new k none 0)
  else s.modCtx ctx (fun x => { x with recs := x.recs.filter (fun r => decide (r.k ≠ k)) })

/-! ## Ready flumes (R143) -/

/-- Puts a record at the tail of a ready flume: of a core, or of a die. -/
def State.enqueueReady (s : State) (ctx : Nat) (core : Option Nat) (die k : Nat) : State :=
  let d := if core.isSome then 0 else die
  match s.ready.find? (fun f => decide (f.ctx = ctx ∧ f.core = core ∧ f.die = d)) with
  | some _ => { s with ready := s.ready.map (fun f =>
      if f.ctx = ctx ∧ f.core = core ∧ f.die = d then { f with recs := f.recs ++ [k] } else f) }
  | none => { s with ready := s.ready ++ [⟨ctx, core, d, [k]⟩] }

/-- The records of a ready flume. -/
def State.readyRecs (s : State) (ctx : Nat) (core : Option Nat) (die : Nat) : List Nat :=
  match s.ready.find? (fun f => decide (f.ctx = ctx ∧ f.core = core ∧ f.die = (if core.isSome then 0 else die))) with
  | some f => f.recs
  | none => []

/-- Takes the head of a ready flume. -/
def State.popReady (s : State) (ctx : Nat) (core : Option Nat) (die : Nat) : State :=
  let d := if core.isSome then 0 else die
  let fs := s.ready.map (fun f =>
    if f.ctx = ctx ∧ f.core = core ∧ f.die = d then { f with recs := f.recs.tail } else f)
  { s with ready := fs.filter (fun f => !f.recs.isEmpty) }

/-! ## The row file (R38, R40, R45) -/

/-- The spans of the resident threads of a core whose placement is done: slot, start, length. -/
def State.spans (s : State) (c : Nat) : List (Nat × Nat × Nat) :=
  (List.range 16).filterMap (fun i =>
    match s.threadAt c i with
    | some t => if t.placing then none else some (i, t.span, t.spanBits)
    | none => none)

/-- Whether a run of bits meets no span. -/
def runFree (spans : List (Nat × Nat × Nat)) (start len : Nat) : Bool :=
  decide (start + len ≤ 65536) &&
    spans.all (fun p => decide (start + len ≤ p.2.1 ∨ p.2.1 + p.2.2 ≤ start ∨ p.2.2 = 0 ∨ len = 0))

/-- The lowest start of a free run of a length (R40): bit 0, or the end of a span. -/
def lowestRun (spans : List (Nat × Nat × Nat)) (len : Nat) : Option Nat :=
  ((0 :: spans.map (fun p => p.2.1 + p.2.2)).filter (fun a => runFree spans a len)).foldl
    (fun m a => match m with | none => some a | some b => some (min a b)) none

/-- Inserts a span into a list that ascends by start. -/
def insertSpan (p : Nat × Nat × Nat) : List (Nat × Nat × Nat) → List (Nat × Nat × Nat)
  | [] => [p]
  | q :: r => if p.2.1 ≤ q.2.1 then p :: q :: r else q :: insertSpan p r

/-- Spans in ascending order of start. -/
def sortSpans (l : List (Nat × Nat × Nat)) : List (Nat × Nat × Nat) := l.foldr insertSpan []

/-- Moves the spans of a list end to end from a bit address; the address after them (R45 case 4). -/
def State.packSpans (s : State) (c : Nat) : List (Nat × Nat × Nat) → Nat → Nat × State
  | [], a => (a, s)
  | (i, _, len) :: r, a => (s.modThread c i (fun t => { t with span := a })).packSpans c r (a + len)

/-- Places the span of the thread in a slot: at the lowest free run, or after compaction (R40, R45). `old` is the span that
the thread itself still occupies: its bits are not free (R38). -/
def State.placeSpan (s : State) (c i : Nat) (old : List (Nat × Nat × Nat)) : State :=
  match s.threadAt c i with
  | none => s
  | some t =>
    let others := (s.spans c).filter (fun p => decide (p.1 ≠ i))
    match lowestRun (others ++ old) t.spanBits with
    | some a => s.modThread c i (fun t => { t with span := a, placing := false })
    | none =>
      let (a, s1) := s.packSpans c (sortSpans others) 0
      s1.modThread c i (fun t => { t with span := a, placing := false })

/-- Places a span that a RESIZE has changed from an old length: shrink, grow in place, relocate or compact (R45). The
thread's cells already have their new widths. -/
def State.resizeSpan (s : State) (c i old : Nat) : State :=
  match s.threadAt c i with
  | none => s
  | some t =>
    let len := t.spanBits
    let others := (s.spans c).filter (fun p => decide (p.1 ≠ i))
    if len ≤ old then s
    else if runFree others t.span len then s
    else s.placeSpan c i [(i, t.span, old)]

/-! ## Placing a record into a slot (R31, R40, R134, R141, R142) -/

/-- The checks of a map descriptor as a global load of the thread (R31, R315): where it lies, or the trap of the load. A handle
whose window tag is not global is read in the window that it names (log 93). -/
def State.mapPieces (s : State) (t : Thread) (core slot addr : Nat) : Except Trap (List Piece) × State :=
  match s.access { t with dbgctl := { t.dbgctl with den := false } } core .read addr 128 128 with
  | (.error f, s1) => (.error { f.trap with fetch := true }, s1)
  | (.ok ps, s1) =>
    match s1.piecesPoison core ps with
    | some (v, pa) =>
      (.error { mkTrap .uncorrectable v 0x100 0 with fetch := true },
        s1.noteUncorrectable core slot t pa 0x100 t.pc.toNat)
    | none => (.ok ps, s1)

/-- The descriptor that a thread's map handle names, read as a global load of the thread; or the trap of the load (R31). -/
def State.readMap (s : State) (t : Thread) (core slot : Nat) : Except Trap (List NameCell) × State :=
  match s.mapPieces t core slot t.maph.toNat with
  | (.error x, s1) => (.error x, s1)
  | (.ok ps, s1) =>
    let (bs, s2) := s1.loadPieces core ps
    match cellsOf 0 (halves bs) with
    | .error i => (.error { mapFault i with fetch := true }, s2)
    | .ok cs => (.ok cs, s2)

/-- The descriptor in the image of a resumed record, read as a global load of the thread, and its names; or the trap of the load
(R31, R137). -/
def State.readImageMap (s : State) (t : Thread) (core slot addr : Nat) (img : List Byte) :
    Except Trap (List NameCell) × State :=
  match s.mapPieces t core slot addr with
  | (.error x, s1) => (.error x, s1)
  | (.ok _, s1) =>
    match imageCells img with
    | .error i => (.error { mapFault i with fetch := true }, s1)
    | .ok cs => (.ok cs, s1)

/-- A new thread's names: the declared ones at 0, arguments by pattern in n1 to n4 (R134). -/
def argCells (cs : List NameCell) (args : List Nat) : List NameCell :=
  ((List.range 64).zip cs).map (fun p =>
    if 1 ≤ p.1 ∧ p.1 ≤ 4 then { p.2 with pat := BitVec.ofNat 64 (args.getD (p.1 - 1) 0 % 2 ^ p.2.width) } else p.2)

/-- Puts a record's thread into a slot; its span is then the repack engine's work (R46). `sc` is the scope of the acquire
that the start carries (R134, R142). -/
def State.placeRecord (s : State) (core slot ctx k : Nat) (sc : Scope) : State :=
  match s.ctxOf ctx with
  | none => s
  | some x =>
    let rec_ := s.sysRead ctx (x.recAddr k) 64
    let img := s.sysRead ctx (x.imgAddr k) 3392
    let info := s.recInfo ctx k
    let t0 := { threadOfRecord ctx k rec_ img info ⟨core, s.mem⟩ with wait := none }
    let fresh := bit1 (wordAt rec_ 0x10) 6
    let s0 := s.acquire core sc
    let (r, s1) : Except Trap (List NameCell) × State :=
      if fresh then s0.readMap t0 core slot else s0.readImageMap t0 core slot (x.imgAddr k) img
    let t1 : Thread := match r with
      | .ok cs =>
        { t0 with names := cellVec (if fresh then argCells cs ((List.range 4).map (fun i => wordAt rec_ (0x18 + 8 * i))) else cs) }
      | .error e => { t0 with names := emptyMap, rep := none, exp := none, pendTrap := some e }
    let s2 := s1.setOcc core slot (.thread { (t1.rebound info) with placing := true })
    let s3 := s2.setRecInfo ctx { RecInfo.new k info.launch (s.dev.dieOf core) with retiring := false }
    s3.setCore core { s3.core core with repackq := (s3.core core).repackq ++ [.place slot] }

/-! ## Finding threads and completing waits -/

/-- The slot in which a context's record is resident. -/
def State.findThread (s : State) (ctx k : Nat) : Option (Nat × Nat) :=
  let rows := s.cores.flatMap (fun c => (List.range 16).map (fun i => (c.1, i)))
  rows.find? (fun p => match s.threadAt p.1 p.2 with
    | some t => decide (t.ctx = ctx ∧ t.recIx = k)
    | none => false)

/-- A woken thread waits no longer; the acquire that its operation implies stands before its next instruction. -/
def Thread.awake (t : Thread) (acq : Option Scope) : Thread :=
  { t with wait := none, reads := [], pops := [], pushes := [], acq := if acq.isSome then acq else t.acq }

/-- Ends a party's wait with its thread changed by `f`; entries that it reserved and did not fill are given up (R138, R140,
R160). A spilled thread's record goes to the ready flume of
its affinity. -/
def State.wakeParty (s : State) (p : Party) (acq : Option Scope) (f : Thread → Thread) : State :=
  match p with
  | .slot c i =>
    let s1 := match s.threadAt c i with
      | some t => s.dropPushes t
      | none => s
    (s1.modThread c i (fun t => (f t).awake acq)).unparkOrder c i
  | .record ctx k =>
    let t := (f (s.readRecord ctx k)).awake acq
    let die := (s.recInfo ctx k).die
    (s.writeRecord t die).enqueueReady ctx t.aff die k
  | .remote _ => s

/-- A party's thread, resident or spilled. -/
def State.partyThread (s : State) : Party → Thread
  | .slot c i => (s.threadAt c i).getD Thread.empty
  | .record ctx k => s.readRecord ctx k
  | .remote _ => Thread.empty

/-- Ends a party's wait in the completion of its instruction: what it read is consumed, too (R160, R254). An instruction that
traps instead consumes nothing (R25, R160). -/
def State.completeParty (s : State) (p : Party) (acq : Option Scope) (f : Thread → Thread) : State :=
  let t := s.partyThread p
  if (f t).pendTrap.isSome then s.wakeParty p acq f
  else (s.popRunnels t.pops).wakeParty p acq (fun t => f (t.clearHeld t.reads))

/-- A woken thread takes this trap at its parked instruction before it issues anything (R229, R231). -/
def Thread.trapLater (x : Trap) (t : Thread) : Thread := { t with pendTrap := some x }

/-- Every wait list and hold that names a party names another instead (R139). -/
def State.renameParty (s : State) (p q : Party) : State :=
  let r (x : Party) : Party := if x = p then q else x
  { s with
    feWaits := s.feWaits.map (fun x => { x with who := r x.who })
    flumeWaits := s.flumeWaits.map (fun x => { x with who := r x.who })
    groupWaits := s.groupWaits.map (fun x => { x with who := r x.who })
    resvs := s.resvs.map (fun x => { x with who := r x.who })
    basinWaits := s.basinWaits.map (fun x => { x with who := r x.who })
    offtakes := s.offtakes.map (fun x => { x with who := r x.who })
    remoteWaits := s.remoteWaits.map (fun x => { x with who := r x.who }) }

/-- Narrows a received value into a waiting thread's destination, with flags, and moves past the instruction; a trap-mode
name that cannot hold it is left, and WIDTH_OVERFLOW stands before the next instruction, with PERF where the instruction
had an effect (R25, R140, R246). -/
def Thread.receive (d : Name) (x : Int) (perf : Bool) (t : Thread) : Thread :=
  match t.narrow d x with
  | none => t.trapLater { widthOverflow d x with perf := perf }
  | some r => ((t.setFreePat d r.pat).putFlags r.flags).retire

/-- Stores a received pattern in a waiting thread's destination and moves past the instruction. -/
def Thread.receivePat (d : Name) (p : Word) (t : Thread) : Thread := (t.setFreePat d p).retire

/-- A name's value as LDD reads a word: signed for a signed name, unsigned for an unsigned one (R237). -/
def Thread.loadVal (t : Thread) (d : Name) (w : Nat) : Int := if (t.name d).kind = .signed then patVal .signed 64 w else w

/-- A 64-bit word received by LDD's rules: narrowed with flags, or the pattern for an f64 name (R237, R246). -/
def Thread.receiveWord (d : Name) (w : Nat) (perf : Bool) (t : Thread) : Thread :=
  if (t.name d).kind.isFloat then t.receivePat d (BitVec.ofNat 64 w) else t.receive d (t.loadVal d w) perf

/-- Fills the entry that a parked instruction has reserved for a destination (R160). -/
def State.fillPush (s : State) (t : Thread) (d : Name) (p : Word) : State :=
  match t.pushes.find? (fun x => decide (x.name = d)) with
  | some x => s.fillEntry x.src x.dir x.id ((t.name d).ext p)
  | none => s

/-- What the destination of a completed wait pushes when it is bound to a link (R160). -/
def State.pushReceived (s : State) (p : Party) (d : Name) (x : Thread → Int) : State :=
  let t := s.partyThread p
  match t.narrow d (x t) with
  | some r => s.fillPush t d r.pat
  | none => s

/-- Completes a party's wait with a word for its destination (R140, R237, R246). -/
def State.deliverWord (s : State) (p : Party) (acq : Option Scope) (d : Name) (w : Nat) (perf : Bool) :
    State :=
  (s.pushReceived p d (fun t => t.loadVal d w)).completeParty p acq (Thread.receiveWord d w perf)

/-- An answer reaches the open window that awaits it; a name that has since become a trap-mode name takes it as in wrap mode
(log 40). -/
def Thread.fillStatus (t : Thread) (id code : Nat) : Thread :=
  let fill (e : InFlight) (j : Nat) (d : Name) : InFlight :=
    if j = id then
      match t.narrow d code, Machine.narrow (t.name d).kind (t.name d).width .wrap code with
      | some r, _ | none, some r => { e with result := { e.result with names := [(d, r.pat)], flags := r.flags }, awaits := .nothing }
      | none, none => e
    else e
  { t with inflight := t.inflight.map (fun e =>
      match e.awaits with
      | .offtake j d | .count j d => fill e j d
      | _ => e) }

/-! ## Leaving a slot (R139, R142) -/

/-- Frees a slot. -/
def State.freeSlot (s : State) (c i : Nat) : State := (s.setOcc c i .free).unparkOrder c i

/-- Writes the thread of a slot back as a record and frees the slot: release, image, record, wait lists renamed (R139,
R142). The caller enqueues it on a ready flume when it waits for nothing. -/
def State.spillSlot (s : State) (c i : Nat) (sc : Scope) : State :=
  match s.threadAt c i with
  | none => s
  | some t =>
    let (s0, t1) := (s.landSlotStores c i).landAll t
    let s1 := s0.release c sc
    let s2 := s1.writeRecord { t1 with inflight := [], placing := false } (s.dev.dieOf c)
    (s2.renameParty (.slot c i) (.record t.ctx t.recIx)).freeSlot c i

/-- Whether a thread is never taken out of its slot by a spill or YIELD: a runnel link, noria resources, a handler
registration, a tailwater handler (R136, R138, R280, R293). -/
def State.pinned (s : State) (c : Nat) (t : Thread) : Bool :=
  t.names.toList.any (fun n => match n.bind with | .link _ => true | _ => false) || t.handler.isSome ||
  (let q := s.quad (c / 4)
   q.tiles.toList.any (fun x => decide (x.holder = some (t.ctx, t.recIx))) ||
   q.bslots.toList.any (fun x => decide (x.holder = some (t.ctx, t.recIx)))) ||
  (match (s.core c).handler with | some h => decide (h.ctx = t.ctx ∧ h.recIx = t.recIx) | none => false)

/-- Whether a wait is one in which a thread may be spilled (R138). -/
def Wait.spillable : Wait → Bool
  | .fullEmpty | .flume | .group | .reservation => true
  | _ => false

/-- Whether a wait is no park: the instruction awaits the answer of a port or of the noria (R128, R289, R369). -/
def Wait.answer : Wait → Bool
  | .offtake _ _ | .noria _ _ => true
  | _ => false

/-- Whether a thread in a slot may be spilled where it is parked (R138). -/
def State.spillable (s : State) (core : Nat) (t : Thread) : Bool :=
  (match t.wait with | some w => w.spillable | none => false) && t.frozen.isNone && !t.placing && !s.pinned core t

/-- Performs the next operation of a core's repack queue (R46). A thread that has been woken since its spill was requested
stays. -/
def State.repackOne (s : State) (c : Nat) : State :=
  match (s.core c).repackq with
  | [] => s
  | op :: rest =>
    let s1 := s.setCore c { s.core c with repackq := rest }
    match op with
    | .place i => s1.placeSpan c i []
    | .spill i ctx k =>
      match s.threadAt c i with
      | some t =>
        if t.ctx = ctx ∧ t.recIx = k ∧ s.spillable c t ∧ t.quiet then s1.spillSlot c i .die else s1
      | none => s1

/-- Performs every queued operation of a core. -/
def State.repackAll (s : State) (c : Nat) : Nat → State
  | 0 => s
  | n + 1 => (s.repackOne c).repackAll c n

/-- Writes the thread of a slot back at once, after what the repack engine holds (R46). -/
def State.spillNow (s : State) (c i : Nat) (sc : Scope) : State :=
  (s.repackAll c (s.core c).repackq.length).spillSlot c i sc

/-- Whether a core has a slot that is free and not reserved, and the lowest such. -/
def State.freeSlotOf (s : State) (c : Nat) : Option Nat :=
  (List.range 16).find? (fun i => let x := (s.core c).slot i; decide (x.occ = .free) && !x.reserved)

/-- Whether a context's threads may issue: the device is ready, and the context is not draining or drained (R328, R375). -/
def State.ctxRuns (s : State) (ctx : Nat) : Bool :=
  decide (s.dev.bootState = 1) &&
  match s.ctxOf ctx with
  | some x => decide (x.rstate = 1)
  | none => true

/-! ## Token events (R268) -/

/-- Whether every token that a WAITK names is where it waits for (R269). -/
def Thread.tokensMet (t : Thread) (mask : Nat) (kind : TokKind) : Bool :=
  ((List.range 8).filter (fun k => bit1 mask k)).all (fun k =>
    decide (t.tok k = 0 ∨ t.tok k = 3) || (decide (kind = .src) && decide (t.tok k = 2)))

/-- The acquire that follows a WAITK (R269). -/
def waitkScope (kind : TokKind) : Option Scope := if kind = .src then none else some .dev

/-- A token event at a thread; a WAITK that it satisfies completes (R268, R269). -/
def Thread.tokEvent (k v : Nat) (t : Thread) : Thread :=
  let t1 := t.setTok k v
  match t1.wait with
  | some (.tokens mask kind) => if t1.tokensMet mask kind then t1.retire.awake (waitkScope kind) else t1
  | _ => t1

/-- A token event reaches the thread that a record belongs to: resident, spilled, or retiring. -/
def State.setThreadTok (s : State) (ctx k tok v : Nat) : State :=
  match s.findThread ctx k with
  | some (c, i) =>
    let s1 := s.modThread c i (Thread.tokEvent tok v)
    if (s1.threadAt c i).all (fun t => t.wait.isNone) then s1.unparkOrder c i else s1
  | none =>
    match s.ctxOf ctx with
    | none => s
    | some x =>
      match x.recInfo k with
      | none => s
      | some r =>
        if r.retiring then s.returnRecord ctx k (Machine.setTok r.toks tok v)
        else
          let a := x.recAddr k + 0x10
          let w := s.sysWord ctx a
          let toks := Machine.setTok (BitVec.ofNat 16 (bits w 12 16)) tok v
          s.sysPut ctx a (w - bits w 12 16 * 2 ^ 12 + toks.toNat * 2 ^ 12)

/-- A token's state at the thread that a record belongs to. -/
def State.threadTok (s : State) (ctx k tok : Nat) : Nat :=
  match s.findThread ctx k with
  | some (c, i) => match s.threadAt c i with | some t => t.tok tok | none => 0
  | none =>
    match s.ctxOf ctx with
    | none => 0
    | some x =>
      match x.recInfo k with
      | none => 0
      | some r => if r.retiring then bits r.toks.toNat (2 * tok) 2 else bits (s.sysWord ctx (x.recAddr k + 0x10)) (12 + 2 * tok) 2

end Sys2Proof.Machine
end

