-- ==== Sys2Proof/Machine/Sync.lean ====
section
/-! DEFINITION. Sync: atomics at their levels, full/empty words, queued reservations and groups, with the threads that
wait on them (R144 to R148, R218, R219, R224 to R226, R245, R246). -/

namespace Sys2Proof.Machine
open Sys2Proof

/-! ## Atomics (R198, R218, R219, R247) -/

/-- The wider of a scope's level and a policy's level (R198, R247). -/
def atomicLevel (sc : Scope) (pol : Nat) : Level :=
  if scopeLevel sc = .home ∨ pol = 2 then .home
  else if scopeLevel sc = .l2 ∨ pol = 1 then .l2
  else .l1

/-- An indivisible read-modify-write of the bytes of a piece, as a little-endian number, at the level of a scope: the
prior number (R218, R219). `f` answers none to leave the bytes as they are. A word of a marked slot is log 108's. -/
def State.atomicAt (s : State) (core : Nat) (sc : Scope) (x : Piece) (f : Nat → Option Nat) : Nat × State :=
  match x.loc with
  | .sram c off =>
    let w := leNat (s.mem.sramRead c off x.n)
    (w, match f w with | some v => s.modMem (fun m => m.sramWrite c (bytesAt off (leBytes x.n v))) | none => s)
  | .global pa pol owner =>
    let s0 := s.settle core pa x.n
    let lv := atomicLevel sc pol
    if lv = .l1 then
      let (b, s1) := s0.load core 0 pa x.n
      let w := leNat b
      (w, match f w with | some v => s1.store core 0 owner pa (leBytes x.n v) | none => s1)
    else
      let (b, s1) := (s0.flushLine core (pa / 64)).levelRead lv (s.dev.dieOf core) pa x.n
      let w := leNat b
      (w, match f w with | some v => s1.levelWrite lv (s.dev.dieOf core) owner (bytesAt pa (leBytes x.n v)) | none => s1)

/-- Whether a piece lies in memory that another device keeps (R353). -/
def State.remotePiece (s : State) (x : Piece) : Bool :=
  match x.loc with
  | .global pa _ _ => decide (s.dev.paKind pa = .fabric)
  | _ => false

/-- The word that a piece names. -/
def Loc.word : Loc → WordLoc
  | .global pa _ _ => .global pa
  | .sram c off => .sram c off

/-! ## Full/empty words (R196, R245, R246) -/

/-- Whether a word's bit is full. -/
def State.isFull (s : State) (w : WordLoc) : Bool :=
  match w with
  | .global pa => decide (pa / 8 ∉ s.mem.empties)
  | .sram c off => decide (off / 8 ∉ (s.mem.sram c).empties)

/-- Sets a word's bit. -/
def State.setFull (s : State) (w : WordLoc) (full : Bool) : State :=
  let put (l : List Nat) (k : Nat) : List Nat := if full then eraseN k l else insertN k l
  match w with
  | .global pa => s.modMem (fun m => { m with empties := put m.empties (pa / 8) })
  | .sram c off => s.modMem (fun m =>
      let x := m.sram c
      m.putSram { x with empties := put x.empties (off / 8) })

/-- A word's value at the coherent level, for a waiter that its home completes. -/
def State.homeWord (s : State) (w : WordLoc) : Nat × State :=
  match w with
  | .global pa => let (b, s1) := s.levelRead .home 0 pa 8; (leNat b, s1)
  | .sram c off => (leNat (s.mem.sramRead c off 8), s)

/-- Writes a word's value at the coherent level. -/
def State.putHomeWord (s : State) (w : WordLoc) (v : Nat) : State :=
  match w with
  | .global pa => s.levelStore .home 0 0 pa (leBytes 8 v)
  | .sram c off => s.modMem (fun m => m.sramWrite c (bytesAt off (leBytes 8 v)))

/-- The poisoned word that a waiter at a word finds when its turn comes, as R315 names it. -/
def State.wordPoison (s : State) (w : WordLoc) (va : Word) : Option Nat :=
  s.homePoison [⟨va.toNat, match w with | .global pa => .global pa 2 0 | .sram c off => .sram c off, 8⟩]

/-- A parked instruction finds its word poisoned: it takes UNCORRECTABLE, and nothing is written (R315). The record of a thread
that stands in no slot names any slot (log 116). -/
def State.partyPoison (s : State) (p : Party) (va : Word) (addr : Nat) : State :=
  let t := s.partyThread p
  let trap := Thread.trapLater (mkTrap .uncorrectable va.toNat 0x100 0)
  match p with
  | .slot c i => (s.noteUncorrectable c i t addr 0x100 t.pc.toNat).wakeParty p none trap
  | .record _ _ =>
    let (k, s1) := s.choose (2 ^ 22)
    (s1.noteUncorrectable (k / 16) (k % 16) t addr 0x100 t.pc.toNat).wakeParty p none trap
  | .remote _ => s

/-- Whether a waiter's condition holds when the bit is `full`. -/
def FeOp.ready (op : FeOp) (full : Bool) : Bool :=
  match op with
  | .lde | .ldff => full
  | .stf _ => !full

/-- Completes a full/empty waiter: its step at the word, then its thread (R140, R245). One that finds the word poisoned takes
UNCORRECTABLE instead (R315, log 130). -/
def State.completeFe (s : State) (x : FeWaiter) : State :=
  match x.op, s.wordPoison x.loc x.va with
  | .lde, none =>
    let (v, s1) := s.homeWord x.loc
    (s1.setFull x.loc false).deliverWord x.who none x.dest v true
  | .ldff, none =>
    let (v, s1) := s.homeWord x.loc
    s1.deliverWord x.who none x.dest v (match x.who with | .record _ _ => true | _ => false)
  | _, some a => s.partyPoison x.who x.va a
  | .stf v, none => ((s.putHomeWord x.loc v.toNat).setFull x.loc true).completeParty x.who none Thread.retire

/-- Serves a word's list after a change of its bit: the oldest waiter whose condition holds is completed, and the scan
starts again, until a pass completes nothing (R245). -/
def State.serveFe (s : State) (w : WordLoc) : Nat → State
  | 0 => s
  | fuel + 1 =>
    match s.feWaits.find? (fun x => decide (x.loc = w) && x.op.ready (s.isFull w)) with
    | none => s
    | some x => ({ s with feWaits := s.feWaits.erase x }.completeFe x).serveFe w fuel

/-- Changes a word's bit and serves its list. -/
def State.changeFull (s : State) (w : WordLoc) (full : Bool) : State :=
  (s.setFull w full).serveFe w s.feWaits.length

/-! ## Queued reservations (R224 to R226) -/

/-- The home of a reservation (R224): of a word that another device keeps, at a scope beyond the die, that device's (R356). The
slices of a die are named by block (log 7). -/
def State.resHome (s : State) (core : Nat) (sc : Scope) (x : Piece) : ResHome :=
  match x.loc with
  | .sram c _ => .quad (c / 4)
  | .global pa _ _ =>
    if scopeLevel sc = .home then (if s.dev.paKind pa = .fabric then .remote else .base (s.dev.stackOf pa)) else .slice (s.dev.dieOf core) (blockOf pa)

/-- The level at which a reservation's word is read and stored: its home's. -/
def resLevel : ResHome → Level
  | .base _ | .remote => .home
  | _ => .l2

/-- The holder of a word at a home. -/
def State.holder (s : State) (h : ResHome) (w : WordLoc) : Option ResEntry :=
  s.resvs.find? (fun e => decide (e.home = h ∧ e.loc = w) && e.granted)

/-- Whether a thread holds a word at a home. -/
def State.holds (s : State) (h : ResHome) (w : WordLoc) (ctx k : Nat) : Bool :=
  match s.holder h w with
  | some e => decide (e.ctx = ctx ∧ e.recIx = k)
  | none => false

/-- Reservations that a home has admitted: it takes up to 2,048 (R225). -/
def State.admitted (s : State) (h : ResHome) : Nat :=
  (s.resvs.filter (fun e => decide (e.home = h) && e.admitted)).length

/-- The die whose L2 serves a home's reads. -/
def resDie : ResHome → Nat
  | .slice d _ => d
  | _ => 0

/-- The word of a reservation at its home. -/
def State.resWord (s : State) (h : ResHome) (w : WordLoc) : Nat × State :=
  match w with
  | .global pa => let (b, s1) := s.levelRead (resLevel h) (resDie h) pa 8; (leNat b, s1)
  | .sram c off => (leNat (s.mem.sramRead c off 8), s)

/-- A granted reservation's word reaches its holder (R225, R250). A value that a trap-mode name cannot hold leaves the name and
every flag as they were, with WIDTH_OVERFLOW to be taken (R11, R25; log 21). -/
def State.deliverReserved (s : State) (e : ResEntry) (v : Nat) : State :=
  (s.pushReceived e.who e.dest (fun t => t.loadVal e.dest v)).completeParty e.who (some e.scope) (fun t =>
    match t.narrow e.dest (t.loadVal e.dest v) with
    | none => t.trapLater (widthOverflowPerf e.dest (t.loadVal e.dest v))
    | some r => ((t.setFreePat e.dest r.pat).putFlags (r.flags.withZ true)).retire)

/-- The poison that a reservation's word carries at its home, as R315 names it. -/
def State.resPoison (s : State) (h : ResHome) (w : WordLoc) (va : Word) : Option Nat :=
  match w with
  | .global pa =>
    if resLevel h = .home ∨ s.dev.paKind pa ≠ .hbm then s.wordPoison w va
    else (s.mem.peekPoison (resDie h) pa 8).map (8 * ·)
  | .sram _ _ => s.wordPoison w va

/-- Grants a word to the first admitted waiter in its queue, if nobody holds it; the queue of a word that another device keeps
stands there (R225, R356). A waiter that finds the word poisoned leaves the queue with UNCORRECTABLE, and the next one is asked
(R315). -/
def State.grantFrom (s : State) (h : ResHome) (w : WordLoc) : Nat → State
  | 0 => s
  | fuel + 1 =>
    if h = .remote ∨ (s.holder h w).isSome then s
    else
      match s.resvs.find? (fun e => decide (e.home = h ∧ e.loc = w) && e.admitted && !e.granted) with
      | none => s
      | some e =>
        match s.resPoison h w e.va with
        | some a => (({ s with resvs := s.resvs.erase e }).partyPoison e.who e.va a).grantFrom h w fuel
        | none =>
          let s1 := { s with resvs := s.resvs.map (fun x => if x = e then { e with granted := true } else x) }
          let (v, s2) := s1.resWord h w
          s2.deliverReserved e v

/-- Grants a word to the next in its queue (R225). -/
def State.grantNext (s : State) (h : ResHome) (w : WordLoc) : State := s.grantFrom h w s.resvs.length

/-- The holder of a word hands it on (R226). -/
def State.handOn (s : State) (e : ResEntry) : State :=
  ({ s with resvs := s.resvs.erase e }).grantNext e.home e.loc

/-- Admits the first waiter that a full home turned away, if it now has room (R225). -/
def State.admitNext (s : State) (h : ResHome) : State :=
  if 2048 ≤ s.admitted h then s
  else
    match s.resvs.find? (fun e => decide (e.home = h) && !e.admitted) with
    | none => s
    | some e =>
      ({ s with resvs := s.resvs.map (fun x => if x = e then { e with admitted := true } else x) }).grantNext h e.loc

/-! ## Groups (R144 to R148) -/

/-- A group word's fields (R144). -/
structure GroupWord where
  memb : Nat
  arrv : Nat
  phase : Nat
  scp : Nat
  rest : Nat
deriving DecidableEq, Repr

/-- A group word from its 16 bytes. -/
def GroupWord.ofNat (x : Nat) : GroupWord := ⟨bits x 0 32, bits x 32 32, bits x 64 16, bits x 80 3, bits x 83 45⟩

/-- The 16 bytes of a group word. -/
def GroupWord.toNat (g : GroupWord) : Nat :=
  g.memb + 2 ^ 32 * g.arrv + 2 ^ 64 * g.phase + 2 ^ 80 * g.scp + 2 ^ 83 * g.rest

/-- A malformed word (R144). -/
def GroupWord.malformed (g : GroupWord) : Bool :=
  decide (g.rest ≠ 0) || decide (g.scp = 7) || decide (g.memb < g.arrv) ||
    (decide (g.scp = 0) && decide (g.memb ≠ 0 ∨ g.arrv ≠ 0))

/-- A group word without an arrival that has been taken back (R328); ARRV wraps in its 32 bits (log 129). -/
def GroupWord.unarrived (g : GroupWord) : GroupWord := { g with arrv := (g.arrv + 2 ^ 32 - 1) % 2 ^ 32 }

/-- The scope of a group: SCP less one (R144); of a word that names none, which no member has joined, the core (log 121). -/
def GroupWord.scope (g : GroupWord) : Scope := (scopeOf (g.scp - 1)).getD .core

/-- The barrier in progress completes: the phase advances, nobody has arrived (R148). -/
def GroupWord.complete (g : GroupWord) : GroupWord := { g with phase := (g.phase + 1) % 65536, arrv := 0 }

/-- A word after a member has left (R146, R147). With MEMB 0 there is nobody to take away: the count stays 0 and the group
dissolves (log 90). -/
def GroupWord.leave (g : GroupWord) : GroupWord :=
  let h := { g with memb := g.memb - 1 }
  if h.memb = 0 then { h with arrv := 0, scp := 0 } else if h.arrv = h.memb then h.complete else h

/-- The key under which a group word's waiters are kept. -/
def Loc.key : Loc → Nat
  | .global pa _ _ => pa
  | .sram c off => 2 ^ 48 + c * 65536 + off

/-- Wakes the waiters of a group's phase, on whichever core they wait (log 109): each writes Z := 1 and acquires at the group's scope
(R146, R148). -/
def State.wakeGroup (s : State) (key phase : Nat) : State :=
  let out := s.groupWaits.filter (fun x => decide (x.pa = key ∧ x.phase = phase))
  let s1 := { s with groupWaits := s.groupWaits.filter (fun x => !decide (x.pa = key ∧ x.phase = phase)) }
  out.foldl (fun s x => s.completeParty x.who (some x.scope) (fun t => (t.putFlags (FlagWrite.onlyZ true)).retire)) s1

/-- A checked access to a group word by a thread, as an atomic of 16 bytes (R166). -/
def State.groupPiece (s : State) (t : Thread) (core : Nat) (addr : Nat) : Except Fail Piece × State :=
  match s.access t core .rmw addr 16 16 with
  | (.error f, s1) => (.error f, s1)
  | (.ok (x :: _), s1) => (.ok x, s1)
  | (.ok [], s1) => (.error (protection addr .rmw), s1)

/-- Reads a group word whose scope is not known yet: SCP at the die L2, then the word at the level of the scope that SCP names (R166,
log 126). -/
def State.groupRead (s : State) (core : Nat) (x : Piece) : GroupWord × State :=
  let (w0, s1) := s.atomicAt core .quad x (fun _ => none)
  let g0 := GroupWord.ofNat w0
  if g0.scp = 0 ∨ g0.scp = 7 then (g0, s1)
  else
    let (w, s2) := s1.atomicAt core g0.scope x (fun _ => none)
    (GroupWord.ofNat w, s2)

/-- A member leaves its group at the word: the release, the new word, the waiters it wakes (R146, R147). The caller has
checked that the word is well formed. -/
def State.leaveWord (s : State) (core : Nat) (x : Piece) (sc : Scope) : State :=
  let s1 := s.release core sc
  let (w, s2) := s1.atomicAt core sc x (fun w =>
    if (GroupWord.ofNat w).malformed then none else some (GroupWord.ofNat w).leave.toNat)
  let g := GroupWord.ofNat w
  if !g.malformed && decide (g.leave.phase ≠ g.phase) then s2.wakeGroup x.loc.key g.phase else s2

/-- The LEAVE that QUIT performs on a handle: a fault or a malformed word leaves the word as it is (R135). A poisoned word is left as
a clean one is (log 122). -/
def State.quitLeave (s : State) (core : Nat) (t : Thread) (addr : Nat) : State :=
  let t0 := { t with dbgctl := { t.dbgctl with den := false } }
  match s.groupPiece t0 core addr with
  | (.error _, s1) => s1
  | (.ok x, s1) =>
    let (g, s2) := s1.groupRead core x
    if g.malformed then s2 else s2.leaveWord core x g.scope

/-! ## The end of a thread (R135) -/

/-- Hands on every reservation that a thread holds, each after a release at its scope (R135, R226). -/
def State.handAllOn (s : State) (core ctx k : Nat) : State :=
  (s.resvs.filter (fun e => decide (e.ctx = ctx ∧ e.recIx = k) && e.granted)).foldl
    (fun s e => (s.release core e.scope).handOn e) s

/-- The steps of QUIT but for returning the record and freeing the slot (R135, R331). -/
def State.quitSteps (s : State) (core : Nat) (t : Thread) : State :=
  let s1 := t.groups.toList.foldl (fun s g => match g with | some a => s.quitLeave core t a.toNat | none => s) s
  s1.handAllOn core t.ctx t.recIx

end Sys2Proof.Machine
end

