-- ==== Sys2Proof/Machine/Flume.lean ====
section
/-! DEFINITION. Flume: the flume controller: control blocks, adoption and checks, enqueue, dequeue, withdrawal
(R227 to R231, R251, R252, R254). -/

namespace Sys2Proof.Machine
open Sys2Proof

/-! ## The flume control block (R227) -/

/-- A flume control block; `rsv` are its reserved bits taken together. -/
structure Fcb where
  base : Nat
  head : Nat
  tail : Nat
  logcap : Nat
  esz : Nat
  scope : Nat
  policy : Bool
  home : Nat
  owner : Nat
  free : Nat
  drops : Nat
  err : Nat
  broken : Bool
  waite : Nat
  waitd : Nat
  check : Nat
  adopt : Bool
  rsv : Nat
deriving DecidableEq, Repr

/-- A control block from its eight words. -/
def Fcb.ofWords (w : List Nat) : Fcb :=
  let x (i : Nat) : Nat := w.getD i 0
  { base := x 0, head := x 1, tail := x 2
    logcap := bits (x 3) 0 5, esz := bits (x 3) 5 2, scope := bits (x 3) 7 3, policy := bit1 (x 3) 10
    home := bits (x 3) 12 5, owner := bits (x 3) 32 12
    free := bits (x 4) 0 32, drops := bits (x 4) 32 32
    err := bits (x 5) 0 8, broken := bit1 (x 5) 8
    waite := bits (x 6) 0 32, waitd := bits (x 6) 32 32
    check := bits (x 7) 0 32, adopt := bit1 (x 7) 32
    rsv := bits (x 3) 11 1 + 2 * bits (x 3) 17 15 + 2 ^ 16 * bits (x 3) 44 20 + 2 ^ 36 * bits (x 5) 9 55 +
      2 ^ 91 * bits (x 7) 33 31 }

/-- Words 0x00 to 0x30 of a control block. -/
def Fcb.words (f : Fcb) : List Nat :=
  [f.base, f.head % 2 ^ 64, f.tail % 2 ^ 64,
    f.logcap + 2 ^ 5 * f.esz + 2 ^ 7 * f.scope + 2 ^ 10 * f.policy.toNat + 2 ^ 11 * bits f.rsv 0 1 + 2 ^ 12 * f.home +
      2 ^ 17 * bits f.rsv 1 15 + 2 ^ 32 * f.owner + 2 ^ 44 * bits f.rsv 16 20,
    f.free % 2 ^ 32 + 2 ^ 32 * f.drops,
    f.err + 2 ^ 8 * f.broken.toNat + 2 ^ 9 * bits f.rsv 36 55,
    f.waite % 2 ^ 32 + 2 ^ 32 * (f.waitd % 2 ^ 32)]

/-- One bit of the CRC-32C division (polynomial of Castagnoli, bits reflected). -/
def crcBit (c : BitVec 32) : BitVec 32 := if c.getLsbD 0 then (c >>> 1) ^^^ 0x82F63B78 else c >>> 1

/-- One byte of the CRC. -/
def crcByte (c : BitVec 32) (b : Byte) : BitVec 32 :=
  crcBit (crcBit (crcBit (crcBit (crcBit (crcBit (crcBit (crcBit (c ^^^ b.setWidth 32))))))))

/-- CRC-32C of bytes (R227). -/
def crc32c (bs : List Byte) : Nat := ((bs.foldl crcByte 0xFFFFFFFF) ^^^ 0xFFFFFFFF).toNat

/-- The value that CHECK must hold (R227). -/
def Fcb.crc (f : Fcb) : Nat := crc32c (f.words.flatMap (leBytes 8))

/-- The bytes of a control block with CHECK computed. -/
def Fcb.sealed (f : Fcb) : List Byte :=
  (f.words ++ [f.crc + 2 ^ 32 * f.adopt.toNat + 2 ^ 33 * bits f.rsv 91 31]).flatMap (leBytes 8)

/-- Reads a control block at its home. -/
def State.fcbRead (s : State) (pa : Nat) : Fcb :=
  let bs := if s.dev.paKind pa = .hbm then s.mem.homePeek pa 64
    else (List.range 64).map (fun i => Config.externalByte s.freeCtr (pa + i))
  Fcb.ofWords ((List.range 8).map (fun i => wordAt bs (8 * i)))

/-- Writes a control block back at its home, holding the block alone, CHECK computed (R228). -/
def State.fcbWrite (s : State) (pa : Nat) (f : Fcb) : State := s.levelWrite .home 0 f.owner (bytesAt pa f.sealed)

/-- The element size in bytes (R227). -/
def Fcb.size (f : Fcb) : Nat := 8 * 2 ^ f.esz

/-- The scope of a flume. -/
def Fcb.scopeOf (f : Fcb) : Scope := (Sys2Proof.scopeOf f.scope).getD .host

/-- A legal configuration (R229 code 5). -/
def State.fcbLegal (s : State) (f : Fcb) : Bool :=
  decide (1 ≤ f.logcap ∧ f.logcap ≤ 24) && decide (f.scope ≤ 5) &&
  (if f.scope ≤ 2 then decide (f.home ≤ 15) && decide (f.home ∈ s.dev.diesUp)
   else decide (16 ≤ f.home ∧ f.home ≤ 27) && decide (f.home - 16 ∈ s.dev.stacksUp)) &&
  decide (f.base % f.size = 0) && decide (bits f.base 57 7 = 0) && decide (f.rsv = 0)

/-- The first check of R229 that an adopted control block fails. -/
def State.fcbFault (s : State) (f : Fcb) : Option Nat :=
  if f.check ≠ f.crc then some 1
  else if f.tail < f.head then some 2
  else if f.head + 2 ^ f.logcap < f.tail then some 3
  else if f.free + f.tail ≠ f.head + 2 ^ f.logcap then some 4
  else if !s.fcbLegal f then some 5
  else if f.broken then some 6
  else none

/-- Whether the controller may adopt a control block (R228). -/
def State.fcbAdoptable (s : State) (f : Fcb) : Bool :=
  decide (f.head = 0 ∧ f.tail = 0 ∧ f.free = 2 ^ f.logcap ∧ f.drops = 0 ∧ f.err = 0 ∧ f.waite = 0 ∧ f.waitd = 0 ∧
    f.check = 0) && !f.broken && s.fcbLegal f

/-- FLUME_CORRUPT at a control block's address (R229). -/
def flumeCorrupt (va code : Nat) : Trap := mkTrap .flumeCorrupt va code 0

/-- Puts a parked CPY's or COLL's token back where it was before the instruction (R298). -/
def FlumeWaiter.untie (w : FlumeWaiter) (t : Thread) : Thread :=
  match w.tok with
  | some (k, v) => t.setTok k v
  | none => t

/-- The controller that performs an operation of a die on a flume: the HOME base die's; of a flume whose HOME is a compute die
the operation's own die's, which reaches only the waiters that it keeps itself (R227, R351). -/
def Fcb.ctl (f : Fcb) (die : Nat) : Nat := if f.home < 16 then die else f.home

/-- Every thread parked on a broken flume is woken with the trap (R229). -/
def State.wakeBroken (s : State) (pa ctl code : Nat) : State :=
  let out := s.flumeWaits.filter (fun w => decide (w.fcb = pa ∧ w.ctl = ctl))
  let s1 := { s with flumeWaits := s.flumeWaits.filter (fun w => !decide (w.fcb = pa ∧ w.ctl = ctl)) }
  out.foldl (fun s w => s.wakeParty w.who none (fun t => (w.untie t).trapLater (flumeCorrupt w.va.toNat code))) s1

/-- Why a controller turns an operation away. -/
inductive FlumeErr where
  | corrupt (code : Nat)
  | owner
  | size
deriving DecidableEq, Repr

/-- Adoption and the checks of R229 at the start of an operation of a die: the control block, or the code (R228, R229). -/
def State.fcbCheck (s : State) (die pa : Nat) : Except Nat Fcb × State :=
  let f := s.fcbRead pa
  if !f.adopt then
    if s.fcbAdoptable f then (.ok { f with adopt := true }, s.fcbWrite pa { f with adopt := true })
    else (.error 7, s.wakeBroken pa (f.ctl die) 7)
  else
    match s.fcbFault f with
    | none => (.ok f, s)
    | some code =>
      let g := { f with err := if f.broken then f.err else code, broken := true }
      (.error code, (s.fcbWrite pa g).wakeBroken pa (f.ctl die) code)

/-- The start of every operation: adoption, the checks of R229, OWNER, the size code (R228). -/
def State.fcbOpen (s : State) (die pa ctx : Nat) (esz : Option Nat) : Except FlumeErr Fcb × State :=
  match s.fcbCheck die pa with
  | (.error code, s1) => (.error (.corrupt code), s1)
  | (.ok g, s1) =>
    if g.owner ≠ ctx then (.error .owner, s1)
    else match esz with
      | some k => if k ≠ g.esz then (.error .size, s1) else (.ok g, s1)
      | none => (.ok g, s1)

/-! ## Elements -/

/-- The address of slot `i` (R227). -/
def Fcb.slotAddr (f : Fcb) (i : Nat) : Nat := f.base + i % 2 ^ f.logcap * f.size

/-- Writes an element's words to slot `i`. -/
def State.putElem (s : State) (f : Fcb) (i : Nat) (e : List Word) : State :=
  s.sysWrite f.owner (f.slotAddr i) (((List.range (2 ^ f.esz)).map (fun j => (e.getD j 0).toNat)).flatMap (leBytes 8))

/-- Reads the words of slot `i`. -/
def State.getElem (s : State) (f : Fcb) (i : Nat) : List Word :=
  let bs := s.sysRead f.owner (f.slotAddr i) f.size
  (List.range (2 ^ f.esz)).map (fun j => BitVec.ofNat 64 (wordAt bs (8 * j)))

/-- Part `j` of an element received into a name: narrowed without a flag, the pattern for an f64 name (R252). -/
def Thread.receivePart (t : Thread) (d : Name) (w : Word) : Word :=
  if (t.name d).kind.isFloat then w
  else match t.narrow d (t.loadVal d w.toNat) with
    | some r => r.pat
    | none => (t.name d).pat

/-- The names that take an element's parts, with their patterns. -/
def Thread.parts (t : Thread) (d : Name) (e : List Word) : List (Name × Word) :=
  ((List.range e.length).zip e).map (fun p =>
    let n : Name := Fin.ofNat 64 (d.val + p.1)
    (n, t.receivePart n p.2))

/-- An element reaches the name of a QBIND read: narrowed as for a resident thread's name, as its low bits for a spilled one's, and
held there (R140, R254). -/
def Thread.holdElement (d : Name) (w : Word) (spilled : Bool) (t : Thread) : Thread :=
  match (t.name d).bind with
  | .flume h _ =>
    let p := if spilled then BitVec.ofNat 64 (w.toNat % 2 ^ (t.name d).width) else t.receivePart d w
    t.setName d { t.name d with bind := .flume h (some p) }
  | _ => t

/-- What a dequeuing thread's bound destinations push (R160). -/
def State.pushParts (s : State) (p : Party) (ps : Thread → List (Name × Word)) : State :=
  let t := s.partyThread p
  (ps t).foldl (fun s q => s.fillPush t q.1 q.2) s

/-- Completes a parked dequeuer with an element (R140, R230). -/
def State.completeDeq (s : State) (w : FlumeWaiter) (sc : Scope) (e : List Word) : State :=
  if w.qbind then
    let spilled := match w.who with | .record _ _ => true | _ => false
    s.wakeParty w.who (some sc) (Thread.holdElement w.dest (e.getD 0 0) spilled)
  else
    (s.pushParts w.who (fun t => t.parts w.dest e)).completeParty w.who (some sc) (fun t =>
      ((t.parts w.dest e).foldl (fun t p => t.setFreePat p.1 p.2) t).retire)

/-- Completes a parked enqueuer (R230). -/
def State.completeEnq (s : State) (w : FlumeWaiter) : State := s.completeParty w.who none Thread.retire

/-- The oldest waiter of a flume on one of a controller's lists. -/
def State.oldest (s : State) (pa ctl : Nat) (enq : Bool) : Option FlumeWaiter :=
  s.flumeWaits.find? (fun w => decide (w.fcb = pa ∧ w.ctl = ctl ∧ w.enq = enq))

/-- How an enqueue or a dequeue ends at the controller. -/
inductive FlumeOut where
  | done (e : List Word)
  | full
  | wait
deriving DecidableEq, Repr

/-- The element of an ENQ is handed to the oldest parked dequeuer of the controller; where the control block counts one that
the controller does not keep, nobody receives it (R230, log 96). -/
def State.handElem (s : State) (pa : Nat) (f : Fcb) (ctl : Nat) (e : List Word) : State :=
  match s.oldest pa ctl false with
  | some w => ({ s with flumeWaits := s.flumeWaits.erase w }).completeDeq w f.scopeOf e
  | none => s

/-- The oldest parked enqueuer's element goes into slot TAIL, and it completes; where the control block counts one that the
controller does not keep, the slot holds what it held (R230, log 96). -/
def State.takeElem (s : State) (pa : Nat) (f : Fcb) (ctl : Nat) : State :=
  match s.oldest pa ctl true with
  | some w => (({ s with flumeWaits := s.flumeWaits.erase w } : State).putElem f f.tail w.elem).completeEnq w
  | none => s

/-- ENQ of a die at the controller, the checks passed (R230): done, reported FULL, or it must wait. -/
def State.flumeEnq (s : State) (die pa : Nat) (f : Fcb) (e : List Word) : FlumeOut × State :=
  if 0 < f.waitd then
    (.done [], (s.fcbWrite pa { f with head := f.head + 1, tail := f.tail + 1, waitd := f.waitd - 1 }).handElem pa f (f.ctl die) e)
  else if 0 < f.free then
    (.done [], (s.putElem f f.tail e).fcbWrite pa { f with tail := f.tail + 1, free := f.free - 1 })
  else if f.policy then (.full, s.fcbWrite pa { f with drops := min (f.drops + 1) (2 ^ 32 - 1) })
  else (.wait, s)

/-- DEQ of a die at the controller, the checks passed (R230): the element, or it must wait. -/
def State.flumeDeq (s : State) (die pa : Nat) (f : Fcb) : FlumeOut × State :=
  if f.head < f.tail then
    let g := { f with head := f.head + 1, free := f.free + 1 }
    if 0 < f.waite then
      (.done (s.getElem f f.head), (s.fcbWrite pa { g with tail := g.tail + 1, free := g.free - 1, waite := g.waite - 1 }).takeElem
        pa f (f.ctl die))
    else (.done (s.getElem f f.head), s.fcbWrite pa g)
  else (.wait, s)

/-- Appends a waiter to its list (R230). -/
def State.flumeWait (s : State) (f : Fcb) (w : FlumeWaiter) : State :=
  let g := if w.enq then { f with waite := f.waite + 1 } else { f with waitd := f.waitd + 1 }
  { s.fcbWrite w.fcb g with flumeWaits := s.flumeWaits ++ [w] }

/-- The withdrawal of a parked thread from a flume (R231, R328), an operation as any other: the control block is checked; if it
passes, the count falls and HEAD and TAIL are answered; if not, every waiter is woken with the trap. A count of 0 stays 0
(log 96). -/
def State.flumeWithdraw (s : State) (w : FlumeWaiter) : Option (Nat × Nat) × State :=
  match s.fcbCheck w.ctl w.fcb with
  | (.ok f, s1) =>
    let g := if w.enq then { f with waite := f.waite - 1 } else { f with waitd := f.waitd - 1 }
    (some (f.head, f.tail), { s1.fcbWrite w.fcb g with flumeWaits := s1.flumeWaits.erase w })
  | (.error code, s1) =>
    if w ∈ s1.flumeWaits then
      (none, ({ s1 with flumeWaits := s1.flumeWaits.erase w } : State).wakeParty w.who none
        (fun t => (w.untie t).trapLater (flumeCorrupt w.va.toNat code)))
    else (none, s1)

/-- A W form's limit is reached: the waiter is withdrawn and takes WAIT_EXPIRED, or FLUME_CORRUPT with every other
waiter (R231). -/
def State.flumeExpire (s : State) (w : FlumeWaiter) : State :=
  match s.flumeWithdraw w with
  | (none, s1) => s1
  | (some (h, t), s1) => s1.wakeParty w.who none (Thread.trapLater (mkTrap .waitExpired w.va.toNat h t))

/-! ## Handles (R251) -/

/-- The checks of a handle at issue: window, alignment, the global window, translation (R251). The failure reports the
handle. The controller makes the access, so no data match is raised (log 8). -/
def State.handleCheck (s : State) (t : Thread) (core : Nat) (h : Nat) : Except Fail Nat × State :=
  match windowFail core .rmw h with
  | some f => (.error f, s)
  | none =>
    if bits h 2 4 ≠ 0 then (.error ⟨4, mkTrap .align h 0 0⟩, s)
    else if ptrTag h ≠ 0 then (.error (protection h .rmw), s)
    else
      match s.access { t with dbgctl := { t.dbgctl with den := false } } core .rmw (h / 64 * 64) 64 64 with
      | (.error f, s1) => (.error { f with trap := { f.trap with addr := BitVec.ofNat 64 h } }, s1)
      | (.ok (⟨_, .global pa _ _, _⟩ :: _), s1) => (.ok pa, s1)
      | (.ok _, s1) => (.error (protection h .rmw), s1)

/-- The trap, or the frozen slot, that a controller's refusal gives the running thread (R228, R229, R251, R323). -/
def State.flumeRefused (s : State) (h : Nat) (e : FlumeErr) : Out :=
  match e with
  | .corrupt code => s.trap (flumeCorrupt (h / 64 * 64) code)
  | .size => s.trap (flumeCorrupt (h / 64 * 64) 0)
  | .owner =>
    let s1 := s.settleWindows.vectorDone s.cur.1 s.cur.2
    let (s2, t) := s1.freeze s1.cur.1 s1.cur.2 s1.thr (s1.thr.held (mkTrap .protection h 3 0)) 1 h
    .next { s2 with thr := t }

/-- Whether a control block's address is another device's (R356). -/
def State.remotePa (s : State) (pa : Nat) : Bool := decide (s.dev.paKind pa = .fabric)

/-! ## Requests to other devices (R356) -/

/-- How another device's controller takes a request: it is done, the thread waits, or it is refused. -/
inductive RemoteNow where
  | done
  | later
  | refused (e : FlumeErr)
deriving DecidableEq, Repr

/-- What another device's controller answers, which nothing here tells: a free value (R356, log 13). -/
def State.remoteNow (s : State) : RemoteNow × State :=
  let (k, s1) := s.choose 4
  match k with
  | 0 => (.done, s1)
  | 1 => (.later, s1)
  | 2 => let (c, s2) := s1.choose 8; (.refused (.corrupt c), s2)
  | _ => (.refused .owner, s1)

/-- The running thread waits for another device's answer. -/
def State.remoteWait (s : State) (op : RemoteOp) (va : Nat) (limited : Bool) (tok : Option (Nat × Nat)) : State :=
  { s with remoteWaits := s.remoteWaits ++ [⟨s.me, op, BitVec.ofNat 64 va, limited, tok⟩] }

/-- An element that another device's flume delivers: a free value (R356, log 13). -/
def State.remoteElem (s : State) (pa n : Nat) : List Word × State :=
  let (bs, s1) := s.externalRead pa (8 * n)
  ((List.range n).map (fun i => BitVec.ofNat 64 (wordAt bs (8 * i))), s1)

/-- A parked CPY's or COLL's token put back. -/
def RemoteWait.untie (w : RemoteWait) (t : Thread) : Thread :=
  match w.tok with
  | some (k, v) => t.setTok k v
  | none => t

end Sys2Proof.Machine
end

