-- ==== Sys2Proof/Machine/Operands.lean ====
section
/-! DEFINITION. Operands: what an instruction uses (names and the kinds it needs, registers, flags, privilege), the checks
of that use in the order of R29, and the waits of bound names (R12, R19, R29, R33, R102, R160, R161, R231, R254). -/

namespace Sys2Proof.Machine
open Sys2Proof

/-- What a name must be (R33, R102). -/
inductive Need where
  | int
  | float
  | any
  | kind (k : Kind)
  | floatIn (ks : List Kind)
  | intOr (ks : List Kind)
  | u64
  | elem
deriving DecidableEq, Repr

/-- Whether a declared name meets a need. -/
def Need.ok : Need → NameCell → Bool
  | .int, c => !c.kind.isFloat
  | .float, c => c.kind.isFloat
  | .any, _ => true
  | .kind j, c => decide (j = c.kind)
  | .floatIn ks, c => decide (c.kind ∈ ks)
  | .intOr ks, c => !c.kind.isFloat || decide (c.kind ∈ ks)
  | .elem, c => (!c.kind.isFloat && decide (c.mode ≠ .trap)) || decide (c.kind = .f64)
  | .u64, c => decide (c.kind = .unsigned ∧ c.width = 64)

/-- Which flags an instruction reads: SEL reads Z, BSF reads SF, MFF reads all five (R17). -/
inductive FlagRead where
  | none | z | sf | all
deriving DecidableEq, Repr

/-- What an instruction uses: whether it is privileged, the names it reads and writes with what they must be, the names of
which it uses the declaration alone (R33, R110), the vector registers, and the flags it reads. -/
structure Use where
  sys : Bool := false
  reads : List (Name × Need) := []
  decls : List (Name × Need) := []
  writes : List (Name × Need) := []
  vreads : List VReg := []
  vwrites : List VReg := []
  flags : FlagRead := .none
deriving DecidableEq, Repr

/-- Whether a name is bound to a link whose direction has no neighbour (R161). -/
def State.linkLost (s : State) (n : Name) : Bool :=
  match (s.thr.name n).bind with
  | .link l => (s.linkIn s.cur.1 l).isNone
  | _ => false

/-- A use of a name's declaration fails with MAP_FAULT (R33). -/
def State.declBad (s : State) (p : Name × Need) : Bool :=
  decide ((s.thr.name p.1).width = 0) || !p.2.ok (s.thr.name p.1)

/-- A use of a name fails with MAP_FAULT (R33, R161, R231). -/
def State.nameBad (s : State) (write : Bool) (p : Name × Need) : Bool :=
  let c := s.thr.name p.1
  s.declBad p || s.linkLost p.1 ||
    (write && (match c.bind with | .flume _ _ => true | _ => false))

/-- A use of an undeclared name (R33). -/
def State.undeclared (s : State) (p : Name × Need) : Bool := decide ((s.thr.name p.1).width = 0)

/-- The use of a name that MAP_FAULT names: an undeclared index before a name of the wrong kind (the order of R102), sources
in operand order before destinations (log 9). -/
def State.mapFail (s : State) (u : Use) : Option Trap :=
  match (u.reads ++ u.decls ++ u.writes).find? s.undeclared with
  | some p => some (mapFault p.1.val)
  | none =>
    match u.reads.find? (s.nameBad false) with
    | some p => some (mapFault p.1.val)
    | none => match u.decls.find? s.declBad with
      | some p => some (mapFault p.1.val)
      | none => match u.writes.find? (s.nameBad true) with
        | some p => some (mapFault p.1.val)
        | none => none

/-- Whether an instruction writes a flag that is read. One that narrows counts as a writer of SF, which its narrowing may
set (R11, R17; log 84). -/
def FlagRead.meets (r : FlagRead) (f : FlagWrite) : Bool :=
  match r with
  | .none => false
  | .z => f.z.isSome
  | .sf => f.sf || f.v.isSome
  | .all => f.any || f.sf

/-- Whether an open window forbids a use (R19): a read of its destination or of a flag it writes, or a write of a name or
register of its destination. -/
def InFlight.clashes (e : InFlight) (t : Thread) (u : Use) : Bool :=
  let ns := e.result.names.map Prod.fst
  let linkPushes := !e.result.pushes.isEmpty
  e.lkchk &&
    ((u.reads ++ u.writes).any (fun p => decide (p.1 ∈ ns ∧ p.1 ≠ 63)) ||
     (u.vreads ++ u.vwrites).any (fun v => decide (v ∈ e.result.vregs.map Prod.fst)) ||
     u.flags.meets e.result.flags ||
     (linkPushes && u.writes.any (fun p => match (t.name p.1).bind with | .link _ => true | _ => false)))

/-- LOOKAHEAD_VIOLATION, naming the window's instruction (R19). -/
def State.lookFail (s : State) (u : Use) : Option Trap :=
  (s.thr.inflight.find? (fun e => e.clashes s.thr u)).map (fun e => mkTrap .lookaheadViolation 0 e.pc.toNat 0)

/-- PRIVILEGE, MAP_FAULT and LOOKAHEAD_VIOLATION, in that order (R29). -/
def State.useFail (s : State) (u : Use) : Option Trap :=
  if u.sys && !s.thr.privl.priv then some (mkTrap .privilege 0 0 0)
  else match s.mapFail u with
    | some t => some t
    | none => s.lookFail u

/-- The names read that a link or flume feeds, each once. -/
def State.boundReads (s : State) (u : Use) : List Name :=
  ((u.reads.map Prod.fst).filter (fun n => decide ((s.thr.name n).bind ≠ .none))).eraseDups

/-- The names written that a link carries away. -/
def State.boundWrites (s : State) (u : Use) : List Name :=
  ((u.writes.map Prod.fst).filter (fun n => decide ((s.thr.name n).bind ≠ .none))).eraseDups

/-- Whether no name that an instruction uses is bound. -/
def State.unbound (s : State) (u : Use) : Bool := (s.boundReads u).isEmpty && (s.boundWrites u).isEmpty

/-- Entries of other contexts at the heads of the runnels that are read are discarded (R162). -/
def State.clearForeign (s : State) (ns : List Name) : State :=
  ns.foldl (fun s n =>
    match (s.thr.name n).bind with
    | .link l => match s.linkIn s.cur.1 l with
      | some (src, dir) => s.discardForeign s.cur.1 s.thr.ctx src dir (s.runnel src dir).length
      | none => s
    | _ => s) s

/-- Whether every runnel that is read holds an entry and every runnel that is written has room (R157, R160). -/
def State.runnelsReady (s : State) (rs ws : List Name) : Bool :=
  rs.all (fun n => match (s.thr.name n).bind with
    | .link l => match s.linkIn s.cur.1 l with
      | some (src, dir) => s.headReady s.thr.ctx src dir
      | none => true
    | _ => true) &&
  ws.all (fun n => match (s.thr.name n).bind with
    | .link l => match s.linkOut s.cur.1 l with
      | some (src, dir) => decide ((s.runnel src dir).length < 8)
      | none => true
    | _ => true)

/-- How the gathering of bound operands ends: ready to execute, or with an outcome of its own. -/
inductive Gather where
  | ready (s : State)
  | stop (o : Out)

/-- Dequeues the elements that reads of flume-bound names need and do not yet hold (R231, R254). -/
def State.gatherFlumes (s : State) : List Name → Gather
  | [] => .ready s
  | n :: rest =>
    match (s.thr.name n).bind with
    | .flume h none =>
      match s.handleCheck s.thr s.cur.1 h.toNat with
      | (.error f, s1) => .stop (s1.fail f)
      | (.ok pa, s1) =>
        if s1.remotePa pa then
          match s1.remoteNow with
          | (.done, s2) =>
            let (e, s3) := s2.remoteElem pa 1
            ((s3.acquire s3.cur.1 .fab).modThr (Thread.holdElement n (e.getD 0 0) false)).gatherFlumes rest
          | (.later, s2) =>
            .stop (.next (((s2.modThr Thread.unissue).remoteWait (.deq n 1 true) (h.toNat / 64 * 64) false none).parkBare .flume))
          | (.refused e, s2) => .stop (s2.flumeRefused h.toNat e)
        else
          match s1.fcbOpen (s1.dev.dieOf s1.cur.1) pa s1.thr.ctx (some 0) with
          | (.error e, s2) => .stop (s2.flumeRefused h.toNat e)
          | (.ok f, s2) =>
            match s2.flumeDeq (s2.dev.dieOf s2.cur.1) pa f with
            | (.done e, s3) =>
              ((s3.acquire s3.cur.1 f.scopeOf).modThr (Thread.holdElement n (e.getD 0 0) false)).gatherFlumes rest
            | (_, s3) =>
              .stop (.next (((s3.modThr Thread.unissue).flumeWait f
                ⟨pa, f.ctl (s3.dev.dieOf s3.cur.1), false, s3.me, [], n, true, false, none, h &&& ~~~(63 : Word), s3.thr.ctx⟩).parkBare .flume))
    | _ => s.gatherFlumes rest

/-- Brings the bound operands of an instruction: foreign entries discarded, runnels ready or the thread parked, elements
dequeued and held (R160, R162, R254). -/
def State.gather (s : State) (u : Use) : Gather :=
  if s.unbound u then .ready s
  else
    let s1 := s.clearForeign (s.boundReads u)
    if s1.runnelsReady (s1.boundReads u) (s1.boundWrites u) then
      (s1.modThr (fun t => { t with pushing := s1.boundWrites u })).gatherFlumes (s1.boundReads u)
    else .stop (.next ((s1.modThr Thread.unissue).parkBare (.runnel (s1.boundReads u) (s1.boundWrites u))))

/-! ## Instructions that run in steps (R120, R288) -/

/-- Whether a name of the running thread is bound to a link. -/
def State.linkBound (s : State) (n : Name) : Bool := match (s.thr.name n).bind with | .link _ => true | _ => false

/-- Whether the answer to a RINV or an MCHK arrives in a window: it has a lookahead, its narrowing cannot trap, and its destination is
not bound (R21, R310, R369, log 40). -/
def State.statusInWindow (s : State) (d : Name) (look : Look) : Bool :=
  decide (look.val ≠ 0) && decide ((s.thr.name d).mode ≠ .trap) && decide ((s.thr.name d).bind = .none)

/-- What a window holds whose answer has not come: its name and the flags (R17). -/
def awaited (d : Name) : Pending :=
  { Pending.none with names := [(d, 0)], flags := ⟨some false, some false, some false, some false, false⟩ }

/-- The names of an instruction after one of its steps, written together, not narrowed; what a link-bound name would hold is
kept beside it (log 11). -/
def State.stepNames (s : State) (vs : List (Name × Word)) : State :=
  let bound := vs.filter (fun p => s.linkBound p.1)
  s.modThr (fun t => (vs.foldl (fun t p => t.setFreePat p.1 p.2) t).setSteps bound)

/-- The end of an instruction that ran in steps: what it read of bound names is consumed, and the last values of the
link-bound names that it wrote are pushed (R160). -/
def State.endSteps (s : State) (reads writes : List Name) : Out :=
  let vs := (writes.filter s.linkBound).map (fun n => (n, s.pat n))
  (vs.foldl (fun s p => s.writeName p.1 p.2) (s.consume reads)).done

/-- The checks that every instruction passes before its own: privilege, map, lookahead, bound operands (R29, R102). -/
def State.guarded (s : State) (u : Use) (k : State → Out) : Out :=
  match s.useFail u with
  | some t => s.trap t
  | none =>
    match s.gather u with
    | .stop o => o
    | .ready s1 => k s1

/-- The same with a check of the instruction's own that needs no value of a bound name: tags, and the operand-dependent
checks of R85, which stand between the map and the memory checks (R29). -/
def State.guardedIf (s : State) (u : Use) (pre : State → Option Trap) (k : State → Out) : Out :=
  match s.useFail u with
  | some t => s.trap t
  | none =>
    match pre s with
    | some t => s.trap t
    | none =>
      match s.gather u with
      | .stop o => o
      | .ready s1 => k s1

/-- The names that an instruction reads. -/
def Use.names (u : Use) : List Name := u.reads.map Prod.fst

/-- Names taken as integers. -/
def ints (ns : List Name) : List (Name × Need) := ns.map (fun n => (n, .int))

/-- The names that a vector operand reads (R75, R176). -/
def opNames : VOp → List Name
  | .reg _ => []
  | .bcast n => [⟨n.val, by omega⟩]

/-- The registers that a vector operand reads. -/
def opRegs : VOp → List VReg
  | .reg v => [v]
  | .bcast _ => []

/-- Consecutive names from an index, as many as fit below 64. -/
def nameRun (d : Name) (k : Nat) : List Name :=
  (List.range k).filterMap (fun j => if h : d.val + j < 64 then some ⟨d.val + j, h⟩ else none)

/-- Consecutive vector registers from an index, as many as fit below 32. -/
def vregRun (v : VReg) (k : Nat) : List VReg :=
  (List.range k).filterMap (fun j => if h : v.val + j < 32 then some ⟨v.val + j, h⟩ else none)

/-- Instructions that first wait for the thread's issued long-latency instructions (R21, R135, R169): the state with them
complete, or none while one awaits an answer. -/
def State.quieted (s : State) : Option State := if s.thr.quiet then some s.settleWindows else none

end Sys2Proof.Machine
end

