-- ==== Sys2Proof/Machine/Repeat.lean ====
section
/-! DEFINITION. Repeat: the REP prefix: which instructions it may repeat, how it steps their fields, its checks, and its
start (R22 to R24, R80, R85 step 7, R126). -/

namespace Sys2Proof.Machine
open Sys2Proof

/-- What a register field of a repeated instruction is to a REP: not stepped, a name, a vector operand field (R23). -/
inductive StepKind where
  | no | name | vec
deriving DecidableEq, Repr

/-- The d, a and b fields of an instruction as a REP sees them. -/
structure StepKinds where
  d : StepKind
  a : StepKind
  b : StepKind
deriving DecidableEq, Repr

/-- Which of its fields [12:7], [18:13], [24:19] a REP may step: those that hold a name or a vector operand (R23, R126). A
token, a group handle and a reserved field are not names (log 10), nor is a field of a firmware-expansion word (log 104). -/
def stepKinds : Instr → StepKinds
  | .add _ _ _ | .sub _ _ _ | .mul _ _ _ | .mulh _ _ _ | .div _ _ _ | .divu _ _ _ | .rem _ _ _ | .remu _ _ _ 
  | .and _ _ _ | .or _ _ _ | .xor _ _ _ | .andn _ _ _ | .shl _ _ _ | .shr _ _ _ | .sra _ _ _ | .rol _ _ _ 
  | .min _ _ _ | .minu _ _ _ | .max _ _ _ | .maxu _ _ _ | .ceq _ _ _ | .cne _ _ _ | .clt _ _ _ | .cltu _ _ _ 
  | .cle _ _ _ | .cleu _ _ _ | .sel _ _ _ | .bfx _ _ _ | .bfi _ _ _ | .fadd _ _ _ | .fsub _ _ _ | .fmul _ _ _ 
  | .fdiv _ _ _ | .fmin _ _ _ | .fmax _ _ _ | .fceq _ _ _ | .fclt _ _ _ | .fcle _ _ _ | .fma _ _ _ _ 
  | .fms _ _ _ _ | .fnma _ _ _ _ | .bmov _ _ _ | .bset _ _ _ | .aadd _ _ _ _ | .amin _ _ _ _ | .aminu _ _ _ _ 
  | .amax _ _ _ _ | .amaxu _ _ _ _ | .aand _ _ _ _ | .aor _ _ _ _ | .axor _ _ _ _ | .aswp _ _ _ _ | .acas _ _ _ _ 
  | .enqn _ _ _ _ | .enqw _ _ _ | .deqw _ _ _ | .spawn _ _ _ | .barm _ _ _ _ | .bwait _ _ _ | .bpoll _ _ _ _ 
  | .mrun _ _ _ => ⟨.name, .name, .name⟩
  | .clz _ _ | .popc _ _ | .abs _ _ | .neg _ _ | .not _ _ | .mov _ _ | .addi _ _ _ | .andi _ _ _ | .ori _ _ _ 
  | .xori _ _ _ | .shli _ _ _ | .shri _ _ _ | .srai _ _ _ | .clti _ _ _ | .width _ _ | .fsqrt _ _ | .fclass _ _ 
  | .fneg _ _ | .fabs _ _ | .fcvt _ _ _ | .fcvti _ _ _ | .fcvtf _ _ _ | .ldb _ _ _ _ | .ldh _ _ _ _ | .ldw _ _ _ _ 
  | .ldd _ _ _ _ | .ldbu _ _ _ _ | .ldhu _ _ _ _ | .ldwu _ _ _ _ | .ldff _ _ _ | .stb _ _ _ _ | .sth _ _ _ _ 
  | .stw _ _ _ _ | .std _ _ _ _ | .lde _ _ _ | .stf _ _ _ | .stff _ _ _ _ | .feq _ _ _ _ | .lrw _ _ _ | .deq _ _ 
  | .deqn _ _ _ | .qstat _ _ _ _ | .qbind _ _ | .sptest _ _ | .spcast _ _ | .spmake _ _ | .spcore _ _ 
  | .berr _ _ _ | .bclr _ _ _ | .lstat _ _ _ | .mchk _ _ _ | .srng _ _ _ | .ctxsv _ _ | .ctxld _ _ 
  | .preempt _ _ _ | .unfreeze _ _ _ | .dtset _ _ _ | .spill _ _ | .rstat _ _ _ _ | .waitt _ _ => ⟨.name, .name, .no⟩
  | .rinv _ _ _ _ | .rinvw _ _ _ => ⟨.name, .name, .vec⟩
  | .ldk _ _ | .ldks _ _ | .resize _ _ | .mode _ _ | .mff _ | .csrr _ _ | .csrw _ _ | .tid _ _ | .gcnt _ _ _ 
  | .rotr _ | .link _ _ | .unlink _ | .ldirr _ | .toks _ _ | .larm _ _ | .lfire _ _ | .dtget _ _ | .tbr _ _ => ⟨.name, .no, .no⟩
  | .errpop _ _ => ⟨.name, .no, .vec⟩
  | .vext _ _ _ => ⟨.name, .vec, .name⟩
  | .vtag _ _ | .vsexr _ _ _ => ⟨.name, .vec, .no⟩
  | .radd _ _ _ | .rmin _ _ _ | .rmax _ _ _ | .ror _ _ _ | .rfadd _ _ _ | .sch _ _ _ | .enq _ _ | .mdrn _ _ _ 
  | .mhnd _ _ => ⟨.no, .name, .name⟩
  | .mtf _ | .jmpr _ _ | .callr _ _ | .fempty _ _ _ | .fefill _ _ _ | .lrx _ _ | .join _ _ _ | .rotw _ | .ldir _ 
  | .macq _ | .mrel _ => ⟨.no, .name, .no⟩
  | .cpy _ _ _ | .mmac _ _ _ _ | .coll _ _ _ => ⟨.no, .vec, .name⟩
  | .mldb _ _ => ⟨.no, .vec, .no⟩
  | .vins _ _ _ => ⟨.vec, .name, .name⟩
  | .vld _ _ _ _ | .vst _ _ _ _ | .vldx _ _ _ _ | .vstx _ _ _ _ | .vldb _ _ _ _ | .vgath _ _ _ _ | .vscat _ _ _ _ 
  | .vsexw _ _ _ => ⟨.vec, .name, .no⟩
  | .vabs _ _ | .vneg _ _ | .vmov _ _ | .vbcast _ _ _ | .vradd _ _ | .vrmax _ _ | .vrmin _ _ | .vsqrt _ _ _ 
  | .vcvt _ _ _ _ | .vdxq _ _ _ _ | .vretag _ _ _ => ⟨.vec, .vec, .no⟩
  | .vadd _ _ _ | .vsub _ _ _ | .vmul _ _ _ | .vmin _ _ _ | .vmax _ _ _ | .vminu _ _ _ | .vmaxu _ _ _ 
  | .vand _ _ _ | .vor _ _ _ | .vxor _ _ _ | .vshl _ _ _ | .vshr _ _ _ | .vsra _ _ _ | .vceq _ _ _ | .vclt _ _ _ 
  | .vcle _ _ _ | .vsel _ _ _ | .vperm _ _ _ | .vfma _ _ _ _ | .vfms _ _ _ _ | .vdiv _ _ _ _ => ⟨.vec, .vec, .vec⟩
  | .lpatch _ _ item _ => ⟨.name, .no, if item.val = 12 then .vec else .name⟩
  | _ => ⟨.no, .no, .no⟩

/-- The instructions that a REP may repeat (R23). -/
def repeatable : Instr → Bool
  | .beq _ _ _ | .bne _ _ _ | .blt _ _ _ | .bge _ _ _ | .bltu _ _ _ | .bgeu _ _ _ | .bsf _ | .jmp _ | .call _ 
  | .jmpr _ _ | .callr _ _ | .trap _ | .eret | .brk | .quit | .yield | .join _ _ _ | .leave _ | .gbar _ 
  | .link _ _ | .unlink _ | .ldir _ | .ctxsv _ _ | .ctxld _ _ | .preempt _ _ _ | .unfreeze _ _ _ | .errpop _ _ 
  | .dtset _ _ _ | .spill _ _ | .rep _ _ _ _ | .waitk _ _ | .yield16 | .quit16 => false
  | _ => true

/-- The control registers that a user may read (R12, R122). -/
def userCsr (c : Csr) : Bool := decide (c = .tbase ∨ c = .temps ∨ c = .volts ∨ c = .procm)

/-- Whether firmware has installed an expansion of a major on the die (R87). -/
def State.expansionOn (s : State) (major3F : Bool) : Bool :=
  decide (2 * s.dev.dieOf s.cur.1 + major3F.toNat ∈ s.dev.expansions)

/-- An increment code's step (R22). -/
def incOf (code : Nat) : Int := match code with | 1 => 1 | 2 => 2 | 3 => -1 | _ => 0

/-- A field's value at an iteration: the low five bits step in a vector operand field (R22, R23). -/
def steppedAt (k : StepKind) (base code i : Nat) : Int :=
  (if k = .vec then ((base % 32 : Nat) : Int) else (base : Int)) + (i : Int) * incOf code

/-- Whether a stepped value leaves its range or lands on n61 (R23). -/
def steppedBad (k : StepKind) (code : Nat) (v : Int) : Bool :=
  decide (code ≠ 0) && (decide (v < 0) || decide ((if k = .vec then 31 else 63) < v) || (decide (k = .name) && decide (v = 61)))

/-- The fields that a REP steps: kind, value in the word, increment code, in the order d, a, b. -/
def stepList (ks : StepKinds) (d a b cd ca cb : Nat) : List (StepKind × Nat × Nat) :=
  [(ks.d, d, cd), (ks.a, a, ca), (ks.b, b, cb)]

/-- The first stepped value that fails in iterations `i` to `i + n - 1`; of several in one iteration that of d, then a, then
b (R23, log 85). -/
def firstBad (fs : List (StepKind × Nat × Nat)) : Nat → Nat → Option Int
  | 0, _ => none
  | n + 1, i =>
    match (fs.map (fun f => (f.1, f.2.2, steppedAt f.1 f.2.1 f.2.2 i))).find? (fun p => steppedBad p.1 p.2.1 p.2.2) with
    | some p => some p.2.2
    | none => firstBad fs n (i + 1)

/-- func7 of the 32-bit equivalent of a short lane operation with V = 0 (R80). -/
def shortFunc0 : List Nat := [0, 1, 2, 8, 9, 10, 12, 13, 14, 16, 18, 34, 32, 33, 31, 22]

/-- func7 of the 32-bit equivalent of a short lane operation with V = 1 (R80). -/
def shortFunc1 : List Nat := [0, 1, 2, 7, 8, 9, 10, 11, 12, 3, 4, 19, 14, 0, 13, 16]

/-- Whether a 16-bit word is a short lane operation, of class 00 (R79). -/
def isShort (w : Nat) : Bool := decide (bits w 1 2 = 0)

/-- Whether a 16-bit word is a MOVIS, of class 10 (R79). -/
def isMovis (w : Nat) : Bool := decide (bits w 1 2 = 2)

/-- The fields of a repeated word that a REP steps, with the increments' codes; none where an increment is given for a
field that cannot be stepped (R23, R80, R126). -/
def repFields (i : Instr) (w len cd ca cb : Nat) : Option (List (StepKind × Nat × Nat)) :=
  if len = 4 then
    let ks := stepKinds i
    let bad (k : StepKind) (c : Nat) : Bool := decide (k = .no) && decide (c ≠ 0)
    if bad ks.d cd || bad ks.a ca || bad ks.b cb then none
    else some (stepList ks (bits w 7 6) (bits w 13 6) (bits w 19 6) cd ca cb)
  else if isShort w then
    let k : StepKind := if bit1 w 15 then .vec else .name
    if ca ≠ 0 then none else some [(k, bits w 7 4, cd), (k, bits w 11 4, cb)]
  else if isMovis w then
    if ca ≠ 0 ∨ cb ≠ 0 then none else some [(.name, bits w 3 4, cd)]
  else if cd ≠ 0 ∨ ca ≠ 0 ∨ cb ≠ 0 then none
  else some []

/-- A word with a 6-bit field stepped for an iteration. A value out of the field's range, which iterations that the REP did not examine
can reach, wraps modulo 64, in a vector field modulo 32, and one below 0 is 0 (log 119). -/
def stepField (w lo : Nat) (k : StepKind) (code i : Nat) : Nat :=
  if code = 0 then w
  else
    let base := bits w lo 6
    let v := (steppedAt k base code i).toNat % 64
    let v6 := if k = .vec then base / 32 * 32 + v % 32 else v
    w - base * 2 ^ lo + v6 * 2 ^ lo

/-- The 32-bit equivalent of a short lane operation with fields `d` and `b` (R80). -/
def shortWord (w d b : Nat) : Nat :=
  let op := bits w 3 4
  let v := bit1 w 15
  let func := (if v then shortFunc1 else shortFunc0).getD op 0
  let unary := decide (11 ≤ op ∧ op ≤ 14)
  let a' := if unary then b else d
  let b' := if unary then 0 else b
  1 + 2 * (if v then 0x1A else 0x01) + 2 ^ 7 * d + 2 ^ 13 * a' + 2 ^ 19 * b' + 2 ^ 25 * func

/-- The word that iteration `i` executes, with its length: the repeated word with its fields stepped, a short lane
operation as its 32-bit equivalent (R22, R80). -/
def iterWord (ins : Instr) (rword w len i : Nat) : Nat × Nat :=
  let cd := bits rword 9 2
  let ca := bits rword 11 2
  let cb := bits rword 13 2
  if len = 4 then
    let ks := stepKinds ins
    (stepField (stepField (stepField w 7 ks.d cd i) 13 ks.a ca i) 19 ks.b cb i, 4)
  else if isShort w && decide (cd ≠ 0 ∨ cb ≠ 0) then
    let k : StepKind := if bit1 w 15 then .vec else .name
    (shortWord w (steppedAt k (bits w 7 4) cd i).toNat (steppedAt k (bits w 11 4) cb i).toNat, 4)
  else if isMovis w && decide (cd ≠ 0) then
    let d := (steppedAt .name (bits w 3 4) cd i).toNat
    let imm := if bit1 w 13 then bits w 7 7 + 0x380 else bits w 7 7
    (1 + 2 * 0x02 + 2 ^ 7 * d + 2 ^ 13 * 63 + 2 ^ 22 * imm, 4)
  else (w, len)

/-- The repeat that a trap at the REP reports before any iteration runs: the index that rp holds (R24). -/
def repAt (rword w len rp : Nat) : RepCtx := ⟨rword, w, len, bits rp 7 7⟩

/-- REP (R22, R23): the checks of the pair, of rp and of every stepped field; then the repeat begins or resumes at the index in
rp. Every other cause of the repeated instruction, PRIVILEGE too, is its iteration's (R24, log 103). The repeated instruction
stands in the instruction register. -/
def execRep (count : Fin 64) (incD incA incB : Fin 4) (s : State) : Out :=
  let rword := s.thr.ir.word
  let rpc := s.thr.name 61
  let rp := if rpc.width = 0 then 0 else rpc.pat.toNat
  let report (w len : Nat) (x : Trap) : Out :=
    (s.modThr (fun t => { t with rep := some (repAt rword w len rp) })).trap x
  match s.thr.ir.inner with
  | .absent => s.trap illegal
  | .trap x => s.trap x
  | .illegal w len => report w len illegal
  | .ok i w len =>
    let cnt := count.val + 1
    let rem := bits rp 0 7
    let idx := if rem = 0 then 0 else bits rp 7 7
    let expOk := match i with | .firmwareExpansion m _ => s.expansionOn m | _ => true
    match repFields i w len incD.val incA.val incB.val with
    | none => report w len illegal
    | some fs =>
      if !repeatable i || !expOk then report w len illegal
      else if rpc.width < 14 ∨ rpc.kind.isFloat then report w len (mapFault 61)
      else if rem ≠ 0 ∧ rem + idx ≠ cnt then report w len (mapFault rp)
      else
        match firstBad fs (cnt - idx) idx with
        | some v => report w len (mapFault (lowBits 64 v))
        | none =>
          match s.lookFail { reads := [(61, .int)], writes := [(61, .int)] } with
          | some x => report w len x
          | none =>
            .next (s.modThr (fun t =>
              { (if rem = 0 then t.setRp cnt else t) with rep := some ⟨rword, w, len, idx⟩ }))

end Sys2Proof.Machine
end

