-- ==== Sys2Proof/Machine/Integer.lean ====
section
/-! DEFINITION. Integer: the integer instructions of majors 0x01 to 0x05 and their 16-bit forms (R42, R43, R80, R81,
R104 to R111). -/

namespace Sys2Proof.Machine
open Sys2Proof

/-! ## Exact results (R34, R104, R105) -/

/-- 1 for true, 0 for false. -/
def truth (b : Bool) : Int := if b then 1 else 0

/-- AND of two infinite two's-complement patterns; 66 bits hold every value of a name (R34). -/
def andInt (x y : Int) : Int := (BitVec.ofInt 66 x &&& BitVec.ofInt 66 y).toInt

/-- OR of two infinite patterns. -/
def orInt (x y : Int) : Int := (BitVec.ofInt 66 x ||| BitVec.ofInt 66 y).toInt

/-- XOR of two infinite patterns. -/
def xorInt (x y : Int) : Int := (BitVec.ofInt 66 x ^^^ BitVec.ofInt 66 y).toInt

/-- A shift amount: a value clamped to 0 to 64 (R105). -/
def shiftAmount (x : Int) : Nat := min x.toNat 64

/-- SHL's result (R105). -/
def shlInt (x : Int) (s : Nat) : Int := x * ipow s

/-- SHR's result (R105). -/
def shrInt (p s : Nat) : Int := ((p / 2 ^ s : Nat) : Int)

/-- SRA's result (R105). -/
def sraInt (x : Int) (s : Nat) : Int := x / ipow s

/-- ROL's pattern: `p` of `w` bits rotated left by `s` (R105). -/
def rolPat (w p s : Nat) : Nat := let k := s % w; (p * 2 ^ k + p / 2 ^ (w - k)) % 2 ^ w

/-- The number of bits up to the highest 1. -/
def bitLength (p : Nat) : Nat := if p = 0 then 0 else Nat.log2 p + 1

/-- The number of 1 bits among the low `n`. -/
def popCount : Nat → Nat → Nat
  | 0, _ => 0
  | n + 1, p => p % 2 + popCount n (p / 2)

/-- ROL's result: the rotated pattern read in the kind of a (R105). -/
def State.rolVal (s : State) (a : Name) (sh : Nat) : Int :=
  let c := s.thr.name a
  patVal c.kind c.width (rolPat c.width (s.upat a) sh)

/-! ## The common form: sources read, the exact result narrowed into the destination with its flags (R35, R104) -/

/-- The use of a three-operand integer instruction. -/
def use3 (d a b : Name) : Use := { reads := ints [a, b], writes := ints [d] }

/-- The use of a two-operand integer instruction. -/
def use2 (d a : Name) : Use := { reads := ints [a], writes := ints [d] }

/-- An integer instruction whose exact result `f` computes. -/
def State.alu (s : State) (u : Use) (d : Name) (f : State → Int) : Out :=
  s.guarded u (fun s => s.narrowInto u.names d (f s) id)

/-- DIVIDE_BY_ZERO with the dividend (R37). -/
def divideByZero (x : Nat) : Trap := mkTrap .divideByZero 0 x 0

/-- A division: a zero divisor traps in every mode (R37, R104). -/
def State.division (s : State) (d a b : Name) (f : State → Int) : Out :=
  s.guarded (use3 d a b) (fun s =>
    if s.upat b = 0 then s.trap (divideByZero (s.ext a)) else s.narrowInto [a, b] d (f s) id)

/-! ## Major 0x01 -/

/-- ADD (R104): the exact sum. -/
def execAdd (d a b : Name) (s : State) : Out := s.alu (use3 d a b) d (fun s => s.val a + s.val b)

/-- SUB (R104): the exact difference. -/
def execSub (d a b : Name) (s : State) : Out := s.alu (use3 d a b) d (fun s => s.val a - s.val b)

/-- MUL (R104): the exact product. -/
def execMul (d a b : Name) (s : State) : Out := s.alu (use3 d a b) d (fun s => s.val a * s.val b)

/-- MULH (R104): the product above the width of the destination. -/
def execMulh (d a b : Name) (s : State) : Out := s.alu (use3 d a b) d (fun s => s.val a * s.val b / ipow (s.thr.name d).width)

/-- AND (R104): AND of the infinite patterns. -/
def execAnd (d a b : Name) (s : State) : Out := s.alu (use3 d a b) d (fun s => andInt (s.val a) (s.val b))

/-- OR (R104): OR of the infinite patterns. -/
def execOr (d a b : Name) (s : State) : Out := s.alu (use3 d a b) d (fun s => orInt (s.val a) (s.val b))

/-- XOR (R104): XOR of the infinite patterns. -/
def execXor (d a b : Name) (s : State) : Out := s.alu (use3 d a b) d (fun s => xorInt (s.val a) (s.val b))

/-- ANDN (R104): AND with the complement of b. -/
def execAndn (d a b : Name) (s : State) : Out := s.alu (use3 d a b) d (fun s => andInt (s.val a) (-s.val b - 1))

/-- MIN (R104): the lesser value. -/
def execMin (d a b : Name) (s : State) : Out := s.alu (use3 d a b) d (fun s => min (s.val a) (s.val b))

/-- MINU (R104): the lesser pattern. -/
def execMinu (d a b : Name) (s : State) : Out := s.alu (use3 d a b) d (fun s => ((min (s.upat a) (s.upat b) : Nat) : Int))

/-- MAX (R104): the greater value. -/
def execMax (d a b : Name) (s : State) : Out := s.alu (use3 d a b) d (fun s => max (s.val a) (s.val b))

/-- MAXU (R104): the greater pattern. -/
def execMaxu (d a b : Name) (s : State) : Out := s.alu (use3 d a b) d (fun s => ((max (s.upat a) (s.upat b) : Nat) : Int))

/-- CEQ (R104): whether the values are equal. -/
def execCeq (d a b : Name) (s : State) : Out := s.alu (use3 d a b) d (fun s => truth (decide (s.val a = s.val b)))

/-- CNE (R104): whether the values differ. -/
def execCne (d a b : Name) (s : State) : Out := s.alu (use3 d a b) d (fun s => truth (decide (s.val a ≠ s.val b)))

/-- CLT (R104): whether a is less by value. -/
def execClt (d a b : Name) (s : State) : Out := s.alu (use3 d a b) d (fun s => truth (decide (s.val a < s.val b)))

/-- CLTU (R104): whether a is less by pattern. -/
def execCltu (d a b : Name) (s : State) : Out := s.alu (use3 d a b) d (fun s => truth (decide (s.upat a < s.upat b)))

/-- CLE (R104): whether a is at most b by value. -/
def execCle (d a b : Name) (s : State) : Out := s.alu (use3 d a b) d (fun s => truth (decide (s.val a ≤ s.val b)))

/-- CLEU (R104): whether a is at most b by pattern. -/
def execCleu (d a b : Name) (s : State) : Out := s.alu (use3 d a b) d (fun s => truth (decide (s.upat a ≤ s.upat b)))

/-- SHL (R105): a left shift by the clamped value of b. -/
def execShl (d a b : Name) (s : State) : Out := s.alu (use3 d a b) d (fun s => shlInt (s.val a) (shiftAmount (s.val b)))

/-- SHR (R105): a right shift of the pattern, zeros entering. -/
def execShr (d a b : Name) (s : State) : Out := s.alu (use3 d a b) d (fun s => shrInt (s.upat a) (shiftAmount (s.val b)))

/-- SRA (R105): a right shift of the value, the sign repeating. -/
def execSra (d a b : Name) (s : State) : Out := s.alu (use3 d a b) d (fun s => sraInt (s.val a) (shiftAmount (s.val b)))

/-- ROL (R105): a left rotation of the pattern within its width. -/
def execRol (d a b : Name) (s : State) : Out := s.alu (use3 d a b) d (fun s => s.rolVal a (shiftAmount (s.val b)))

/-- DIV (R104): the quotient of the values, truncated toward zero. -/
def execDiv (d a b : Name) (s : State) : Out := s.division d a b (fun s => (s.val a).tdiv (s.val b))

/-- DIVU (R104): the quotient of the patterns. -/
def execDivu (d a b : Name) (s : State) : Out := s.division d a b (fun s => ((s.upat a / s.upat b : Nat) : Int))

/-- REM (R104): the remainder with the sign of the dividend. -/
def execRem (d a b : Name) (s : State) : Out := s.division d a b (fun s => (s.val a).tmod (s.val b))

/-- REMU (R104): the remainder of the patterns. -/
def execRemu (d a b : Name) (s : State) : Out := s.division d a b (fun s => ((s.upat a % s.upat b : Nat) : Int))

/-- CLZ (R104): leading zeros of the pattern. -/
def execClz (d a : Name) (s : State) : Out := s.alu (use2 d a) d (fun s => ((s.thr.name a).width : Int) - bitLength (s.upat a))

/-- POPC (R104): one bits of the pattern. -/
def execPopc (d a : Name) (s : State) : Out := s.alu (use2 d a) d (fun s => (popCount 64 (s.upat a) : Int))

/-- ABS (R104): the magnitude. -/
def execAbs (d a : Name) (s : State) : Out := s.alu (use2 d a) d (fun s => ((s.val a).natAbs : Int))

/-- NEG (R104): the negative. -/
def execNeg (d a : Name) (s : State) : Out := s.alu (use2 d a) d (fun s => - s.val a)

/-- NOT (R104): the complement. -/
def execNot (d a : Name) (s : State) : Out := s.alu (use2 d a) d (fun s => - s.val a - 1)

/-- SEL (R104): a where Z is 0, else b. Z is a flag that it reads (R17). -/
def execSel (d a b : Name) (s : State) : Out :=
  s.alu { use3 d a b with flags := .z } d (fun s => if s.thr.flags.z then s.val b else s.val a)

/-- The position and the length of a bit-field descriptor (R106). -/
def fieldOf (p : Nat) : Nat × Nat := (bits p 0 7, min (bits p 7 7) 64)

/-- BFX's result (R106). -/
def bfxVal (p : Nat) (f : Nat × Nat) : Int := ((p / 2 ^ f.1 % 2 ^ f.2 : Nat) : Int)

/-- BFI's pattern: `x` with the field taken from `p`, restricted to `w` bits (R106). -/
def bfiPat (w x p : Nat) (f : Nat × Nat) : Nat :=
  let lo := min f.1 w
  let hi := min (f.1 + f.2) w
  x % 2 ^ lo + p % 2 ^ (hi - lo) * 2 ^ lo + x / 2 ^ hi * 2 ^ hi

/-- BFX (R106): extracts a field. -/
def execBfx (d a b : Name) (s : State) : Out :=
  s.alu (use3 d a b) d (fun s => bfxVal (s.upat a) (fieldOf (s.upat b)))

/-- BFI (R106): inserts a field into the pattern of nd, which is not narrowed. -/
def execBfi (d a b : Name) (s : State) : Out :=
  let u : Use := { reads := ints [d, a, b], writes := ints [d] }
  s.guarded u (fun s =>
    let c := s.thr.name d
    let q := bfiPat c.width (s.upat d) (s.upat a) (fieldOf (s.upat b))
    let x := patVal c.kind c.width q
    s.finish u.names { Pending.none with
      names := [(d, BitVec.ofNat 64 q)]
      flags := ⟨some (decide (x = 0)), some (decide (x < 0)), some false, some false, false⟩ })

/-- What MOV needs of its names: one float kind for both, or integers; where they differ it names the float (R107). -/
def State.movUse (s : State) (d a : Name) : Use :=
  let ca := s.thr.name a
  let cd := s.thr.name d
  if ca.width ≠ 0 ∧ ca.kind.isFloat then
    if cd.width = 0 then { reads := [(a, .any)], writes := [(d, .any)] }
    else { reads := [(a, .kind cd.kind)], writes := [(d, .any)] }
  else use2 d a

/-- MOV (R104, R107): a value narrowed, or between names of one float kind a pattern, with no flag. -/
def State.move (s : State) (d a : Name) : Out :=
  s.guarded (s.movUse d a) (fun s =>
    if (s.thr.name a).kind.isFloat then s.putPat [a] d (s.pat a) else s.narrowInto [a] d (s.val a) id)

/-- MOV (R104, R107): copies a value, or a float pattern. -/
def execMov (d a : Name) (s : State) : Out := s.move d a

/-! ## Immediates and constants: majors 0x02 to 0x04 (R108, R109) -/

/-- ADDI (R108). -/
def execAddi (d a : Name) (imm : Int) (s : State) : Out := s.alu (use2 d a) d (fun s => s.val a + imm)

/-- ANDI (R108). -/
def execAndi (d a : Name) (imm : Int) (s : State) : Out := s.alu (use2 d a) d (fun s => andInt (s.val a) imm)

/-- ORI (R108). -/
def execOri (d a : Name) (imm : Int) (s : State) : Out := s.alu (use2 d a) d (fun s => orInt (s.val a) imm)

/-- XORI (R108). -/
def execXori (d a : Name) (imm : Int) (s : State) : Out := s.alu (use2 d a) d (fun s => xorInt (s.val a) imm)

/-- SHLI (R108). -/
def execShli (d a : Name) (imm : Nat) (s : State) : Out := s.alu (use2 d a) d (fun s => shlInt (s.val a) imm)

/-- SHRI (R108). -/
def execShri (d a : Name) (imm : Nat) (s : State) : Out := s.alu (use2 d a) d (fun s => shrInt (s.upat a) imm)

/-- SRAI (R108). -/
def execSrai (d a : Name) (imm : Nat) (s : State) : Out := s.alu (use2 d a) d (fun s => sraInt (s.val a) imm)

/-- CLTI (R108). -/
def execClti (d a : Name) (imm : Int) (s : State) : Out := s.alu (use2 d a) d (fun s => truth (decide (s.val a < imm)))

/-- LDK (R109): a signed constant. -/
def execLdk (d : Name) (imm : Int) (s : State) : Out := s.alu { writes := ints [d] } d (fun _ => imm)

/-- LDKS (R109): the name shifted left 19 bits plus an unsigned constant. -/
def execLdks (d : Name) (imm : Nat) (s : State) : Out :=
  s.alu { reads := ints [d], writes := ints [d] } d (fun s => s.val d * 2 ^ 19 + imm)

/-! ## Map and flag instructions: major 0x05 (R42, R43, R110, R111) -/

/-- RESIZE (R42, R45, R48, R49): the thread's windows close, the core's repack queue empties, then the name takes its new
width, its value narrowed, and the span is placed. -/
def execResize (d : Name) (wid : Nat) (s : State) : Out :=
  match s.quieted with
  | none => s.again
  | some s1 =>
    s1.guarded { decls := ints [d] } (fun s =>
      let c := s.thr.name d
      if d = 63 ∨ c.bind ≠ .none then s.trap (mapFault d.val)
      else
        match narrow c.kind wid c.mode (patVal c.kind c.width c.pat.toNat) with
        | none => s.trap (widthOverflow d (patVal c.kind c.width c.pat.toNat))
        | some r =>
          let core := s.cur.1
          let s2 := s.repackAll core (s.core core).repackq.length
          let old := s2.thr.spanBits
          let s3 := s2.modThr (fun t => (t.setName d { c with width := wid, pat := r.pat }).putFlags r.flags)
          (s3.resizeSpan core s3.cur.2 old).done)

/-- MODE (R43): sets the overflow mode of a name; no flag is written. Of a bound name only MODE to trap on a flume binding
is refused (R159, R254, log 14). -/
def execMode (d : Name) (md : OvMode) (s : State) : Out :=
  s.guarded { decls := ints [d] } (fun s =>
    let bad : Bool := match (s.thr.name d).bind with | .flume _ _ => decide (md = .trap) | _ => false
    if d = 63 ∨ bad then s.trap (mapFault d.val)
    else (s.modThr (fun t => t.setName d { t.name d with mode := md })).done)

/-- WIDTH (R110): the current descriptor entry of a name, of any kind; 0 for n63. -/
def execWidth (d a : Name) (s : State) : Out :=
  s.guarded { decls := [(a, .any)], writes := ints [d] } (fun s =>
    s.narrowInto [] d (if a = 63 then 0 else ((s.thr.name a).entry : Int)) id)

/-- MFF (R111): the flags word into a name; the narrowing writes no flag, not even SF. -/
def execMff (d : Name) (s : State) : Out :=
  s.guarded { writes := ints [d], flags := .all } (fun s =>
    s.narrowInto [] d (s.thr.flags.word : Int) (fun _ => FlagWrite.none))

/-- The flags are written whole: a window's later write of them no longer counts (R17). -/
def Thread.setFlags (t : Thread) (f : Flags) : Thread :=
  { t with flags := f, inflight := t.inflight.map (fun e => { e with flagsLive := false, sfLive := false }) }

/-- MTF (R111): all five flags from the low bits of a name. -/
def execMtf (a : Name) (s : State) : Out :=
  s.guarded { reads := ints [a] } (fun s =>
    ((s.consume [a]).modThr (fun t => t.setFlags (Flags.ofNat (s.upat a)))).done)

/-- SFCLR (R111): clears SF. -/
def execSfclr (s : State) : Out :=
  s.guarded {} (fun s => (s.modThr (fun t =>
    { t with flags := { t.flags with sf := false }, inflight := t.inflight.map (fun e => { e with sfLive := false }) })).done)

/-! ## The 16-bit forms (R80, R81): each acts as its 32-bit equivalent -/

/-- A 4-bit name field: n0 to n15. -/
def n16 (n : Fin 16) : Name := ⟨n.val, by omega⟩

/-- ADD_16 (R80). -/
def execAdd16 (d b : Fin 16) (s : State) : Out :=
  s.alu (use3 (n16 d) (n16 d) (n16 b)) (n16 d) (fun s => s.val (n16 d) + s.val (n16 b))

/-- SUB_16 (R80). -/
def execSub16 (d b : Fin 16) (s : State) : Out :=
  s.alu (use3 (n16 d) (n16 d) (n16 b)) (n16 d) (fun s => s.val (n16 d) - s.val (n16 b))

/-- MUL_16 (R80). -/
def execMul16 (d b : Fin 16) (s : State) : Out :=
  s.alu (use3 (n16 d) (n16 d) (n16 b)) (n16 d) (fun s => s.val (n16 d) * s.val (n16 b))

/-- AND_16 (R80). -/
def execAnd16 (d b : Fin 16) (s : State) : Out :=
  s.alu (use3 (n16 d) (n16 d) (n16 b)) (n16 d) (fun s => andInt (s.val (n16 d)) (s.val (n16 b)))

/-- OR_16 (R80). -/
def execOr16 (d b : Fin 16) (s : State) : Out :=
  s.alu (use3 (n16 d) (n16 d) (n16 b)) (n16 d) (fun s => orInt (s.val (n16 d)) (s.val (n16 b)))

/-- XOR_16 (R80). -/
def execXor16 (d b : Fin 16) (s : State) : Out :=
  s.alu (use3 (n16 d) (n16 d) (n16 b)) (n16 d) (fun s => xorInt (s.val (n16 d)) (s.val (n16 b)))

/-- SHL_16 (R80). -/
def execShl16 (d b : Fin 16) (s : State) : Out :=
  s.alu (use3 (n16 d) (n16 d) (n16 b)) (n16 d) (fun s => shlInt (s.val (n16 d)) (shiftAmount (s.val (n16 b))))

/-- SHR_16 (R80). -/
def execShr16 (d b : Fin 16) (s : State) : Out :=
  s.alu (use3 (n16 d) (n16 d) (n16 b)) (n16 d) (fun s => shrInt (s.upat (n16 d)) (shiftAmount (s.val (n16 b))))

/-- SRA_16 (R80). -/
def execSra16 (d b : Fin 16) (s : State) : Out :=
  s.alu (use3 (n16 d) (n16 d) (n16 b)) (n16 d) (fun s => sraInt (s.val (n16 d)) (shiftAmount (s.val (n16 b))))

/-- MIN_16 (R80). -/
def execMin16 (d b : Fin 16) (s : State) : Out :=
  s.alu (use3 (n16 d) (n16 d) (n16 b)) (n16 d) (fun s => min (s.val (n16 d)) (s.val (n16 b)))

/-- MAX_16 (R80). -/
def execMax16 (d b : Fin 16) (s : State) : Out :=
  s.alu (use3 (n16 d) (n16 d) (n16 b)) (n16 d) (fun s => max (s.val (n16 d)) (s.val (n16 b)))

/-- MOV_16 (R80). -/
def execMov16 (d b : Fin 16) (s : State) : Out := s.move (n16 d) (n16 b)

/-- NEG_16 (R80). -/
def execNeg16 (d b : Fin 16) (s : State) : Out :=
  s.alu (use2 (n16 d) (n16 b)) (n16 d) (fun s => - s.val (n16 b))

/-- NOT_16 (R80). -/
def execNot16 (d b : Fin 16) (s : State) : Out :=
  s.alu (use2 (n16 d) (n16 b)) (n16 d) (fun s => - s.val (n16 b) - 1)

/-- ABS_16 (R80). -/
def execAbs16 (d b : Fin 16) (s : State) : Out :=
  s.alu (use2 (n16 d) (n16 b)) (n16 d) (fun s => ((s.val (n16 b)).natAbs : Int))

/-- CLT_16 (R80). -/
def execClt16 (d b : Fin 16) (s : State) : Out :=
  s.alu (use3 (n16 d) (n16 d) (n16 b)) (n16 d) (fun s => truth (decide (s.val (n16 d) < s.val (n16 b))))

/-- MOVIS (R81, R127): a signed 7-bit constant; its effect is that of ADDI nd, zero, imm. -/
def execMovis (d : Fin 16) (imm : Int) (s : State) : Out :=
  s.alu (use2 (n16 d) 63) (n16 d) (fun s => s.val 63 + imm)

end Sys2Proof.Machine
end

