-- ==== Sys2Proof/Machine/Control.lean ====
section
/-! DEFINITION. Control: branches, jumps and calls (R112 to R114), NOP (R125), traps, the return from one, the control
registers and FENCEI (R12, R20, R28, R78, R88, R122 to R124). -/

namespace Sys2Proof.Machine
open Sys2Proof

/-! ## Branches, jumps and calls: majors 0x06 to 0x09 -/

/-- The PC moved by a count of halfwords (R14). -/
def halfwords (pc : Word) (off : Int) : Word := pc + BitVec.ofInt 64 (2 * off)

/-- Completes a branch (R112). -/
def State.branchIf (s : State) (reads : List Name) (off : Int) (c : Bool) : Out :=
  let s1 := s.consume reads
  if c then .next (s1.modThr (fun t => t.jumpTo (halfwords t.pc off))) else s1.done

/-- A conditional branch on two names. -/
def State.branch (s : State) (a b : Name) (off : Int) (c : State → Bool) : Out :=
  s.guarded { reads := ints [a, b] } (fun s => s.branchIf [a, b] off (c s))

/-- BEQ (R112). -/
def execBeq (a b : Name) (off : Int) (s : State) : Out := s.branch a b off (fun s => decide (s.val a = s.val b))

/-- BNE (R112). -/
def execBne (a b : Name) (off : Int) (s : State) : Out := s.branch a b off (fun s => decide (s.val a ≠ s.val b))

/-- BLT (R112). -/
def execBlt (a b : Name) (off : Int) (s : State) : Out := s.branch a b off (fun s => decide (s.val a < s.val b))

/-- BGE (R112). -/
def execBge (a b : Name) (off : Int) (s : State) : Out := s.branch a b off (fun s => decide (s.val b ≤ s.val a))

/-- BLTU (R112). -/
def execBltu (a b : Name) (off : Int) (s : State) : Out := s.branch a b off (fun s => decide (s.upat a < s.upat b))

/-- BGEU (R112). -/
def execBgeu (a b : Name) (off : Int) (s : State) : Out := s.branch a b off (fun s => decide (s.upat b ≤ s.upat a))

/-- BSF (R112): branches when SF is set. -/
def execBsf (off : Int) (s : State) : Out :=
  s.guarded { flags := .sf } (fun s => s.branchIf [] off s.thr.flags.sf)

/-- JMP (R113). -/
def execJmp (off : Int) (s : State) : Out :=
  s.guarded {} (fun s => .next (s.modThr (fun t => t.jumpTo (halfwords t.pc off))))

/-- The link name lk, as CALL and CALLR write it (R32). -/
def linkName : Name := 62

/-- CALL (R113): the return address goes to lk, a 64-bit unsigned name. -/
def execCall (off : Int) (s : State) : Out :=
  s.guarded { writes := [(linkName, .u64)] } (fun s =>
    .next (s.modThr (fun t => (t.setPat linkName (t.pc + 4)).jumpTo (halfwords t.pc off))))

/-- The target of a jump through a name (R114). -/
def State.jumpTarget (s : State) (a : Name) (imm : Int) : Nat := lowBits 64 (s.val a + imm)

/-- JMPR (R114): an odd target raises ALIGN (R14). -/
def execJmpr (a : Name) (imm : Int) (s : State) : Out :=
  s.guarded { reads := ints [a] } (fun s =>
    let t := s.jumpTarget a imm
    if t % 2 = 1 then s.trap (mkTrap .align t 0 0)
    else .next ((s.consume [a]).modThr (fun x => x.jumpTo (BitVec.ofNat 64 t))))

/-- CALLR (R114): as JMPR, the return address going to lk after a has been read. -/
def execCallr (a : Name) (imm : Int) (s : State) : Out :=
  s.guarded { reads := ints [a], writes := [(linkName, .u64)] } (fun s =>
    let t := s.jumpTarget a imm
    if t % 2 = 1 then s.trap (mkTrap .align t 0 0)
    else .next ((s.consume [a]).modThr (fun x => (x.setPat linkName (x.pc + 4)).jumpTo (BitVec.ofNat 64 t))))

/-- NOP (R125). -/
def execNop (s : State) : Out := s.done

/-! ## Traps and their return: major 0x0D -/

/-- TRAP (R122): raises TRAP_INSTR with its immediate in X0. -/
def execTrap (imm : Nat) (s : State) : Out := s.trap (mkTrap .trapInstr 0 imm 0)

/-- BRK (R20, R122): raises BREAKPOINT with X0 = 0. -/
def execBrk (s : State) : Out := s.trap (mkTrap .breakpoint 0 0 0)

/-- ERET (R28): privileged; leaves the handler. -/
def execEret (s : State) : Out := s.guarded { sys := true } (fun s => s.returnFromTrap)

/-! ## The save charge of a context (R327) -/

/-- How many names of a thread are bound to links. -/
def Thread.linkCount (t : Thread) : Nat :=
  (t.names.toList.filter (fun n => match n.bind with | .link _ => true | _ => false)).length

/-- The bound links of a context's threads on a core. -/
def State.linksOn (s : State) (c ctx : Nat) : Nat :=
  ((List.range 16).map (fun i => match s.threadAt c i with
    | some t => if t.ctx = ctx then t.linkCount else 0
    | none => 0)).sum

/-- Whether a holder of noria resources is of a context. -/
def heldBy (ctx : Nat) (h : Option (Nat × Nat)) : Bool := match h with | some p => decide (p.1 = ctx) | none => false

/-- The bytes of a section (R326). -/
def SavedSec.size : SavedSec → Nat
  | .tile _ _ _ _ => 16448
  | .bslot _ _ _ => 4416
  | .handler _ _ _ => 64
  | .runnel _ _ _ _ _ _ _ => 128
  | .sram _ sps _ => 64 + 16640 * sps

/-- Whether quad state of a context still waits where a core's threads would meet it (R330). A link's entries wait before
threads issue at either end of it: a push by the neighbour would go in front of them otherwise (R157, R162). -/
def State.waitsFor (s : State) (x : Ctx) (core : Nat) : Bool :=
  x.sections.any (fun sec => match sec with
    | .tile q _ _ _ | .bslot q _ _ => decide (q = core / 4)
    | .handler c _ _ | .sram c _ _ => decide (c = core)
    | .runnel c ld l _ _ _ _ => decide (c / 4 = core / 4) ||
        decide (s.dev.neighbour c (({ s.core c with ldir := ld } : CoreSt).linkDir l) = some core))

/-- Whether a link of a core still waits to be put back (R330). -/
def Ctx.linkWaits (x : Ctx) (core : Nat) (l : Fin 4) : Bool :=
  x.sections.any (fun sec => match sec with
    | .runnel c _ m _ _ _ _ => decide (c = core ∧ m = l)
    | _ => false)

/-- The links that restored threads of a context hold whose records still stand on their ready flumes: the core, the name,
the link, the record (R330). -/
def State.linkRecords (s : State) (ctx : Nat) : List (Nat × Name × Fin 4 × Nat) :=
  match s.ctxOf ctx with
  | none => []
  | some x => x.recs.flatMap (fun r => match r.core with
    | some c => (r.links.filter (fun l => !x.linkWaits c l.2)).map (fun l => (c, l.1, l.2, r.k))
    | none => [])

/-- The bytes of the sections of a context that a restore has yet to put back. -/
def State.waitingBytes (s : State) (ctx : Nat) : Nat :=
  match s.ctxOf ctx with
  | none => 0
  | some x => (x.sections.map SavedSec.size).sum

/-- The bytes that the sections of a context would take (R327). -/
def State.charge (s : State) (ctx : Nat) : Nat :=
  64 + s.waitingBytes ctx + 128 * (s.linkRecords ctx).length + ((s.quads.map (fun q =>
      16448 * (q.2.tiles.toList.filter (fun t => heldBy ctx t.holder)).length +
      4416 * (q.2.bslots.toList.filter (fun b => heldBy ctx b.holder)).length)).sum) +
    ((s.cores.map (fun c =>
      (match c.2.handler with | some h => if h.ctx = ctx then 64 else 0 | none => 0) +
      128 * s.linksOn c.1 ctx +
      (if 0 < c.2.sps ∧ c.2.own = ctx then 64 + 16640 * c.2.sps else 0))).sum)

/-- Whether a resident context's save area holds `n` bytes more than its charge. The charge of the header alone is 64. -/
def State.chargeFits (s : State) (ctx n : Nat) : Bool :=
  match s.ctxOf ctx with
  | some x => decide (s.charge ctx + n ≤ x.secsize)
  | none => true

/-! ## The split of a core's memory (R190 to R192) -/

/-- The L1 lines of a core, those in update-only state among them, when units of it become scratchpad: each stands in a unit
of the hardware's choice (log 5), and the L1 that is left holds no more than its ways. -/
def State.shedLines (s : State) (core newSps : Nat) (all : Bool) : State :=
  (s.mem.heldLines core).foldl (fun s x =>
    let (k, s1) := if all then (1, s) else s.choose 2
    let peers := (s1.mem.heldLines core).filter (fun y => decide (y % 64 = x % 64))
    if k = 1 ∨ l1Ways newSps < peers.length then s1.evictLine core x else s1) s

/-- Whether a context's threads reach `n` bytes at an offset of a core's scratchpad (R186, R192). -/
def CoreSt.sramReach (c : CoreSt) (ctx off n : Nat) : Bool := decide (c.own = ctx ∧ off + n ≤ 16384 * c.sps)

/-- Whether `n` bytes at a word are out of a context's reach now, as bytes of this core's scratchpad. -/
def State.sramShut (s : State) (core ctx n : Nat) (w : WordLoc) : Bool :=
  match w with
  | .sram c off => decide (c = core) && !(s.core core).sramReach ctx off n
  | .global _ => false

/-- The parties that wait at words of a core's scratchpad which their contexts no longer reach. -/
def State.shutParties (s : State) (core : Nat) : List Party :=
  (s.feWaits.filter (fun x => s.sramShut core (s.partyThread x.who).ctx 8 x.loc)).map (fun x => x.who) ++
  (s.groupWaits.filter (fun x => decide (2 ^ 48 ≤ x.pa) &&
    s.sramShut core (s.partyThread x.who).ctx 16 (.sram ((x.pa - 2 ^ 48) / 65536) (x.pa % 65536)))).map (fun x => x.who) ++
  (s.resvs.filter (fun e => !e.granted && s.sramShut core e.ctx 8 e.loc)).map (fun e => e.who)

/-- The waits at words of a core's scratchpad which their contexts no longer reach end, and their instructions execute again, to
meet the check of R186: no context reads or writes another's scratchpad (R192, log 17). A reservation that one context holds
there ends when another context takes the scratchpad. -/
def State.expelSram (s : State) (core : Nat) : State :=
  let out := s.shutParties core
  let own := (s.core core).own
  let s1 := { s with
    feWaits := s.feWaits.filter (fun x => decide (x.who ∉ out))
    groupWaits := s.groupWaits.filter (fun x => decide (x.who ∉ out))
    resvs := s.resvs.filter (fun e => if e.granted then
        decide (own = 0 ∨ e.ctx = own) || !s.sramShut core e.ctx 8 e.loc
      else decide (e.who ∉ out)) }
  out.foldl (fun s p => s.wakeParty p none Thread.unissue) s1

/-- Changes a core's scratchpad units and owner: every access that the core's slots have issued, or that is aimed at its scratchpad,
completes first (R191, R192); units that stay scratchpad under one owner keep their bytes (log 110); who waited at a word that is
lost to its context is sent back to its instruction (log 17). -/
def State.setSplit (s : State) (core sps own : Nat) : State :=
  let s := s.landStores (fun x => decide (x.core = core) || (match x.piece.loc with | .sram c _ => decide (c = core) | _ => false))
  let c := s.core core
  let own1 := if sps = 0 then 0 else own
  let s1 := if sps = c.sps then s
    else if c.sps < sps ∨ c.sps = 4 then s.shedLines core sps (decide (sps = 4 ∨ c.sps = 4)) else s
  let s2 := s1.setCore core { s1.core core with sps := sps, own := own1 }
  let s3 := if own1 ≠ c.own ∧ 0 < sps then s2.modMem (fun m => m.clearUnits core 0 (max sps c.sps))
    else s2.modMem (fun m => m.clearUnits core (min sps c.sps) (max sps c.sps))
  s3.expelSram core

/-- Whether an owner's charge allows a core's new split (R327). -/
def State.splitFits (s : State) (core sps own : Nat) : Bool :=
  let c := s.core core
  let old := if 0 < c.sps ∧ c.own = own then 64 + 16640 * c.sps else 0
  let new := if 0 < sps then 64 + 16640 * sps else 0
  decide (new ≤ old) || s.chargeFits own (new - old)

/-! ## Control registers (R12, R20, R25, R59, R78, R122, R123, R129, R190, R318, R319, R336, R346, R380) -/

/-- The sensors of a die, 0 where no reading has arrived (R380). -/
def Device.sensorsOf (d : Device) (die : Nat) : Sensors :=
  (d.sensors.find? (fun x => decide (x.die = die))).getD ⟨die, 0, 0, 0, 0, 0, []⟩

/-- ERRSTAT (R318). -/
def Device.errStat (d : Device) : Nat :=
  d.errLogn + 2 ^ 8 * d.errOvf.toNat + 2 ^ 9 * d.errEn.toNat + 2 ^ 12 * d.errBase.toNat

/-- ERRSTAT written (R318): OVF is only cleared, LOGN only set within 6 to 20. -/
def Device.setErrStat (d : Device) (v : Nat) : Device :=
  { d with
    errLogn := if 6 ≤ bits v 0 5 ∧ bits v 0 5 ≤ 20 then bits v 0 5 else d.errLogn
    errOvf := d.errOvf && bit1 v 8
    errEn := bit1 v 9
    errBase := BitVec.ofNat 36 (bits v 12 36) }

/-- TEMPS of a die (R380). -/
def Device.temps (d : Device) (die : Nat) : Nat :=
  let x := d.sensorsOf die
  x.max.toNat + 2 ^ 16 * (x.idx % 64) + 2 ^ 24 * (getK 0 die d.clockStep % 16)

/-- PROCM of a quad (R380). -/
def Device.procm (d : Device) (die quad : Nat) : Nat :=
  let x := d.sensorsOf die
  (getK 0 quad x.quads).toNat + 2 ^ 16 * x.dieavg.toNat

/-- A control register's 64 bits as a thread reads them (R78). -/
def State.csrRead (s : State) : Csr → Nat
  | .trapc => s.thr.trapc.toNat
  | .trappc => s.thr.trappc.toNat
  | .trapx => s.thr.trapx.toNat
  | .trapa => s.thr.trapa.toNat
  | .trapv => s.thr.trapv.toNat
  | .traprec => s.thr.traprec.toNat
  | .ctxid => s.thr.ctx
  | .privl => s.thr.privl.word
  | .rottab => (s.core s.cur.1).rottab.toNat
  | .splitc => (s.core s.cur.1).sps + 16 * (s.core s.cur.1).own
  | .dbgctl => s.thr.dbgctl.word
  | .dbga => s.thr.dbga.toNat
  | .dbgm => s.thr.dbgm.toNat
  | .srngc => s.thr.srngc.word
  | .tbase => s.dev.timebase.toNat
  | .errhead => s.dev.errHead.toNat
  | .errtail => s.dev.errTail.toNat + 2 ^ 32 * s.dev.errDrop
  | .errstat => s.dev.errStat
  | .lcmap => bits (s.dev.reg 0x30) 12 36 * 4096
  | .temps => s.dev.temps (s.dev.dieOf s.cur.1)
  | .volts =>
    let x := s.dev.sensorsOf (s.dev.dieOf s.cur.1)
    x.vcore.toNat + 2 ^ 16 * x.vsram.toNat
  | .procm => s.dev.procm (s.dev.dieOf s.cur.1) (s.dev.physCore s.cur.1 / 4)

/-- DBGCTL written: DKIND 3 is ignored (R20). -/
def Dbgctl.write (d : Dbgctl) (v : Nat) : Dbgctl :=
  { Dbgctl.ofNat v with dkind := if bits v 4 2 = 3 then d.dkind else BitVec.ofNat 2 (bits v 4 2) }

/-- SPLITC written at system privilege (R190, R192, R327). -/
def State.writeSplitc (s : State) (v : Nat) : State :=
  let core := s.cur.1
  let sps := if bits v 0 3 ≤ 4 then bits v 0 3 else (s.core core).sps
  let own := bits v 4 12
  if s.splitFits core sps own then s.setSplit core sps own else s

/-- A control register written by a thread (R78, R123). -/
def State.csrWrite (s : State) (c : Csr) (v : Nat) : State :=
  let w := BitVec.ofNat 64 v
  match c with
  | .trapc => s.modThr (fun t => { t with trapc := w })
  | .trappc => s.modThr (fun t => { t with trappc := w })
  | .trapx => s.modThr (fun t => { t with trapx := w })
  | .trapa => s.modThr (fun t => { t with trapa := w })
  | .trapv => s.modThr (fun t => { t with trapv := w })
  | .traprec => s.modThr (fun t => { t with traprec := w })
  | .privl => s.modThr (fun t => { t with privl := { Privl.ofNat v with priv := t.privl.priv } })
  | .rottab => s.setCore s.cur.1 { s.core s.cur.1 with rottab := w }
  | .splitc => s.writeSplitc v
  | .dbgctl => s.modThr (fun t => { t with dbgctl := t.dbgctl.write v })
  | .dbga => s.modThr (fun t => { t with dbga := w })
  | .dbgm => s.modThr (fun t => { t with dbgm := w })
  | .srngc => s.modThr (fun t => { t with srngc := Srngc.ofNat v })
  | .errhead => s.modDev (fun d => { d with errHead := BitVec.ofNat 32 v })
  | .errstat => s.modDev (fun d => d.setErrStat v)
  | .tbase | .errtail | .ctxid | .lcmap | .temps | .volts | .procm => s

/-- CSRR (R122): a control register into a name; privileged but for four registers (R12). -/
def execCsrr (d : Name) (csr : Csr) (s : State) : Out :=
  s.guarded { sys := !userCsr csr, writes := ints [d] } (fun s => s.narrowInto [] d (s.csrRead csr : Int) id)

/-- A control register that an instruction may not write (R78). -/
def readOnlyCsr (c : Csr) : Bool :=
  decide (c = .temps ∨ c = .volts ∨ c = .procm ∨ c = .ctxid ∨ c = .lcmap)

/-- CSRW (R122, R123): a name into a control register; privileged. A read-only register is illegal (R78). -/
def execCsrw (d : Name) (csr : Csr) (s : State) : Out :=
  if readOnlyCsr csr then s.trap illegal
  else s.guarded { sys := true, reads := ints [d] } (fun s =>
    ((s.csrWrite csr (s.ext d)).consume [d]).done)

/-! ## FENCEI (R88, R124) -/

/-- The thread's later fetches observe code at least as new as memory then has it (R88). -/
def Thread.fenceCode (m : CodeView) (t : Thread) : Thread := { t with code := [], codeView := m }

/-- FENCEI (R124). -/
def execFencei (s : State) : Out := (s.modThr (Thread.fenceCode ⟨s.cur.1, s.mem⟩)).done

/-- FENCEI, 16-bit form (R124). -/
def execFencei16 (s : State) : Out := (s.modThr (Thread.fenceCode ⟨s.cur.1, s.mem⟩)).done

end Sys2Proof.Machine
end

