-- ==== Sys2Proof/Machine/Noise.lean ====
section
/-! DEFINITION. Noise: the draws of stochastic rounding (R58 to R61). -/

namespace Sys2Proof.Machine
open Sys2Proof

/-- The noise buffer's address (R59). -/
def Srngc.addr (r : Srngc) : Nat := r.base.toNat * 4096

/-- A word from the quad's pool: 0 from a failed source, which is noted (R58, R61); else a free value (log 5). -/
def State.liveWord (s : State) : Nat × State :=
  if (s.quad (s.cur.1 / 4)).noiseFailed then
    (0, s.modThr (fun t => { t with srngc := { t.srngc with hfail := true } }))
  else ((Config.noiseWord s.freeCtr).toNat, { s with freeCtr := s.freeCtr + 1 })

/-- CAP and POS of the noise buffer, as loads of the drawing thread (R60). -/
def State.noiseIndex (s : State) : Except Trap (Nat × Nat) × State :=
  match s.threadLoad s.thr.srngc.addr 8 8 with
  | (.error x, s1) => (.error x, s1)
  | (.ok cap, s1) =>
    match s1.threadLoad (s.thr.srngc.addr + 8) 8 8 with
    | (.error x, s2) => (.error x, s2)
    | (.ok pos, s2) => (.ok (leNat cap, leNat pos), s2)

/-- A draw in log mode (R58, R60). The place of its word is a pointer sum modulo 2^64 (log 120). -/
def State.drawLog (s : State) : Except Trap Nat × State :=
  match s.noiseIndex with
  | (.error x, s1) => (.error x, s1)
  | (.ok (cap, pos), s1) =>
    let (w, s2) := s1.liveWord
    if cap ≤ pos then (.ok w, s2.modThr (fun t => { t with srngc := { t.srngc with full := true } }))
    else
      match s2.threadStore ((s.thr.srngc.addr + 16 + 2 * pos) % 2 ^ 64) 2 (leBytes 2 w) with
      | (some x, s3) => (.error x, s3)
      | (none, s3) =>
        match s3.threadStore (s.thr.srngc.addr + 8) 8 (leBytes 8 (pos + 1)) with
        | (some x, s4) => (.error x, s4)
        | (none, s4) => (.ok w, s4)

/-- A draw in replay mode (R58, R60). The place of its word is a pointer sum modulo 2^64 (log 120). -/
def State.drawReplay (s : State) : Except Trap Nat × State :=
  match s.noiseIndex with
  | (.error x, s1) => (.error x, s1)
  | (.ok (cap, pos), s1) =>
    if cap ≤ pos then (.ok 0, s1.modThr (fun t => { t with srngc := { t.srngc with exh := true } }))
    else
      match s1.threadLoad ((s.thr.srngc.addr + 16 + 2 * pos) % 2 ^ 64) 2 2 with
      | (.error x, s2) => (.error x, s2)
      | (.ok b, s2) =>
        match s2.threadStore (s.thr.srngc.addr + 8) 8 (leBytes 8 (pos + 1)) with
        | (some x, s3) => (.error x, s3)
        | (none, s3) => (.ok (leNat b), s3)

/-- One draw of a 16-bit noise word; the reserved mode 3 acts as live (R58). -/
def State.draw (s : State) : Except Trap Nat × State :=
  match s.thr.srngc.mode.toNat with
  | 1 => s.drawLog
  | 2 => s.drawReplay
  | _ => let (w, s1) := s.liveWord; (.ok w, s1)

/-- Draws of `n` words in order. -/
def State.draws (s : State) : Nat → Except Trap (List Nat) × State
  | 0 => (.ok [], s)
  | n + 1 =>
    match s.draw with
    | (.error x, s1) => (.error x, s1)
    | (.ok w, s1) =>
      match s1.draws n with
      | (.error x, s2) => (.error x, s2)
      | (.ok ws, s2) => (.ok (w :: ws), s2)

/-- The record of a poisoned word of the noise buffer (R315, R321). -/
def State.notePoison (s : State) (x : Trap) : State :=
  if x.cause = Cause.uncorrectable then
    match s.sysPieces s.thr.ctx (x.addr.toNat / 8 * 8) 8 with
    | some (⟨_, .global pa _ _, _⟩ :: _) => s.noteUncorrectable s.cur.1 s.cur.2 s.thr pa 0x100 s.thr.pc.toNat
    | _ => s
  else s

/-- A translation or protection fault of a draw has the buffer address as its ADDR, the base; other causes name their word (R60,
log 87). -/
def Trap.atBuffer (x : Trap) (base : Nat) : Trap :=
  if x.cause = .pageFault ∨ x.cause = .protection then { x with addr := BitVec.ofNat 64 base } else x

/-- The words that a conversion of `n` elements draws under a mode: `n` under SR, else none. A fault is a trap of the
converting instruction, which then has had no effect but an error record (R60). -/
def State.withNoise (s : State) (mode : RMode) (n : Nat) (k : List Nat → State → Out) : Out :=
  if mode = .sr then
    match s.draws n with
    | (.ok ws, s1) => k ws s1
    | (.error x, _) => (s.notePoison x).trap (x.atBuffer s.thr.srngc.addr)
  else k [] s

end Sys2Proof.Machine
end

