-- ==== Sys2Proof/Machine/FloatOps.lean ====
section
/-! DEFINITION. FloatOps: scalar floating point (R51 to R57, R70, R71, R115 to R118). -/

namespace Sys2Proof.Machine
open Sys2Proof

/-- The exact value of a float name (R115). -/
def State.fval (s : State) (n : Name) : FVal := (s.thr.name n).kind.fmt.value (s.upat n)

/-- The format of a float name. -/
def State.fmtOf (s : State) (n : Name) : Fmt := (s.thr.name n).kind.fmt

/-- Names taken as floats. -/
def floats (ns : List Name) : List (Name × Need) := ns.map (fun n => (n, .float))

/-- A float instruction whose exact result is rounded once into the format of d; no flag is written (R115). -/
def State.falu (s : State) (srcs : List Name) (d : Name) (f : State → FVal) : Out :=
  s.guarded { reads := floats srcs, writes := floats [d] } (fun s =>
    s.putPat srcs d (BitVec.ofNat 64 ((s.fmtOf d).rne (f s))))

/-- A float instruction with an integer result (R115). -/
def State.fint (s : State) (srcs : List Name) (d : Name) (f : State → Int) : Out :=
  s.guarded { reads := floats srcs, writes := ints [d] } (fun s => s.narrowInto srcs d (f s) id)

/-- FADD (R115). -/
def execFadd (d a b : Name) (s : State) : Out := s.falu [a, b] d (fun s => (s.fval a).add (s.fval b))

/-- FSUB (R115). -/
def execFsub (d a b : Name) (s : State) : Out := s.falu [a, b] d (fun s => (s.fval a).add (s.fval b).neg)

/-- FMUL (R115). -/
def execFmul (d a b : Name) (s : State) : Out := s.falu [a, b] d (fun s => (s.fval a).mul (s.fval b))

/-- FDIV (R115). -/
def execFdiv (d a b : Name) (s : State) : Out := s.falu [a, b] d (fun s => (s.fval a).div (s.fval b))

/-- FSQRT (R115). -/
def execFsqrt (d a : Name) (s : State) : Out := s.falu [a] d (fun s => (s.fval a).sqrt)

/-- FMIN (R115, R116). -/
def execFmin (d a b : Name) (s : State) : Out := s.falu [a, b] d (fun s => (s.fval a).minNum (s.fval b))

/-- FMAX (R115, R116). -/
def execFmax (d a b : Name) (s : State) : Out := s.falu [a, b] d (fun s => (s.fval a).maxNum (s.fval b))

/-- FCEQ (R115, R116). -/
def execFceq (d a b : Name) (s : State) : Out := s.fint [a, b] d (fun s => truth ((s.fval a).eq (s.fval b)))

/-- FCLT (R115, R116). -/
def execFclt (d a b : Name) (s : State) : Out := s.fint [a, b] d (fun s => truth ((s.fval a).lt (s.fval b)))

/-- FCLE (R115, R116). -/
def execFcle (d a b : Name) (s : State) : Out :=
  s.fint [a, b] d (fun s => truth ((s.fval a).lt (s.fval b) || (s.fval a).eq (s.fval b)))

/-- FCLASS (R115, R116). -/
def execFclass (d a : Name) (s : State) : Out := s.fint [a] d (fun s => ipow ((s.fmtOf a).classOf (s.upat a)))

/-- FNEG (R115, R116). -/
def execFneg (d a : Name) (s : State) : Out := s.falu [a] d (fun s => (s.fval a).neg)

/-- FABS (R115, R116). -/
def execFabs (d a : Name) (s : State) : Out := s.falu [a] d (fun s => (s.fval a).abs)

/-! ## Conversions (R55, R70, R71, R115, R117) -/

/-- ILLEGAL_INSTRUCTION where SR is encoded and the conversion is exact (R55, R117). -/
def srRefused (rm : RMode) (exact : Bool) : Option Trap := if rm = .sr ∧ exact then some illegal else none

/-- FCVT (R115, R117). -/
def execFcvt (d a : Name) (rm : RMode) (s : State) : Out :=
  s.guardedIf { reads := floats [a], writes := floats [d] }
    (fun s => srRefused rm ((s.fmtOf a).within (s.fmtOf d))) (fun s =>
      s.withNoise rm 1 (fun ws s =>
        s.putPat [a] d (BitVec.ofNat 64 ((s.fmtOf d).round rm (ws.headD 0) (s.fval a)))))

/-- FCVTF (R115, R117): SR is accepted where the range of a holds a value that the format of d cannot. -/
def execFcvtf (d a : Name) (rm : RMode) (s : State) : Out :=
  s.guardedIf { reads := ints [a], writes := floats [d] }
    (fun s => srRefused rm ((s.fmtOf d).holdsInt (s.thr.name a).kind (s.thr.name a).width)) (fun s =>
      s.withNoise rm 1 (fun ws s =>
        s.putPat [a] d (BitVec.ofNat 64 ((s.fmtOf d).round rm (ws.headD 0) (FVal.ofInt (s.val a))))))

/-- What a NaN or an infinity gives in an integer name (R71); none for WIDTH_OVERFLOW. `inf` is the infinity's sign, none
for NaN. -/
def narrowSpecial (c : NameCell) (inf : Option Bool) : Option Narrowed :=
  let put (y : Int) (sat : Bool) : Narrowed :=
    ⟨BitVec.ofNat 64 (lowBits c.width y), decide (y = 0), decide (y < 0), false, true, sat⟩
  match c.mode, inf with
  | .wrap, _ => some (put 0 false)
  | .sat, none => some (put 0 true)
  | .sat, some neg => some (put (if neg then rangeLo c.kind c.width else rangeHi c.kind c.width) true)
  | .trap, _ => none

/-- A float converted to an integer name: what narrowing stores, or the trap (R71). -/
def convertInt (d : Name) (c : NameCell) (v : FVal) (rm : RMode) (nw : Nat) : Except Trap Narrowed :=
  let fromOpt (x : Int) (r : Option Narrowed) : Except Trap Narrowed :=
    match r with | some y => .ok y | none => .error (widthOverflow d x)
  match v with
  | .nan => fromOpt 0 (narrowSpecial c none)
  | .inf neg => fromOpt 0 (narrowSpecial c (some neg))
  | .fin neg m e =>
    let x := roundInt neg m e rm nw
    fromOpt x (narrow c.kind c.width c.mode x)

/-- FCVTI (R71, R115): SR is always accepted. -/
def execFcvti (d a : Name) (rm : RMode) (s : State) : Out :=
  s.guarded { reads := floats [a], writes := ints [d] } (fun s =>
    s.withNoise rm 1 (fun ws s1 =>
      match convertInt d (s.thr.name d) (s.fval a) rm (ws.headD 0) with
      | .error x => s.trap x
      | .ok r => s1.finish [a] { Pending.none with names := [(d, r.pat)], flags := r.flags }))

/-! ## Fused multiply-add (R118) -/

/-- A fused operation with one rounding; it is long-latency. -/
def State.fused (s : State) (d a b : Name) (look : Look) (f : FVal → FVal → FVal) : Out :=
  s.guarded { reads := floats [d, a, b], writes := floats [d] } (fun s =>
    s.finishLong look.val [d, a, b] { Pending.none with
      names := [(d, BitVec.ofNat 64 ((s.fmtOf d).rne (f ((s.fval a).mul (s.fval b)) (s.fval d))))] })

/-- FMA (R118): a × b + d. -/
def execFma (d a b : Name) (look : Look) (s : State) : Out := s.fused d a b look (fun p x => p.add x)

/-- FMS (R118): a × b − d. -/
def execFms (d a b : Name) (look : Look) (s : State) : Out := s.fused d a b look (fun p x => p.add x.neg)

/-- FNMA (R118): d − a × b. -/
def execFnma (d a b : Name) (look : Look) (s : State) : Out := s.fused d a b look (fun p x => x.add p.neg)

end Sys2Proof.Machine
end

