-- ==== Sys2Proof/Machine/BlockMove.lean ====
section
/-! DEFINITION. BlockMove: BMOV and BSET, in steps (R119 to R121). -/

namespace Sys2Proof.Machine
open Sys2Proof

/-- The wrong or repeated index of a block move, if there is one (R119). -/
def blockNames (mov : Bool) (d a b : Name) : Option Trap :=
  if d = 63 then some (mapFault 63)
  else if b = 63 then some (mapFault 63)
  else if d = b then some (mapFault d.val)
  else if mov ∧ (d = a ∨ a = b) then some (mapFault a.val)
  else none

/-- Of two failures of one step the one that is reported: the cause ranked highest, then the lowest address (R121). Where a
source and a destination byte share that address, the write, which is checked first, is reported (log 89). -/
def Fail.ofStep (a b : Fail) : Fail :=
  if b.rank < a.rank ∨ (b.rank = a.rank ∧ b.trap.addr.toNat < a.trap.addr.toNat) then b else a

/-- Adds a failure to those of a step. -/
def Fail.merge (a : Option Fail) (b : Fail) : Option Fail :=
  match a with | none => some b | some x => some (x.ofStep b)

/-- Checks a step's bytes one by one as accesses of the thread (R120): the worst failure so far, if any, and where the bytes
that pass lie, in ascending order. Poison is reported at the first byte of its word (R315). -/
def State.checkBytes (s : State) (k : AccKind) (p : Nat) : Nat → Option Fail → List Piece → (Option Fail × List Piece) × State
  | 0, w, ps => ((w, ps), s)
  | n + 1, w, ps =>
    let a := (p + n) % 2 ^ 64
    match s.access s.thr s.cur.1 k a 1 1 with
    | (.error f, s1) => s1.checkBytes k p n (Fail.merge w f) ps
    | (.ok qs, s1) =>
      match (if k = .read then s1.piecesPoison s.cur.1 qs else none) with
      | some (v, pa) => s1.checkBytes k p n (Fail.merge w ⟨10, mkTrap .uncorrectable v 0x100 pa⟩) ps
      | none => s1.checkBytes k p n w (qs ++ ps)

/-- The bytes of a step in ascending order: each copied from its source, or set to `fill` where there is none (R120). -/
def State.moveBytes (s : State) (fill : Byte) : List Piece → List Piece → State
  | [], _ => s
  | x :: xs, y :: ys =>
    let (b, s1) := s.loadPiece s.cur.1 y
    (s1.storePiece s1.cur.1 x b).moveBytes fill xs ys
  | x :: xs, [] => (s.storePiece s.cur.1 x [fill]).moveBytes fill xs []

/-- The bytes of the step that begins at a destination (R120). -/
def stepLen (dst : Nat) (count : Int) : Nat := min count.toNat (64 - dst % 64)

/-- One step: its bytes checked, then moved; or its trap (R120, R121). -/
def State.blockStep (s : State) (mov : Bool) (dst src n : Nat) (fill : Byte) : Except Trap State :=
  let ((w0, to_), s1) := s.checkBytes .write dst n none []
  let ((w, from_), s2) := if mov then s1.checkBytes .read src n w0 [] else ((w0, []), s1)
  match w with
  | some f => .error f.trap
  | none => .ok (s2.moveBytes fill to_ from_)

/-- The trap of a step; a poisoned source leaves its record (R315). X1 carried the physical address until here. -/
def State.blockTrap (s : State) (x : Trap) : Out :=
  if x.cause = Cause.uncorrectable then
    (s.noteUncorrectable s.cur.1 s.cur.2 s.thr x.x1.toNat 0x100 s.thr.pc.toNat).trap { x with x1 := 0 }
  else s.trap x

/-- The names of a block move after `n` bytes (R120). -/
def State.blockNext (s : State) (mov : Bool) (d a b : Name) (n : Nat) : State :=
  s.stepNames ([(d, s.pat d + BitVec.ofNat 64 n)] ++ (if mov then [(a, s.pat a + BitVec.ofNat 64 n)] else []) ++
    [(b, BitVec.ofNat 64 (lowBits (s.thr.name b).width (s.val b - n)))])

/-- BMOV and BSET: one step, and past the instruction when nothing is left (R120). A repeated index or n63 is reported before
an index that is undeclared or of the wrong kind (log 88). -/
def State.block (s : State) (mov : Bool) (d a b : Name) : Out :=
  match blockNames mov d a b with
  | some x => s.trap x
  | none =>
    let srcs : List (Name × Need) := [(d, .u64), (a, if mov then .u64 else .int), (b, .int)]
    let dsts : List (Name × Need) := [(d, .any)] ++ (if mov then [(a, .any)] else []) ++ [(b, .any)]
    let u : Use := { reads := srcs, writes := dsts }
    s.guarded u (fun s =>
      let fill : Byte := BitVec.ofNat 8 (s.upat a)
      if s.val b ≤ 0 then (s.consume u.names).done
      else
        let n := stepLen (s.upat d) (s.val b)
        match s.blockStep mov (s.upat d) (s.upat a) n fill with
        | .error x => s.blockTrap x
        | .ok s1 =>
          let s2 := s1.blockNext mov d a b n
          if s.val b ≤ (n : Int) then s2.endSteps u.names (dsts.map Prod.fst) else s2.again)

/-- BMOV (R119 to R121): copies a block of bytes. -/
def execBmov (d a b : Name) (s : State) : Out := s.block true d a b

/-- BSET (R119 to R121): fills a block of bytes. -/
def execBset (d a b : Name) (s : State) : Out := s.block false d a b

end Sys2Proof.Machine
end

