-- ==== Sys2Proof/Machine/Blocks.lean ====
section
/-! DEFINITION. Blocks: format tags, lanes, and the DX and MX block formats (R62 to R69, R171, R182). -/

namespace Sys2Proof.Machine
open Sys2Proof

/-! ## Tags (R68, R171) -/

/-- The element width of a tag; a RAW lane has 64 bits (R68, R171). -/
def tagWidth : Tag → Nat
  | .raw => 64
  | .i32 | .fp32 => 32
  | .i16 | .bf16 | .fp16 => 16
  | .dx6 => 6
  | .dx4 | .mxfp4 => 4
  | _ => 8

/-- The elements of a register under a tag (R68). -/
def tagCount : Tag → Nat
  | .raw => 8
  | .i32 | .fp32 => 16
  | .i16 | .bf16 | .fp16 => 32
  | .dx4 | .mxfp4 => 128
  | _ => 64

/-- The listed side bits of a tag, from bit 0; RAW and the tags without a range keep all 64 (R68). -/
def sideBits : Tag → Nat
  | .dx8 | .dx6 | .mxfp4 => 32
  | .mxe4m3 | .mxe5m2 | .mxint8 => 16
  | _ => 64

/-- A tag with blocks. -/
def isBlockTag (t : Tag) : Bool := decide (9 ≤ t.code)

/-- The float format of a tag's elements, if they are floats (R51, R66). -/
def tagFmt : Tag → Option Fmt
  | .fp32 => some Fmt.b32
  | .bf16 => some Fmt.bf16
  | .fp16 => some Fmt.b16
  | .e4m3 | .mxe4m3 => some Fmt.e4m3
  | .e5m2 | .mxe5m2 => some Fmt.e5m2
  | .mxfp4 => some Fmt.e2m1
  | _ => none

/-- An integer lane tag. -/
def isIntTag (t : Tag) : Bool := decide (t = .i8 ∨ t = .i16 ∨ t = .i32)

/-- The integer tag of a lane width (R173, R178, R244). -/
def intTag (w : Nat) : Tag := if w = 8 then .i8 else if w = 16 then .i16 else .i32

/-! ## Lanes -/

/-- The elements of a bit string, `n` of width `w`, lowest first. -/
def unpackLanes (w n x : Nat) : List Nat := (List.range n).map (fun i => bits x (w * i) w)

/-- Elements put together, lowest first. -/
def packLanes (w : Nat) (ls : List Nat) : Nat := ls.foldr (fun x acc => x % 2 ^ w + acc * 2 ^ w) 0

/-- A register of a tag from its lanes, with a side field. -/
def regOfLanes (t : Tag) (ls : List Nat) (side : BitVec 64) : VRegVal :=
  ⟨BitVec.ofNat 512 (packLanes (tagWidth t) ls), side, t⟩

/-- The lanes of a register. -/
def VRegVal.lanes (v : VRegVal) : List Nat := unpackLanes (tagWidth v.tag) (tagCount v.tag) v.data.toNat

/-- Data with the bits above a tag's elements 0 (R68). -/
def maskData (t : Tag) (x : Nat) : BitVec 512 := BitVec.ofNat 512 (x % 2 ^ (tagWidth t * tagCount t))

/-- Side bits with those outside a tag's range 0 (R68). -/
def maskSide (t : Tag) (x : Nat) : BitVec 64 := BitVec.ofNat 64 (x % 2 ^ sideBits t)

/-- A lane read signed. -/
def laneInt (w p : Nat) : Int := patVal .signed w p

/-! ## Element values (R62, R66, R68) -/

/-- The value of a DX element of width `w` under its block's exponents (R62). -/
def dxValue (w code e0 e1 : Nat) : FVal :=
  let e := if bit1 code (w - 1) then e1 else e0
  if e = 255 then .nan
  else
    let m := patVal .signed (w - 1) (code % 2 ^ (w - 1))
    .fin (decide (m < 0)) m.natAbs ((e : Int) - 127)

/-- A value times 2^k. -/
def FVal.scale : FVal → Int → FVal
  | .fin neg m e, k => .fin neg m (e + k)
  | v, _ => v

/-- The value of an MX element under its block's scale (R66). -/
def mxValue (t : Tag) (code x : Nat) : FVal :=
  if x = 255 then .nan
  else
    match tagFmt t with
    | some f => (f.value code).scale ((x : Int) - 127)
    | none => (FVal.ofInt (laneInt 8 code)).scale ((x : Int) - 133)

/-- The value of element `i` of a register (R51, R62, R66, R182); RAW reads as an integer pattern. -/
def VRegVal.elem (v : VRegVal) (i : Nat) : FVal :=
  let w := tagWidth v.tag
  let code := bits v.data.toNat (w * i) w
  let j := i / 32
  match v.tag with
  | .dx8 | .dx6 | .dx4 => dxValue w code (bits v.side.toNat (16 * j) 8) (bits v.side.toNat (16 * j + 8) 8)
  | .mxe4m3 | .mxe5m2 | .mxfp4 | .mxint8 => mxValue v.tag code (bits v.side.toNat (8 * j) 8)
  | .i8 | .i16 | .i32 => FVal.ofInt (laneInt w code)
  | t => match tagFmt t with
    | some f => f.value code
    | none => FVal.ofInt code

/-- The values of a register's elements. -/
def VRegVal.elems (v : VRegVal) : List FVal := (List.range (tagCount v.tag)).map v.elem

/-! ## Encoding blocks (R65, R182) -/

/-- NaN. -/
def FVal.isNan : FVal → Bool
  | .nan => true
  | _ => false

/-- The greatest magnitude of a list; an infinity counts as larger than any finite value (R65). -/
def maxAbs (xs : List FVal) : FVal :=
  xs.foldl (fun a x => if a.lt x.abs then x.abs else a) (.fin false 0 0)

/-- A zero. -/
def FVal.isZero : FVal → Bool
  | .fin _ m _ => decide (m = 0)
  | _ => false

/-- A block's element codes and its two exponents or its scale. -/
structure Block where
  codes : List Nat
  e0 : Nat
  e1 : Nat
deriving DecidableEq, Repr

/-- Whether |x| ≤ (M − 1) · 2^(e − 127) (R65). -/
def dxFits (w e : Nat) (x : FVal) : Bool := !(FVal.lt (.fin false (2 ^ (w - 2) - 1) ((e : Int) - 127)) x.abs)

/-- A DX element: the selector and the rounded, clamped mantissa (R65). -/
def dxElem (w e0 e1 : Nat) (mode : RMode) (nw : Nat) (x : FVal) : Nat :=
  let s := !dxFits w e0 x
  let e : Int := if s then e1 else e0
  let m : Int := match x with
    | .fin neg m ex => roundInt neg m (ex - (e - 127)) mode nw
    | .inf neg => if neg then -ipow (w - 2) else ipow (w - 2) - 1
    | .nan => 0
  let c := max (-ipow (w - 2)) (min m (ipow (w - 2) - 1))
  (if s then 2 ^ (w - 1) else 0) + lowBits (w - 1) c

/-- dx_encode of 32 values (R65); `nws` are the noise words of SR. -/
def dxEncode (w : Nat) (mode : RMode) (xs : List FVal) (nws : List Nat) : Block :=
  if xs.any FVal.isNan then ⟨List.replicate 32 0, 255, 255⟩
  else
    let a := maxAbs xs
    let top := 256 - w
    let e1 := if a.isZero then 0 else ((List.range (top + 1)).find? (fun e => dxFits w e a)).getD top
    let e0 := e1 - (w - 2)
    ⟨((List.range 32).zip xs).map (fun p => dxElem w e0 e1 mode (nws.getD p.1 0) p.2), e0, e1⟩

/-- The greatest exponent of an MX element format (R182). -/
def mxEmax : Tag → Int
  | .mxe4m3 => 8
  | .mxe5m2 => 15
  | .mxfp4 => 2
  | _ => 0

/-- floor(log2 a) of a finite nonzero magnitude; an infinity counts as 2^128 (R182). -/
def floorLog2 : FVal → Int
  | .fin _ m e => (Nat.log2 m : Int) + e
  | _ => 128

/-- A value rounded into an MX element format, saturated to its largest finite magnitude (R182). -/
def mxElem (t : Tag) (x : Nat) (mode : RMode) (nw : Nat) (v : FVal) : Nat :=
  match tagFmt t with
  | some f =>
    match v with
    | .nan => f.nanCode
    | .inf neg => f.signed neg f.maxCode
    | .fin neg m e =>
      let c := f.round mode nw (.fin neg m (e - ((x : Int) - 127)))
      if c % 2 ^ (f.ew + f.fw) ≤ f.maxCode then c else f.signed neg f.maxCode
  | none =>
    match v with
    | .nan => 0
    | .inf neg => if neg then 128 else 127
    | .fin neg m e =>
      lowBits 8 (max (-128) (min (roundInt neg m (e - ((x : Int) - 127) + 6) mode nw) 127))

/-- An infinity counted as 2^128 (R182). -/
def FVal.capInf : FVal → FVal
  | .inf _ => .fin false 1 128
  | v => v

/-- mx_encode of 32 values (R182): the scale stands in `e0`. -/
def mxEncode (t : Tag) (mode : RMode) (xs : List FVal) (nws : List Nat) : Block :=
  let noNan := match tagFmt t with | some f => decide (f.nans = .none) | none => true
  if noNan && xs.any FVal.isNan then ⟨List.replicate 32 0, 255, 0⟩
  else
    let a := maxAbs (xs.map FVal.capInf)
    let x := if a.isZero then 0 else (max 0 (min (floorLog2 a - mxEmax t + 127) 254)).toNat
    ⟨((List.range 32).zip xs).map (fun p => mxElem t x mode (nws.getD p.1 0) p.2), x, 0⟩

/-- Splits a list into runs of `k`. -/
def chunks {α : Type} (k : Nat) : Nat → List α → List (List α)
  | 0, _ => []
  | n + 1, l => l.take k :: chunks k n (l.drop k)

/-- A register of a DX tag from its blocks. -/
def regOfDx (t : Tag) (bs : List Block) : VRegVal :=
  ⟨BitVec.ofNat 512 (packLanes (tagWidth t) (bs.flatMap Block.codes)),
   BitVec.ofNat 64 (packLanes 16 (bs.map (fun b => b.e0 + 256 * b.e1))), t⟩

/-- A register of an MX tag from its blocks. -/
def regOfMx (t : Tag) (bs : List Block) : VRegVal :=
  ⟨BitVec.ofNat 512 (packLanes (tagWidth t) (bs.flatMap Block.codes)),
   BitVec.ofNat 64 (packLanes 8 (bs.map Block.e0)), t⟩

/-- The value of a float into an integer lane: rounded, saturated, NaN as 0 (R71). -/
def toIntLane (w : Nat) (mode : RMode) (nw : Nat) : FVal → Nat
  | .nan => 0
  | .inf neg => if neg then 2 ^ (w - 1) else 2 ^ (w - 1) - 1
  | .fin neg m e => lowBits w (max (-ipow (w - 1)) (min (roundInt neg m e mode nw) (ipow (w - 1) - 1)))

/-! ## The memory formats (R64, R66, R67, R242) -/

/-- The tag that a memory format gives the register. -/
def fmtTag : MemFmt → Tag
  | .tag t => t
  | .mxfp6a | .mxfp6b => .mxe4m3

/-- The element format of an MXFP6 memory format. -/
def fp6 : MemFmt → Option Fmt
  | .mxfp6a => some Fmt.e2m3
  | .mxfp6b => some Fmt.e3m2
  | .tag _ => none

/-- The element bytes of a memory format: E of R242. -/
def fmtElemBytes : MemFmt → Nat
  | .tag .dx6 => 48
  | .tag _ => 64
  | _ => 48

/-- The exponent or scale bytes of a memory format. -/
def fmtSideBytes (f : MemFmt) : Nat := if f.isBlock then sideBits (fmtTag f) / 8 else 0

/-- The alignment of the exponent or scale pointer (R242). -/
def fmtSideAlign (f : MemFmt) : Nat := if (fmtTag f).isDx then 2 else 1

/-- The register that element and side bytes give (R242); MXFP6 elements widen exactly into E4M3. -/
def loadFmt (f : MemFmt) (elems side : Nat) : VRegVal :=
  match fp6 f with
  | some g =>
    ⟨BitVec.ofNat 512 (packLanes 8 ((unpackLanes 6 64 elems).map (fun c => Fmt.e4m3.rne (g.value c)))),
      maskSide .mxe4m3 side, .mxe4m3⟩
  | none => ⟨maskData (fmtTag f) elems, if f.isBlock then maskSide (fmtTag f) side else 0, fmtTag f⟩

/-- The element codes and the side code of block `j` as VSTX writes them (R64, R66, R67, R242). -/
def storeBlock (f : MemFmt) (v : VRegVal) (j : Nat) : List Nat × Nat :=
  let w := tagWidth v.tag
  let codes := (List.range 32).map (fun i => bits v.data.toNat (w * (32 * j + i)) w)
  let nan := (List.range 32).any (fun i => (v.elem (32 * j + i)).isNan)
  if v.tag.isDx then
    if nan then (List.replicate 32 0, 0xFFFF) else (codes, bits v.side.toNat (16 * j) 16)
  else
    let sc := bits v.side.toNat (8 * j) 8
    match fp6 f with
    | some g => if nan then (List.replicate 32 0, 255) else (codes.map (fun c => g.rne (Fmt.e4m3.value c)), sc)
    | none => if nan && decide (v.tag = .mxfp4 ∨ v.tag = .mxint8) then (List.replicate 32 0, 255) else (codes, sc)

/-- The element and side bytes that VSTX writes (R242). -/
def storeFmt (f : MemFmt) (v : VRegVal) : List Byte × List Byte :=
  if !f.isBlock then (leBytes 64 v.data.toNat, [])
  else
    let bs := (List.range (tagCount v.tag / 32)).map (storeBlock f v)
    let w := if (fp6 f).isSome then 6 else tagWidth v.tag
    (leBytes (fmtElemBytes f) (packLanes w (bs.flatMap Prod.fst)),
     leBytes (fmtSideBytes f) (packLanes (if v.tag.isDx then 16 else 8) (bs.map Prod.snd)))

end Sys2Proof.Machine
end

