-- ==== Sys2Proof/Machine/Vector.lean ====
section
/-! DEFINITION. Vector: the instructions of the quad vector unit and their 16-bit forms (R80, R151 to R155, R170 to R184). -/

namespace Sys2Proof.Machine
open Sys2Proof

/-! ## Issue to the unit (R152, R153) -/

/-- TAG_MISMATCH (R69): the tag found and the lowest accepted code. -/
def tagFail (found exp : Tag) : Trap := mkTrap .tagMismatch 0 found.code exp.code

/-- The tag of a register of the running thread. -/
def State.tagOf (s : State) (v : VReg) : Tag := (s.thr.vreg v).tag

/-- A check of one register's tag against a list of accepted tags in order of their codes (R69). -/
def State.tagIn (s : State) (v : VReg) (acc : List Tag) : Option Trap :=
  if s.tagOf v ∈ acc then none else some (tagFail (s.tagOf v) (acc.headD .raw))

/-- Every register of a list carries a tag (R170). -/
def State.tagsAre (s : State) (vs : List VReg) (t : Tag) : Option Trap :=
  (vs.find? (fun v => decide (s.tagOf v ≠ t))).map (fun v => tagFail (s.tagOf v) t)

/-- The lane type: the tag of the first register among the sources that fix it is accepted, and the others carry it; no
register is illegal (R69, R170). -/
def State.laneType (s : State) (vs : List VReg) (acc : List Tag) : Option Trap :=
  match vs with
  | [] => some illegal
  | v :: rest => match s.tagIn v acc with
    | some x => some x
    | none => s.tagsAre rest (s.tagOf v)

/-- Lane tags of codes 1 to 8. -/
def arithTags : List Tag := [.i8, .i16, .i32, .fp32, .bf16, .fp16, .e4m3, .e5m2]
/-- Integer lane tags. -/
def intTags : List Tag := [.i8, .i16, .i32]
/-- Tags of codes 0 to 8. -/
def laneTags : List Tag := .raw :: arithTags
/-- Float lane tags. -/
def floatTags : List Tag := [.fp32, .bf16, .fp16, .e4m3, .e5m2]

/-- Whether a core's dispatch queue is full (R153). -/
def State.vqFull (s : State) : Bool := decide (4 ≤ (s.core s.cur.1).vq.length)

/-- An entry in the core's dispatch queue (R153). -/
def State.vqPush (s : State) : State :=
  let c := s.core s.cur.1
  s.setCore s.cur.1 { c with vq := c.vq ++ [.op s.cur.2] }

/-- An instruction of the vector unit: its checks, then an entry in the core's dispatch queue; with the queue full it does
not issue (R152, R153). -/
def State.vissue (s : State) (u : Use) (pre : State → Option Trap) (k : State → Out) : Out :=
  s.guardedIf u pre (fun s => if s.vqFull then s.again else k s.vqPush)

/-- An instruction of the vector unit that writes a name: a value that the name cannot hold traps at issue, and no entry reaches
the queue (R152). -/
def State.vread (s : State) (u : Use) (pre : State → Option Trap) (d : Name) (x : State → Int) : Out :=
  s.guardedIf u pre (fun s =>
    if s.vqFull then s.again
    else
      match s.thr.narrow d (x s) with
      | none => s.trap (widthOverflow d (x s))
      | some _ => s.vqPush.narrowInto u.names d (x s) id)

/-! ## Operands as lanes (R171) -/

/-- The lane value that a broadcast name supplies under a tag (R171). -/
def State.bcastLane (s : State) (t : Tag) (n : Name) : Nat :=
  match tagFmt t with
  | some f => f.rne (FVal.ofInt (s.val n))
  | none => lowBits (tagWidth t) (s.val n)

/-- The name of a broadcast field. -/
def lowName (n : LowName) : Name := ⟨n.val, by omega⟩

/-- The lanes of a vector operand under the lane type (R171). -/
def State.opLanes (s : State) (t : Tag) : VOp → List Nat
  | .reg v => unpackLanes (tagWidth t) (tagCount t) (s.thr.vreg v).data.toNat
  | .bcast n => List.replicate (tagCount t) (s.bcastLane t (lowName n))

/-- The shift amounts of a vector operand (R172). -/
def State.shiftLanes (s : State) (t : Tag) : VOp → List Nat
  | .reg v => (unpackLanes (tagWidth t) (tagCount t) (s.thr.vreg v).data.toNat).map (fun x => min x (tagWidth t))
  | .bcast n => List.replicate (tagCount t) (min (s.val (lowName n)).toNat (tagWidth t))

/-- A lane operation: integers wrap, floats round once (R171). -/
def laneOp (t : Tag) (fi : Int → Int → Int) (ff : FVal → FVal → FVal) (x y : Nat) : Nat :=
  match tagFmt t with
  | some f => f.rne (ff (f.value x) (f.value y))
  | none => lowBits (tagWidth t) (fi (laneInt (tagWidth t) x) (laneInt (tagWidth t) y))

/-- A lane operation of one operand. -/
def laneOp1 (t : Tag) (fi : Int → Int) (ff : FVal → FVal) (x : Nat) : Nat :=
  match tagFmt t with
  | some f => f.rne (ff (f.value x))
  | none => lowBits (tagWidth t) (fi (laneInt (tagWidth t) x))

/-- A lane comparison: all ones or 0 (R173). -/
def laneCmp (t : Tag) (fi : Int → Int → Bool) (ff : FVal → FVal → Bool) (x y : Nat) : Nat :=
  let r := match tagFmt t with
    | some f => ff (f.value x) (f.value y)
    | none => fi (laneInt (tagWidth t) x) (laneInt (tagWidth t) y)
  if r then 2 ^ tagWidth t - 1 else 0

/-- The use of a two-source vector instruction. -/
def vuse2 (d : VReg) (a b : VOp) : Use :=
  { reads := ints (opNames a ++ opNames b), vreads := opRegs a ++ opRegs b, vwrites := [d] }

/-- The register that fixes the lane type, and gives the side field (R170, R171). -/
def State.firstReg (s : State) (vs : List VReg) : VRegVal :=
  match vs with
  | v :: _ => s.thr.vreg v
  | [] => VRegVal.zero

/-- Writes a vector register as the result. -/
def State.putVreg (s : State) (reads : List Name) (d : VReg) (x : VRegVal) : Out :=
  s.finish reads { Pending.none with vregs := [(d, x)] }

/-- An element-wise instruction of two sources (R172). -/
def State.vlane (s : State) (d : VReg) (a b : VOp) (acc : List Tag) (f : Tag → Nat → Nat → Nat) : Out :=
  let u := vuse2 d a b
  s.vissue u (fun s => s.laneType (opRegs a ++ opRegs b) acc) (fun s =>
    let r := s.firstReg (opRegs a ++ opRegs b)
    s.putVreg u.names d (regOfLanes r.tag (List.zipWith (f r.tag) (s.opLanes r.tag a) (s.opLanes r.tag b)) r.side))

/-- A lane shift (R172). -/
def State.vshift (s : State) (d : VReg) (a b : VOp) (f : Nat → Nat → Nat → Nat) : Out :=
  let u := vuse2 d a b
  s.vissue u (fun s => s.laneType (opRegs a ++ opRegs b) intTags) (fun s =>
    let r := s.firstReg (opRegs a ++ opRegs b)
    s.putVreg u.names d
      (regOfLanes r.tag (List.zipWith (f (tagWidth r.tag)) (s.opLanes r.tag a) (s.shiftLanes r.tag b)) r.side))

/-- A lane comparison (R173): a mask under the integer tag of the width, side field 0. -/
def State.vcompare (s : State) (d : VReg) (a b : VOp) (fi : Int → Int → Bool) (ff : FVal → FVal → Bool) : Out :=
  let u := vuse2 d a b
  s.vissue u (fun s => s.laneType (opRegs a ++ opRegs b) arithTags) (fun s =>
    let t := (s.firstReg (opRegs a ++ opRegs b)).tag
    s.putVreg u.names d
      (regOfLanes (intTag (tagWidth t)) (List.zipWith (laneCmp t fi ff) (s.opLanes t a) (s.opLanes t b)) 0))

/-- An element-wise instruction of one register (R172). -/
def State.vunary (s : State) (d a : VReg) (fi : Int → Int) (ff : FVal → FVal) : Out :=
  s.vissue { vreads := [a], vwrites := [d] } (fun s => s.laneType [a] arithTags) (fun s =>
    let r := s.thr.vreg a
    s.putVreg [] d (regOfLanes r.tag (r.lanes.map (laneOp1 r.tag fi ff)) r.side))

/-- Shifts of one lane of width `w` (R172). -/
def laneShl (w x s : Nat) : Nat := x * 2 ^ s % 2 ^ w
/-- A logical right shift of a lane. -/
def laneShr (_w x s : Nat) : Nat := x / 2 ^ s
/-- An arithmetic right shift of a lane. -/
def laneSra (w x s : Nat) : Nat := lowBits w (laneInt w x / ipow s)

/-! ## Major 0x1A -/

/-- VADD (R172). -/
def execVadd (d : VReg) (a b : VOp) (s : State) : Out := s.vlane d a b arithTags (fun t => laneOp t (· + ·) FVal.add)

/-- VSUB (R172). -/
def execVsub (d : VReg) (a b : VOp) (s : State) : Out := s.vlane d a b arithTags (fun t => laneOp t (· - ·) (fun x y => x.add y.neg))

/-- VMUL (R172). -/
def execVmul (d : VReg) (a b : VOp) (s : State) : Out := s.vlane d a b arithTags (fun t => laneOp t (· * ·) FVal.mul)

/-- VMIN (R172). -/
def execVmin (d : VReg) (a b : VOp) (s : State) : Out := s.vlane d a b arithTags (fun t => laneOp t min FVal.minNum)

/-- VMAX (R172). -/
def execVmax (d : VReg) (a b : VOp) (s : State) : Out := s.vlane d a b arithTags (fun t => laneOp t max FVal.maxNum)

/-- VMINU (R172). -/
def execVminu (d : VReg) (a b : VOp) (s : State) : Out := s.vlane d a b intTags (fun _ => min)

/-- VMAXU (R172). -/
def execVmaxu (d : VReg) (a b : VOp) (s : State) : Out := s.vlane d a b intTags (fun _ => max)

/-- VAND (R172). -/
def execVand (d : VReg) (a b : VOp) (s : State) : Out := s.vlane d a b laneTags (fun _ => (· &&& ·))

/-- VOR (R172). -/
def execVor (d : VReg) (a b : VOp) (s : State) : Out := s.vlane d a b laneTags (fun _ => (· ||| ·))

/-- VXOR (R172). -/
def execVxor (d : VReg) (a b : VOp) (s : State) : Out := s.vlane d a b laneTags (fun _ => (· ^^^ ·))

/-- VSHL (R172). -/
def execVshl (d : VReg) (a b : VOp) (s : State) : Out := s.vshift d a b laneShl

/-- VSHR (R172). -/
def execVshr (d : VReg) (a b : VOp) (s : State) : Out := s.vshift d a b laneShr

/-- VSRA (R172). -/
def execVsra (d : VReg) (a b : VOp) (s : State) : Out := s.vshift d a b laneSra

/-- VABS (R172). -/
def execVabs (d a : VReg) (s : State) : Out := s.vunary d a (fun x => (x.natAbs : Int)) FVal.abs

/-- VNEG (R172). -/
def execVneg (d a : VReg) (s : State) : Out := s.vunary d a (fun x => - x) FVal.neg

/-- VCEQ (R173). -/
def execVceq (d : VReg) (a b : VOp) (s : State) : Out := s.vcompare d a b (fun x y => decide (x = y)) FVal.eq

/-- VCLT (R173). -/
def execVclt (d : VReg) (a b : VOp) (s : State) : Out := s.vcompare d a b (fun x y => decide (x < y)) FVal.lt

/-- VCLE (R173). -/
def execVcle (d : VReg) (a b : VOp) (s : State) : Out := s.vcompare d a b (fun x y => decide (x ≤ y)) (fun x y => x.lt y || x.eq y)

/-- The 512-bit image of a vector operand (R174). -/
def State.opImage (s : State) (t : Tag) : VOp → BitVec 512
  | .reg v => (s.thr.vreg v).data
  | .bcast n => BitVec.ofNat 512 (packLanes (tagWidth t) (s.opLanes t (.bcast n)))

/-- VSEL (R174): bits of a where the mask vd has ones, of b elsewhere. -/
def execVsel (d : VReg) (a b : VOp) (s : State) : Out :=
  let u : Use := { vuse2 d a b with vreads := opRegs a ++ opRegs b ++ [d] }
  s.vissue u (fun s => s.laneType (opRegs a ++ opRegs b) laneTags) (fun s =>
    let r := s.firstReg (opRegs a ++ opRegs b)
    let m := (s.thr.vreg d).data
    s.putVreg u.names d ⟨(s.opImage r.tag a &&& m) ||| (s.opImage r.tag b &&& ~~~m), r.side, r.tag⟩)

/-- VMOV's effect (R175). -/
def State.vcopy (s : State) (d a : VReg) : Out :=
  s.vissue { vreads := [a], vwrites := [d] } (fun _ => none) (fun s => s.putVreg [] d (s.thr.vreg a))

/-- VMOV (R175): a whole register with side field and tag. -/
def execVmov (d a : VReg) (s : State) : Out := s.vcopy d a

/-- VBCAST (R176): every lane takes the broadcast value under a tag. -/
def execVbcast (d : VReg) (a : LowName) (tag : Tag) (s : State) : Out :=
  s.vissue { reads := ints [lowName a], vwrites := [d] } (fun _ => none) (fun s =>
    s.putVreg [lowName a] d (regOfLanes tag (s.opLanes tag (.bcast a)) 0))

/-- The lane that an index names: its value modulo the lane count (R177). -/
def laneIndex (t : Tag) (x : Int) : Nat := (x % (tagCount t : Int)).toNat

/-- VEXT (R177): one lane into a name. -/
def execVext (d : Name) (a : VReg) (b : Name) (s : State) : Out :=
  s.vread { reads := ints [b], writes := ints [d], vreads := [a] } (fun s => s.tagIn a laneTags) d (fun s =>
    let r := s.thr.vreg a
    let p := bits r.data.toNat (tagWidth r.tag * laneIndex r.tag (s.val b)) (tagWidth r.tag)
    if isIntTag r.tag then laneInt (tagWidth r.tag) p else (p : Int))

/-- VINS (R177): a value into one lane. -/
def execVins (d : VReg) (a b : Name) (s : State) : Out :=
  s.vissue { reads := ints [a, b], vreads := [d], vwrites := [d] } (fun s => s.tagIn d laneTags) (fun s =>
    let r := s.thr.vreg d
    let ls := r.lanes.set (laneIndex r.tag (s.val b)) (lowBits (tagWidth r.tag) (s.val a))
    s.putVreg [a, b] d (regOfLanes r.tag ls r.side))

/-- The tag that VPERM's index register must carry (R178). -/
def permTag (t : Tag) : Tag := intTag (tagWidth t)

/-- The tag check of VPERM: its lanes, then its index register (R178). -/
def State.permFail (s : State) (a : VReg) (b : VOp) : Option Trap :=
  match s.tagIn a laneTags with
  | some x => some x
  | none => s.tagsAre (opRegs b) (permTag (s.tagOf a))

/-- The lane that each lane of VPERM's result comes from, for a source under a tag (R178). -/
def State.permIndex (s : State) (t : Tag) : VOp → List Nat
  | .reg v => (List.range (tagCount t)).map (fun i =>
      bits (s.thr.vreg v).data.toNat (tagWidth (permTag t) * i) (tagWidth (permTag t)) % tagCount t)
  | .bcast m => List.replicate (tagCount t) (laneIndex t (s.val (lowName m)))

/-- VPERM (R178): lanes by index. -/
def execVperm (d a : VReg) (b : VOp) (s : State) : Out :=
  let u : Use := { reads := ints (opNames b), vreads := a :: opRegs b, vwrites := [d] }
  s.vissue u (fun s => s.permFail a b) (fun s =>
    let r := s.thr.vreg a
    s.putVreg u.names d (regOfLanes r.tag ((s.permIndex r.tag b).map (fun i => r.lanes.getD i 0)) r.side))

/-- A reduction of all lanes into lane 0 (R179). -/
def State.vreduce (s : State) (d a : VReg) (fi : Int → Int → Int) (ff : FVal → FVal → FVal) : Out :=
  s.vissue { vreads := [a], vwrites := [d] } (fun s => s.laneType [a] arithTags) (fun s =>
    let r := s.thr.vreg a
    let w := tagWidth r.tag
    let x := match tagFmt r.tag with
      | some f =>
        let vs := r.lanes.map f.value
        f.rne (vs.tail.foldl ff (vs.headD .nan))
      | none =>
        let vs := r.lanes.map (laneInt w)
        lowBits w (vs.tail.foldl fi (vs.headD 0))
    s.putVreg [] d (regOfLanes r.tag [x] 0))

/-- VRADD (R179): the exact sum of all lanes, rounded once. -/
def execVradd (d a : VReg) (s : State) : Out := s.vreduce d a (· + ·) FVal.add

/-- VRMAX (R179). -/
def execVrmax (d a : VReg) (s : State) : Out := s.vreduce d a max FVal.maxNum

/-- VRMIN (R179). -/
def execVrmin (d a : VReg) (s : State) : Out := s.vreduce d a min FVal.minNum

/-! ## Major 0x1B (R180) -/

/-- A long-latency float instruction whose lanes read a, b and, with `acc`, d. -/
def State.vlong (s : State) (d : VReg) (a b : VOp) (acc : Bool) (look : Look) (f : FVal → FVal → FVal → FVal) : Out :=
  let srcs := opRegs a ++ opRegs b ++ (if acc then [d] else [])
  let u : Use := { reads := ints (opNames a ++ opNames b), vreads := srcs, vwrites := [d] }
  s.vissue u (fun s => s.laneType srcs floatTags) (fun s =>
    let r := s.firstReg srcs
    let g := (tagFmt r.tag).getD Fmt.b32
    let ls := (List.zip (s.opLanes r.tag a) (List.zip (s.opLanes r.tag b) (s.opLanes r.tag (.reg d)))).map
      (fun p => g.rne (f (g.value p.1) (g.value p.2.1) (g.value p.2.2)))
    s.finishLong look.val u.names { Pending.none with vregs := [(d, regOfLanes r.tag ls r.side)] })

/-- VFMA (R180): a × b + d. -/
def execVfma (d : VReg) (a b : VOp) (look : Look) (s : State) : Out :=
  s.vlong d a b true look (fun x y z => (x.mul y).add z)

/-- VFMS (R180): a × b − d. -/
def execVfms (d : VReg) (a b : VOp) (look : Look) (s : State) : Out :=
  s.vlong d a b true look (fun x y z => (x.mul y).add z.neg)

/-- VDIV (R180). -/
def execVdiv (d : VReg) (a b : VOp) (look : Look) (s : State) : Out := s.vlong d a b false look (fun x y _ => x.div y)

/-- VSQRT (R180). -/
def execVsqrt (d a : VReg) (look : Look) (s : State) : Out :=
  s.vissue { vreads := [a], vwrites := [d] } (fun s => s.laneType [a] floatTags) (fun s =>
    let r := s.thr.vreg a
    let g := (tagFmt r.tag).getD Fmt.b32
    s.finishLong look.val [] { Pending.none with
      vregs := [(d, regOfLanes r.tag (r.lanes.map (fun x => g.rne (g.value x).sqrt)) r.side)] })

/-! ## Major 0x1C: register groups (R181 to R183) -/

/-- Elements of a group, and the registers of its source and its destination (R181). -/
def groupSize (S D : Tag) : Nat := max (tagCount S) (tagCount D)

/-- Whether every value of a source tag is a value of the target: SR is refused (R55, R70, R181, log 12). -/
def tagExact (S D : Tag) : Bool :=
  if S = D then true
  else if isBlockTag S || isBlockTag D then false
  else
    match tagFmt S, tagFmt D with
    | some f, some g => f.within g
    | none, some g => g.holdsInt .signed (tagWidth S)
    | none, none => decide (tagWidth S ≤ tagWidth D)
    | some _, none => false

/-- The checks of a conversion in their order (R181): the source tag, the extents and SR, the other sources' tags. -/
def State.groupFail (s : State) (d a : VReg) (D : Tag) (rm : RMode) (acc : List Tag) (exact : Bool) : Option Trap :=
  let S := s.tagOf a
  let p := groupSize S D
  match s.tagIn a acc with
  | some x => some x
  | none =>
    if 32 < a.val + p / tagCount S ∨ 32 < d.val + p / tagCount D ∨ (rm = .sr ∧ exact) then some illegal
    else s.tagsAre (vregRun a (p / tagCount S)) S

/-- The destination registers of a converted group: elements `k` at a time (R181, R182). -/
def convertGroup (D : Tag) (rm : RMode) (xs : List FVal) (nws : List Nat) : List VRegVal :=
  let n := tagCount D
  let kd := xs.length / n
  let blocks (enc : List FVal → List Nat → Block) : List Block :=
    List.zipWith enc (chunks 32 (xs.length / 32) xs) (chunks 32 (xs.length / 32) nws ++ List.replicate (xs.length / 32) [])
  if D.isDx then
    (chunks (n / 32) kd (blocks (dxEncode (tagWidth D) rm))).map (regOfDx D)
  else if isBlockTag D then
    (chunks (n / 32) kd (blocks (mxEncode D rm))).map (regOfMx D)
  else
    let lane (v : FVal) (nw : Nat) : Nat := match tagFmt D with
      | some f => f.round rm nw v
      | none => toIntLane (tagWidth D) rm nw v
    (chunks n kd (List.zipWith lane xs (nws ++ List.replicate (xs.length - nws.length) 0))).map (fun ls => regOfLanes D ls 0)

/-- The mode in which a conversion rounds: a DX element becomes an FP32 one by rne, in whatever mode (R63); only one whose exponent
no conversion produces is inexact. -/
def convMode (S D : Tag) (rm : RMode) : RMode := if S.isDx && decide (D = .fp32) then .rne else rm

/-- VCVT and VDXQ: a register group converted, its noise drawn in ascending element order (R181). -/
def State.vconvert (s : State) (d a : VReg) (D : Tag) (rm : RMode) (acc : List Tag) (exact : Tag → Bool) : Out :=
  let S := s.tagOf a
  let p := groupSize S D
  let srcs := vregRun a (p / tagCount S)
  let dsts := vregRun d (p / tagCount D)
  s.guardedIf { vreads := srcs, vwrites := dsts } (fun s => s.groupFail d a D rm acc (exact (s.tagOf a))) (fun s =>
    let xs := srcs.flatMap (fun v => (s.thr.vreg v).elems)
    if s.vqFull then s.again
    else s.withNoise rm p (fun nws s =>
      s.vqPush.finish [] { Pending.none with vregs := List.zip dsts (convertGroup D (convMode S D rm) xs nws) }))

/-- The sources of VCVT: every tag but RAW (R182). -/
def vcvtSources : List Tag :=
  arithTags ++ [.dx8, .dx6, .dx4, .mxe4m3, .mxe5m2, .mxfp4, .mxint8]

/-- VCVT (R182). -/
def execVcvt (d a : VReg) (tag : Tag) (rm : RMode) (s : State) : Out :=
  s.vconvert d a tag rm vcvtSources (fun S => tagExact S tag)

/-- VDXQ (R183): quantises into DX blocks; SR is always accepted. -/
def execVdxq (d a : VReg) (tag : Tag) (rm : RMode) (s : State) : Out :=
  s.vconvert d a tag rm [.fp32, .bf16, .fp16] (fun _ => false)

/-! ## Tags and side fields (R184) -/

/-- VTAG (R184): a register's tag code into a name. -/
def execVtag (d : Name) (a : VReg) (s : State) : Out :=
  s.vread { writes := ints [d], vreads := [a] } (fun _ => none) d (fun s => ((s.tagOf a).code : Int))

/-- VRETAG (R184): a register under a new tag, no bit converted. -/
def execVretag (d a : VReg) (tag : Tag) (s : State) : Out :=
  s.vissue { vreads := [a], vwrites := [d] } (fun _ => none) (fun s =>
    let r := s.thr.vreg a
    s.putVreg [] d ⟨maskData tag r.data.toNat, maskSide tag r.side.toNat, tag⟩)

/-- VSEXR (R184): side-field bits into a name. -/
def execVsexr (d : Name) (a : VReg) (item : Fin 5) (s : State) : Out :=
  s.vread { writes := ints [d], vreads := [a] } (fun _ => none) d (fun s =>
    let x := (s.thr.vreg a).side.toNat
    ((if item.val = 4 then x else bits x (16 * item.val) 16 : Nat) : Int))

/-- VSEXW (R184): side-field bits from a name, those outside the listed range staying 0. -/
def execVsexw (d : VReg) (a : Name) (item : Fin 5) (s : State) : Out :=
  s.vissue { reads := ints [a], vreads := [d], vwrites := [d] } (fun _ => none) (fun s =>
    let r := s.thr.vreg d
    let x := r.side.toNat
    let y := if item.val = 4 then s.ext a
      else x - bits x (16 * item.val) 16 * 2 ^ (16 * item.val) + s.ext a % 2 ^ 16 * 2 ^ (16 * item.val)
    s.putVreg [a] d { r with side := maskSide r.tag y })

/-! ## The 16-bit forms on v0 to v15 (R80) -/

/-- A 4-bit register field: v0 to v15. -/
def v16 (n : Fin 16) : VReg := ⟨n.val, by omega⟩

/-- Its operand. -/
def o16 (n : Fin 16) : VOp := .reg (v16 n)

/-- VADD_16 (R80). -/
def execVadd16 (d b : Fin 16) (s : State) : Out := s.vlane (v16 d) (o16 d) (o16 b) arithTags (fun t => laneOp t (· + ·) FVal.add)

/-- VSUB_16 (R80). -/
def execVsub16 (d b : Fin 16) (s : State) : Out := s.vlane (v16 d) (o16 d) (o16 b) arithTags (fun t => laneOp t (· - ·) (fun x y => x.add y.neg))

/-- VMUL_16 (R80). -/
def execVmul16 (d b : Fin 16) (s : State) : Out := s.vlane (v16 d) (o16 d) (o16 b) arithTags (fun t => laneOp t (· * ·) FVal.mul)

/-- VAND_16 (R80). -/
def execVand16 (d b : Fin 16) (s : State) : Out := s.vlane (v16 d) (o16 d) (o16 b) laneTags (fun _ => (· &&& ·))

/-- VOR_16 (R80). -/
def execVor16 (d b : Fin 16) (s : State) : Out := s.vlane (v16 d) (o16 d) (o16 b) laneTags (fun _ => (· ||| ·))

/-- VXOR_16 (R80). -/
def execVxor16 (d b : Fin 16) (s : State) : Out := s.vlane (v16 d) (o16 d) (o16 b) laneTags (fun _ => (· ^^^ ·))

/-- VMIN_16 (R80). -/
def execVmin16 (d b : Fin 16) (s : State) : Out := s.vlane (v16 d) (o16 d) (o16 b) arithTags (fun t => laneOp t min FVal.minNum)

/-- VMAX_16 (R80). -/
def execVmax16 (d b : Fin 16) (s : State) : Out := s.vlane (v16 d) (o16 d) (o16 b) arithTags (fun t => laneOp t max FVal.maxNum)

/-- VSHL_16 (R80). -/
def execVshl16 (d b : Fin 16) (s : State) : Out := s.vshift (v16 d) (o16 d) (o16 b) laneShl

/-- VSHR_16 (R80). -/
def execVshr16 (d b : Fin 16) (s : State) : Out := s.vshift (v16 d) (o16 d) (o16 b) laneShr

/-- VSRA_16 (R80). -/
def execVsra16 (d b : Fin 16) (s : State) : Out := s.vshift (v16 d) (o16 d) (o16 b) laneSra

/-- VMOV_16 (R80). -/
def execVmov16 (d b : Fin 16) (s : State) : Out := s.vcopy (v16 d) (v16 b)

/-- VABS_16 (R80). -/
def execVabs16 (d b : Fin 16) (s : State) : Out := s.vunary (v16 d) (v16 b) (fun x => (x.natAbs : Int)) FVal.abs

/-- VNEG_16 (R80). -/
def execVneg16 (d b : Fin 16) (s : State) : Out := s.vunary (v16 d) (v16 b) (fun x => - x) FVal.neg

/-- VCLT_16 (R80). -/
def execVclt16 (d b : Fin 16) (s : State) : Out := s.vcompare (v16 d) (o16 d) (o16 b) (fun x y => decide (x < y)) FVal.lt

end Sys2Proof.Machine
end

