-- ==== Sys2Proof/Machine/LoadStore.lean ====
section
/-! DEFINITION. LoadStore: ordinary loads and stores of names and of vector registers (R236 to R244). -/

namespace Sys2Proof.Machine
open Sys2Proof

/-! ## Memory operands (R236) -/

/-- The pointer of an access: the base name and a byte offset, modulo 2^64 (R236). -/
def State.ptrOf (s : State) (a : Name) (off : Int) : Nat := lowBits 64 (s.val a + off)

/-- Checks several parts of one access, each (pointer, length, alignment): their pieces, or the failure that R29 ranks
highest. -/
def State.accessAll (s : State) (k : AccKind) : List (Nat × Nat × Nat) → Except Fail (List Piece) × State
  | [] => (.ok [], s)
  | (p, n, al) :: rest =>
    match s.access s.thr s.cur.1 k p n al with
    | (.ok ps, s1) =>
      match s1.accessAll k rest with
      | (.ok qs, s2) => (.ok (ps ++ qs), s2)
      | (.error f, s2) => (.error f, s2)
    | (.error f, s1) =>
      match s1.accessAll k rest with
      | (.ok _, s2) => (.error f, s2)
      | (.error g, s2) => (.error (f.worse g), s2)

/-- A checked load of several parts, then its continuation with the bytes. -/
def State.loading (s : State) (parts : List (Nat × Nat × Nat)) (k : List Byte → State → Out) : Out :=
  match s.accessAll .read parts with
  | (.error f, s1) => s1.fail f
  | (.ok ps, s1) =>
    match s1.loadBytes ps with
    | (.error x, s2) => s2.trap x
    | (.ok bs, s2) => k bs s2

/-- A checked store of several parts. -/
def State.storing (s : State) (parts : List (Nat × Nat × Nat)) (bs : List Byte) (k : State → Out) : Out :=
  match s.accessAll .write parts with
  | (.error f, s1) => s1.fail f
  | (.ok ps, s1) => k (s1.storePieces s1.cur.1 ps bs)

/-- A checked vector store of several parts: a store for each word (R240). -/
def State.vstoring (s : State) (parts : List (Nat × Nat × Nat)) (bs : List Byte) (k : State → Out) : Out :=
  match s.accessAll .write parts with
  | (.error f, s1) => s1.fail f
  | (.ok ps, s1) => k (s1.storeWords s1.cur.1 ps bs)

/-! ## Scalar loads (R237) -/

/-- A loaded number: signed or not, of `n` bytes. -/
def loadedInt (signed : Bool) (n w : Nat) : Int := if signed then patVal .signed (8 * n) w else w

/-- A scalar load of `n` bytes; `ks` are the float kinds of its own width (R237). -/
def State.scalarLoad (s : State) (d a : Name) (imm : Int) (look : Look) (n : Nat) (ks : List Kind)
    (x : Thread → Nat → Int) : Out :=
  s.guarded { reads := ints [a], writes := [(d, .intOr ks)] } (fun s =>
    s.loading [(s.ptrOf a (imm * n), n, n)] (fun bs s =>
      let w := leNat bs
      if (s.thr.name d).kind.isFloat then
        s.finishLong look.val [a] { Pending.none with names := [(d, BitVec.ofNat 64 w)] }
      else s.narrowLong look.val [a] d (x s.thr w)))

/-- LDB (R237). -/
def execLdb (d a : Name) (imm : Int) (look : Look) (s : State) : Out :=
  s.scalarLoad d a imm look 1 [] (fun _ w => loadedInt true 1 w)

/-- LDH (R237). -/
def execLdh (d a : Name) (imm : Int) (look : Look) (s : State) : Out :=
  s.scalarLoad d a imm look 2 [.f16, .bf16] (fun _ w => loadedInt true 2 w)

/-- LDW (R237). -/
def execLdw (d a : Name) (imm : Int) (look : Look) (s : State) : Out :=
  s.scalarLoad d a imm look 4 [.f32] (fun _ w => loadedInt true 4 w)

/-- LDD (R237): signed for a signed destination. -/
def execLdd (d a : Name) (imm : Int) (look : Look) (s : State) : Out :=
  s.scalarLoad d a imm look 8 [.f64] (fun t w => t.loadVal d w)

/-- LDBU (R237). -/
def execLdbu (d a : Name) (imm : Int) (look : Look) (s : State) : Out :=
  s.scalarLoad d a imm look 1 [] (fun _ w => loadedInt false 1 w)

/-- LDHU (R237). -/
def execLdhu (d a : Name) (imm : Int) (look : Look) (s : State) : Out :=
  s.scalarLoad d a imm look 2 [.f16, .bf16] (fun _ w => loadedInt false 2 w)

/-- LDWU (R237). -/
def execLdwu (d a : Name) (imm : Int) (look : Look) (s : State) : Out :=
  s.scalarLoad d a imm look 4 [.f32] (fun _ w => loadedInt false 4 w)

/-! ## Scalar stores (R239) -/

/-- The bytes of a source name as a store of `n` bytes writes them: a float's pattern is its ext64 (R239). -/
def State.storeBytes (s : State) (d : Name) (n : Nat) : List Byte := leBytes n (s.ext d % 2 ^ (8 * n))

/-- A scalar store of `n` bytes. The stored name is checked before the base (log 9). -/
def State.scalarStore (s : State) (d a : Name) (imm : Int) (look : Look) (n : Nat) (ks : List Kind) : Out :=
  s.guarded { reads := [(d, .intOr ks), (a, .int)] } (fun s =>
    s.storing [(s.ptrOf a (imm * n), n, n)] (s.storeBytes d n) (fun s1 =>
      s1.finishLong look.val [d, a] Pending.none))

/-- STB (R239). -/
def execStb (d a : Name) (imm : Int) (look : Look) (s : State) : Out := s.scalarStore d a imm look 1 []

/-- STH (R239). -/
def execSth (d a : Name) (imm : Int) (look : Look) (s : State) : Out := s.scalarStore d a imm look 2 [.f16, .bf16]

/-- STW (R239). -/
def execStw (d a : Name) (imm : Int) (look : Look) (s : State) : Out := s.scalarStore d a imm look 4 [.f32]

/-- STD (R239). -/
def execStd (d a : Name) (imm : Int) (look : Look) (s : State) : Out := s.scalarStore d a imm look 8 [.f64]

/-! ## Vector loads and stores (R240 to R244) -/

/-- The parts of a register image in memory (R241). -/
def imageParts (t : Tag) (p : Nat) : List (Nat × Nat × Nat) :=
  (p, 64, 64) :: (if isBlockTag t then [((p + 64) % 2 ^ 64, 8, 8)] else [])

/-- VLD (R241): a register image; its tag becomes the operand's. -/
def execVld (d : VReg) (a : Name) (tag : Tag) (look : Look) (s : State) : Out :=
  s.guarded { reads := ints [a], vwrites := [d] } (fun s =>
    s.loading (imageParts tag (s.ptrOf a 0)) (fun bs s =>
      let side := if isBlockTag tag then maskSide tag (leNat (bs.drop 64)) else 0
      s.finishLong look.val [a] { Pending.none with vregs := [(d, ⟨maskData tag (leNat (bs.take 64)), side, tag⟩)] }))

/-- VST (R241): a register image, after its tag check. -/
def execVst (d : VReg) (a : Name) (tag : Tag) (look : Look) (s : State) : Out :=
  s.guardedIf { reads := ints [a], vreads := [d] } (fun s => s.tagsAre [d] tag) (fun s =>
    let r := s.thr.vreg d
    s.vstoring (imageParts tag (s.ptrOf a 0))
      (leBytes 64 r.data.toNat ++ (if isBlockTag tag then leBytes 8 r.side.toNat else [])) (fun s1 =>
        s1.finishLong look.val [a] Pending.none))

/-- The name after a base name: it holds the exponent or scale pointer of a block format (R242). -/
def nextName (a : Name) : Name := Fin.ofNat 64 (a.val + 1)

/-- The names that VLDX and VSTX read (R242). -/
def fmtNames (a : Name) (f : MemFmt) : List Name := if f.isBlock then [a, nextName a] else [a]

/-- The parts of a register in a memory format: elements, then exponents or scales (R242). -/
def State.fmtParts (s : State) (a : Name) (f : MemFmt) : List (Nat × Nat × Nat) :=
  let p := s.ptrOf a 0
  let q := if s.ext (nextName a) = 0 then (p + fmtElemBytes f) % 2 ^ 64 else s.ext (nextName a)
  (p, fmtElemBytes f, 8) :: (if f.isBlock then [(q, fmtSideBytes f, fmtSideAlign f)] else [])

/-- A block format whose base is n63 is illegal: it has no name after it (R242). -/
def fmtIllegal (a : Name) (f : MemFmt) : Bool := f.isBlock && decide (a = 63)

/-- VLDX (R242): a register from a memory format. -/
def execVldx (d : VReg) (a : Name) (fmt : MemFmt) (look : Look) (s : State) : Out :=
  if fmtIllegal a fmt then s.trap illegal
  else s.guarded { reads := ints (fmtNames a fmt), vwrites := [d] } (fun s =>
    s.loading (s.fmtParts a fmt) (fun bs s =>
      s.finishLong look.val (fmtNames a fmt) { Pending.none with
        vregs := [(d, loadFmt fmt (leNat (bs.take (fmtElemBytes fmt))) (leNat (bs.drop (fmtElemBytes fmt))))] }))

/-- VSTX (R242): a register in a memory format, after its tag check. -/
def execVstx (d : VReg) (a : Name) (fmt : MemFmt) (look : Look) (s : State) : Out :=
  if fmtIllegal a fmt then s.trap illegal
  else s.guardedIf { reads := ints (fmtNames a fmt), vreads := [d] } (fun s => s.tagsAre [d] (fmtTag fmt)) (fun s =>
    let bs := storeFmt fmt (s.thr.vreg d)
    s.vstoring (s.fmtParts a fmt) (bs.1 ++ bs.2) (fun s1 =>
      s1.finishLong look.val (fmtNames a fmt) Pending.none))

/-- VLDB (R243): one lane, replicated. -/
def execVldb (d : VReg) (a : Name) (tag : Tag) (look : Look) (s : State) : Out :=
  let n := tagWidth tag / 8
  s.guarded { reads := ints [a], vwrites := [d] } (fun s =>
    s.loading [(s.ptrOf a 0, n, n)] (fun bs s =>
      s.finishLong look.val [a] { Pending.none with
        vregs := [(d, regOfLanes tag (List.replicate (tagCount tag) (leNat bs)) 0)] }))

/-- The register of a gather's or a scatter's indices (R244). -/
def indexReg (d : VReg) : VReg := Fin.ofNat 32 (d.val + 1)

/-- The lane addresses of a gather or a scatter (R244), each with its length and alignment. -/
def State.laneParts (s : State) (d : VReg) (a : Name) (tag : Tag) : List (Nat × Nat × Nat) :=
  let n := tagWidth tag / 8
  let p := s.ptrOf a 0
  (unpackLanes (tagWidth tag) (tagCount tag) (s.thr.vreg (indexReg d)).data.toNat).map
    (fun i => ((p + i * n) % 2 ^ 64, n, n))

/-- Checks every lane: their pieces, or the failure of the lowest lane that has one (R244). -/
def State.accessLanes (s : State) (k : AccKind) : List (Nat × Nat × Nat) → Except Fail (List Piece) × State
  | [] => (.ok [], s)
  | (p, n, al) :: rest =>
    match s.access s.thr s.cur.1 k p n al with
    | (.error f, s1) => (.error f, s1)
    | (.ok ps, s1) =>
      match s1.accessLanes k rest with
      | (.ok qs, s2) => (.ok (ps ++ qs), s2)
      | (.error f, s2) => (.error f, s2)

/-- VGATH (R244): lanes from indexed addresses. -/
def execVgath (d : VReg) (a : Name) (tag : Tag) (look : Look) (s : State) : Out :=
  let n := tagWidth tag / 8
  s.guardedIf { reads := ints [a], vreads := [indexReg d], vwrites := [d] }
    (fun s => s.tagsAre [indexReg d] (intTag (tagWidth tag))) (fun s =>
      match s.accessLanes .read (s.laneParts d a tag) with
      | (.error f, s1) => s1.fail f
      | (.ok ps, s1) =>
        match s1.loadBytes ps with
        | (.error x, s2) => s2.trap x
        | (.ok bs, s2) =>
          s2.finishLong look.val [a] { Pending.none with
            vregs := [(d, regOfLanes tag ((chunks n (tagCount tag) bs).map leNat) 0)] })

/-- VSCAT (R244): lanes to indexed addresses in lane order. -/
def execVscat (d : VReg) (a : Name) (tag : Tag) (look : Look) (s : State) : Out :=
  let n := tagWidth tag / 8
  s.guardedIf { reads := ints [a], vreads := [d, indexReg d] }
    (fun s => match s.tagsAre [d] tag with
      | some x => some x
      | none => s.tagsAre [indexReg d] (intTag (tagWidth tag))) (fun s =>
      match s.accessLanes .write (s.laneParts d a tag) with
      | (.error f, s1) => s1.fail f
      | (.ok ps, s1) =>
        (s1.storeWords s1.cur.1 ps ((s.thr.vreg d).lanes.flatMap (leBytes n))).finishLong look.val [a] Pending.none)

end Sys2Proof.Machine
end

