-- ==== Sys2Proof/Machine/Words.lean ====
section
/-! DEFINITION. Words: full/empty words, atomics, reductions, reduction slots, reservations and phase boundaries
(R209 to R211, R218 to R226, R238, R245 to R250). -/

namespace Sys2Proof.Machine
open Sys2Proof

/-- Checks an access to one aligned 8-byte word and hands its piece on. -/
def State.wordAccess (s : State) (k : AccKind) (p : Nat) (f : Piece → State → Out) : Out :=
  match s.access s.thr s.cur.1 k p 8 8 with
  | (.error e, s1) => s1.fail e
  | (.ok (x :: _), s1) => f x s1
  | (.ok [], s1) => s1.fail (protection p k)

/-- The level at which an operation of a scope is performed on a word (R196, R198, R247). -/
def Loc.level (x : Loc) (sc : Scope) : Level :=
  match x with
  | .global _ pol _ => atomicLevel sc pol
  | .sram _ _ => .l1

/-- The first poisoned word that an operation of the running thread meets at the level where it is performed, once the core's own bytes
of the line have been written back there and its partials pushed (R218, R221, R315). -/
def State.levelPoison (s : State) (lv : Level) (x : Piece) : Option (Nat × Nat) :=
  match x.loc with
  | .sram _ _ => s.piecePoison s.cur.1 x
  | .global pa _ owner =>
    if lv = .l1 then s.piecePoison s.cur.1 x
    else ((s.settle s.cur.1 pa x.n).flushLine s.cur.1 (pa / 64)).piecePoison s.cur.1
      { x with loc := .global pa (if lv = .home then 2 else 1) owner }

/-- A word that an instruction finds poisoned where it works on it is its UNCORRECTABLE (R315, log 130); else the instruction goes
on. -/
def State.cleanWord (s : State) (lv : Level) (x : Piece) (f : State → Out) : Out :=
  match s.levelPoison lv x with
  | some (ptr, pa) =>
    (s.noteUncorrectable s.cur.1 s.cur.2 s.thr pa 0x100 s.thr.pc.toNat).trap (mkTrap .uncorrectable ptr 0x100 0)
  | none => f s

/-- A full/empty or reservation instruction first has the core's line of the word written back and dropped, and a partial of the
word pushed (R196, R205, R221, R226, R245). -/
def State.resPrepare (s : State) (core : Nat) (x : Piece) : State :=
  match x.loc with
  | .global pa _ _ => (s.settle core pa 8).flushLine core (pa / 64)
  | .sram _ _ => s

/-! ## Full/empty words (R238, R245, R246) -/

/-- A full/empty instruction on a word of a policy 0 or 1 page is performed at the die L2, which holds the block alone for it, after
the core's L1 has written the word back and dropped it; of a policy 2 page at its home (R196, R245). -/
def State.fePrepare (s : State) (x : Piece) : State :=
  let s1 := s.resPrepare s.cur.1 x
  match x.loc with
  | .global pa pol _ =>
    if pol = 2 ∨ s.dev.paKind pa ≠ .hbm then s1 else s1.modMem (fun m => m.holdAlone (s.dev.dieOf s.cur.1) (blockOf pa))
  | .sram _ _ => s1

/-- The value of a word as a full/empty instruction finds it (R245). -/
def State.feLoad (s : State) (x : Piece) : Nat × State := (s.fePrepare x).atomicAt s.cur.1 .quad x (fun _ => none)

/-- The running thread as a full/empty waiter. -/
def State.feWaiter (s : State) (x : Piece) (op : FeOp) (d : Name) : FeWaiter :=
  ⟨x.loc.word, s.me, op, d, s.thr.pc, s.thr.ir.len, BitVec.ofNat 64 x.addr⟩

/-- A full/empty operation whose condition does not hold parks on the word's list, the core's own bytes of the word first
brought to its home (R196, R245); for a word that another device keeps the list stands there (R354). -/
def State.feWait (s : State) (x : Piece) (op : FeOp) (d : Name) (reads : List Name) : Out :=
  let s0 := s.fePrepare x
  if s0.remotePiece x then .next ((s0.remoteWait (.word d op) x.addr false none).park reads .fullEmpty)
  else .next (({ s0 with feWaits := s0.feWaits ++ [s0.feWaiter x op d] }).park reads .fullEmpty)

/-- Whether the condition of a full/empty operation holds: the word's bit is as asked; of a word that another device keeps it is
a free value (R354, log 13). -/
def State.feHolds (s : State) (x : Piece) (full : Bool) : Bool × State :=
  if s.remotePiece x then let (k, s1) := s.choose 2; (decide (k = 0), s1) else (s.isFull x.loc.word == full, s)

/-- A word received by the running thread as LDD writes it, after an effect or before one (R25, R237). -/
def State.takeWord (s : State) (reads : List Name) (d : Name) (w : Nat) (perf : Bool) : Out :=
  if (s.thr.name d).kind.isFloat then s.putPat reads d (BitVec.ofNat 64 w)
  else if perf then s.narrowAfter reads d (s.thr.loadVal d w) id
  else s.narrowInto reads d (s.thr.loadVal d w) id

/-- The destination of a full/empty load (R237, R246). -/
def feUse (d a : Name) : Use := { reads := ints [a], writes := [(d, .intOr [.f64])] }

/-- LDFF (R238, R245): a word once it is full, leaving it full. -/
def execLdff (d a : Name) (imm : Int) (s : State) : Out :=
  s.guarded (feUse d a) (fun s =>
    s.wordAccess .read (s.ptrOf a (imm * 8)) (fun x s =>
      match s.feHolds x true with
      | (true, s) =>
        s.cleanWord (x.loc.level .quad) x (fun s =>
          let (v, s1) := s.feLoad x
          s1.takeWord [a] d v false)
      | (false, s) => s.feWait x .ldff d [a]))

/-- LDE (R246): a full word, which becomes empty. -/
def execLde (d a : Name) (imm : Int) (s : State) : Out :=
  s.guarded (feUse d a) (fun s =>
    s.wordAccess .rmw (s.ptrOf a (imm * 8)) (fun x s =>
      match s.feHolds x true with
      | (true, s) =>
        s.cleanWord (x.loc.level .quad) x (fun s =>
          let (v, s1) := s.feLoad x
          (s1.changeFull x.loc.word false).takeWord [a] d v true)
      | (false, s) => s.feWait x .lde d [a]))

/-- A full/empty store of a word: the value, then the bit (R223, R246). -/
def State.feStore (s : State) (x : Piece) (v : Nat) : State :=
  let s0 := s.fePrepare x
  (match x.loc with
    | .global pa pol owner => s0.levelStore (atomicLevel .quad pol) (s.dev.dieOf s.cur.1) owner pa (leBytes 8 v)
    | .sram c off => s0.modMem (fun m => m.sramWrite c (bytesAt off (leBytes 8 v)))).changeFull x.loc.word true

/-- The sources of a full/empty store (R239, R246). -/
def feStoreUse (d a : Name) : Use := { reads := [(d, .intOr [.f64]), (a, .int)] }

/-- STF (R246): into an empty word, which becomes full. -/
def execStf (d a : Name) (imm : Int) (s : State) : Out :=
  s.guarded (feStoreUse d a) (fun s =>
    s.wordAccess .rmw (s.ptrOf a (imm * 8)) (fun x s =>
      match s.feHolds x false with
      | (true, s) =>
        s.cleanWord (x.loc.level .quad) x (fun s => (s.feStore x (s.ext d)).finish [d, a] Pending.none)
      | (false, s) => s.feWait x (.stf (BitVec.ofNat 64 (s.ext d))) 63 [d, a]))

/-- STFF (R246): a word, which becomes full. -/
def execStff (d a : Name) (imm : Int) (look : Look) (s : State) : Out :=
  s.guarded (feStoreUse d a) (fun s =>
    s.wordAccess .rmw (s.ptrOf a (imm * 8)) (fun x s =>
      s.cleanWord (x.loc.level .quad) x (fun s => (s.feStore x (s.ext d)).finishLong look.val [d, a] Pending.none)))

/-- The bit of a word as FEQ reads it; of a word that another device keeps it is a free value (log 13). -/
def State.readFull (s : State) (x : Piece) : Bool × State :=
  if s.remotePiece x then let (k, s1) := s.choose 2; (decide (k = 1), s1) else (s.isFull x.loc.word, s)

/-- FEQ (R246): whether a word is full. -/
def execFeq (d a : Name) (imm : Int) (look : Look) (s : State) : Out :=
  s.guarded (use2 d a) (fun s =>
    s.wordAccess .read (s.ptrOf a (imm * 8)) (fun x s =>
      s.cleanWord (x.loc.level .quad) x (fun s =>
        let (b, s1) := (s.fePrepare x).readFull x
        s1.narrowLong look.val [a] d (truth b))))

/-- A bit set with its value unchanged (R246). -/
def State.feMark (s : State) (a : Name) (imm : Int) (look : Look) (full : Bool) : Out :=
  s.guarded { reads := ints [a] } (fun s =>
    s.wordAccess .rmw (s.ptrOf a (imm * 8)) (fun x s =>
      s.cleanWord (x.loc.level .quad) x (fun s =>
        ((s.fePrepare x).changeFull x.loc.word full).finishLong look.val [a] Pending.none)))

/-- FEMPTY (R246). -/
def execFempty (a : Name) (imm : Int) (look : Look) (s : State) : Out := s.feMark a imm look false

/-- FEFILL (R246). -/
def execFefill (a : Name) (imm : Int) (look : Look) (s : State) : Out := s.feMark a imm look true

/-! ## Atomics (R218, R219, R247) -/

/-- An atomic: `f` gives the word's new value from the prior one and the operand. The prior value is narrowed after the
word has been updated (R247). -/
def State.atomicOp (s : State) (d a b : Name) (sc : Scope) (f : Word → Word → Word) : Out :=
  s.guarded (use3 d a b) (fun s =>
    s.wordAccess .rmw (s.ptrOf a 0) (fun x s =>
      s.cleanWord (x.loc.level sc) x (fun s =>
        let op := BitVec.ofNat 64 (s.ext b)
        let (v, s1) := s.atomicAt s.cur.1 sc x (fun w => some (f (BitVec.ofNat 64 w) op).toNat)
        s1.narrowAfter [a, b] d (s1.thr.loadVal d v) id)))

/-- AADD (R247): the sum modulo 2^64. -/
def execAadd (d a b : Name) (scope : Scope) (s : State) : Out := s.atomicOp d a b scope (fun w b => w + b)

/-- AMIN (R247): the signed minimum. -/
def execAmin (d a b : Name) (scope : Scope) (s : State) : Out := s.atomicOp d a b scope (fun w b => if w.toInt ≤ b.toInt then w else b)

/-- AMINU (R247): the unsigned minimum. -/
def execAminu (d a b : Name) (scope : Scope) (s : State) : Out := s.atomicOp d a b scope (fun w b => if w.toNat ≤ b.toNat then w else b)

/-- AMAX (R247): the signed maximum. -/
def execAmax (d a b : Name) (scope : Scope) (s : State) : Out := s.atomicOp d a b scope (fun w b => if w.toInt ≤ b.toInt then b else w)

/-- AMAXU (R247): the unsigned maximum. -/
def execAmaxu (d a b : Name) (scope : Scope) (s : State) : Out := s.atomicOp d a b scope (fun w b => if w.toNat ≤ b.toNat then b else w)

/-- AAND (R247): bitwise AND. -/
def execAand (d a b : Name) (scope : Scope) (s : State) : Out := s.atomicOp d a b scope (fun w b => w &&& b)

/-- AOR (R247): bitwise OR. -/
def execAor (d a b : Name) (scope : Scope) (s : State) : Out := s.atomicOp d a b scope (fun w b => w ||| b)

/-- AXOR (R247): bitwise XOR. -/
def execAxor (d a b : Name) (scope : Scope) (s : State) : Out := s.atomicOp d a b scope (fun w b => w ^^^ b)

/-- ASWP (R247): the operand. -/
def execAswp (d a b : Name) (scope : Scope) (s : State) : Out := s.atomicOp d a b scope (fun _ b => b)

/-- ACAS (R247): the operand where the word equals nd as it was; Z tells whether it was stored. -/
def execAcas (d a b : Name) (scope : Scope) (s : State) : Out :=
  let u : Use := { reads := ints [d, a, b], writes := ints [d] }
  s.guarded u (fun s =>
    s.wordAccess .rmw (s.ptrOf a 0) (fun x s =>
      s.cleanWord (x.loc.level scope) x (fun s =>
        let old := s.ext d
        let op := s.ext b
        let (v, s1) := s.atomicAt s.cur.1 scope x (fun w => if w = old then some op else none)
        s1.narrowAfter u.names d (s1.thr.loadVal d v) (fun f => f.withZ (decide (v = old))))))

/-! ## Reductions (R220, R221, R248) -/

/-- A contribution enters the core's update-only partial of a word (R220, R221). -/
def State.addPartial (s : State) (core pa owner : Nat) (op : RedOp) (sc : Scope) (v : Word) : State :=
  match s.mem.partials.find? (fun p => decide (p.core = core ∧ p.word = pa / 8 ∧ p.op = op ∧ p.scope = sc)) with
  | some p =>
    s.modMem (fun m => { m with partials := m.partials.map (fun q => if q = p then { p with val := op.combine p.val v } else q) })
  | none =>
    let s1 := (s.settle core pa 8).makeRoom core (pa / 64)
    let s2 := match s1.mem.line core (pa / 64) with
      | some x =>
        let s2 := s1.writeBackLine x
        let off := pa % 64
        let y := { x with dirty := 0, valid := x.valid &&& ~~~(BitVec.ofNat 64 (255 * 2 ^ off)) }
        s2.modMem (fun m => m.putLine y)
      | none => s1
    s2.modMem (fun m => { m with partials := m.partials ++ [⟨core, pa / 8, op, sc, op.combine op.identity v, owner⟩] })

/-- A reduction at the place that its window, policy and scope give (R220). -/
def State.reduceAt (s : State) (core : Nat) (x : Piece) (op : RedOp) (sc : Scope) (v : Word) : State :=
  match x.loc with
  | .global pa 0 owner =>
    if sc = .core then (s.atomicAt core sc x (fun w => some (op.combine (BitVec.ofNat 64 w) v).toNat)).2
    else s.addPartial core pa owner op sc v
  | _ => (s.atomicAt core sc x (fun w => some (op.combine (BitVec.ofNat 64 w) v).toNat)).2

/-- Whether a reduction enters a partial of the core's L1: of a global word on a policy 0 page, at a scope wider than the core
(R220). -/
def Loc.keepsPartial (x : Loc) (sc : Scope) : Bool :=
  match x with
  | .global _ 0 _ => decide (sc ≠ .core)
  | _ => false

/-- A fire-and-forget reduction (R248); one performed at once is an atomic without a result, which a poisoned word stops (R220,
R315). -/
def State.reduction (s : State) (a b : Name) (sc : Scope) (op : RedOp) : Out :=
  s.guarded { reads := ints [a, b] } (fun s =>
    s.wordAccess .rmw (s.ptrOf a 0) (fun x s =>
      let reduce (s : State) : Out := (s.reduceAt s.cur.1 x op sc (BitVec.ofNat 64 (s.ext b))).finish [a, b] Pending.none
      if x.loc.keepsPartial sc then reduce s else s.cleanWord (x.loc.level sc) x reduce))

/-- RADD (R248). -/
def execRadd (a b : Name) (scope : Scope) (s : State) : Out := s.reduction a b scope .add

/-- RMIN (R248). -/
def execRmin (a b : Name) (scope : Scope) (s : State) : Out := s.reduction a b scope .min

/-- RMAX (R248). -/
def execRmax (a b : Name) (scope : Scope) (s : State) : Out := s.reduction a b scope .max

/-- ROR (R248). -/
def execRor (a b : Name) (scope : Scope) (s : State) : Out := s.reduction a b scope .or

/-! ## Exact reduction slots (R222, R223, R249) -/

/-- A value's contribution to a partial slot (R223). -/
def RfPartial.add (p : RfPartial) (v : FVal) : RfPartial :=
  match v with
  | .nan => { p with nan := true }
  | .inf false => { p with pinf := min (p.pinf + 1) (2 ^ 32 - 1) }
  | .inf true => { p with ninf := min (p.ninf + 1) (2 ^ 32 - 1) }
  | .fin neg m e => { p with acc := p.acc + BitVec.ofInt 320 (signedAt neg m e (-149)) }

/-- A contribution enters the core's partial of a slot; on a page of policy 1 or 2 no partial is kept (R220, R223). -/
def State.addRf (s : State) (core pa pol : Nat) (sc : Scope) (v : FVal) : State :=
  let slot := pa / 64
  match s.mem.rfPartials.find? (fun p => decide (p.core = core ∧ p.slot = slot ∧ p.scope = sc)) with
  | some p => s.modMem (fun m => { m with rfPartials := m.rfPartials.map (fun q => if q = p then p.add v else q) })
  | none =>
    let s0 := s.settle core (64 * slot) 64
    let s1 := (if pol = 0 then s0.makeRoom core slot else s0).flushLine core slot
    let p := (⟨core, slot, sc, 0, 0, 0, false⟩ : RfPartial).add v
    let s2 := s1.modMem (fun m => { m with rfPartials := m.rfPartials ++ [p] })
    if pol = 0 then s2 else s2.pushRf p

/-- RFADD (R222, R249): a float's exact value into a reduction slot of the global window, at dev scope or wider. -/
def execRfadd (a b : Name) (scope : Scope) (s : State) : Out :=
  if scopeRank scope < 3 then s.trap illegal
  else s.guarded { reads := [(a, .int), (b, .floatIn [.f32, .f16, .bf16])] } (fun s =>
    let p := s.ptrOf a 0
    match Option.orFail (windowFail s.cur.1 .rmw p) (alignFail p 64) with
    | some f => s.fail f
    | none =>
      if ptrTag p ≠ 0 then s.fail (protection p .rmw)
      else
        match s.access s.thr s.cur.1 .rmw p 64 64 with
        | (.error f, s1) => s1.fail f
        | (.ok (⟨_, .global pa pol _, _⟩ :: _), s1) =>
          (s1.addRf s1.cur.1 pa pol scope (s.fval b)).finish [a, b] Pending.none
        | (.ok _, s1) => s1.fail (protection p .rmw))

/-! ## Queued reservations (R224 to R226, R250) -/

/-- The flags of a received reservation word: Z as given, the others from the narrowing; a word that a trap-mode name
cannot hold gives WIDTH_OVERFLOW, the name and every flag as they were (R11, R25, R225, R250; log 21). -/
def State.takeReserved (s : State) (reads : List Name) (d : Name) (v : Nat) (z : Bool) : Out :=
  match s.thr.narrow d (s.thr.loadVal d v) with
  | none => s.trap (widthOverflowPerf d (s.thr.loadVal d v))
  | some r => s.finish reads { Pending.none with names := [(d, r.pat)], flags := r.flags.withZ z }

/-- LRW of a word whose home is another device's: its queue stands there. Behind another thread of this device that holds the word or
waits for it the LRW waits too; else whether the word is free at once is a free value (R225, R356, log 13). -/
def State.remoteReserve (s : State) (a d : Name) (w : WordLoc) (va : Nat) (sc : Scope) : Out :=
  let e (g : Bool) : ResEntry := ⟨.remote, w, s.me, s.thr.ctx, s.thr.recIx, g, true, sc, d, BitVec.ofNat 64 va⟩
  let (k, s1) := s.choose 2
  if k = 0 ∧ s.resvs.all (fun e => decide (¬(e.home = .remote ∧ e.loc = w))) then
    let (v, s2) := ({ s1 with resvs := s1.resvs ++ [e true] }).resWord .remote w
    (s2.acquire s2.cur.1 sc).takeReserved [a] d v true
  else .next (({ s1 with resvs := s1.resvs ++ [e false] }.remoteWait (.reserve w) va false none).park [a] .reservation)

/-- LRW (R225): queues for a word and parks until it holds it; a thread that holds it already reads it with Z := 0. -/
def execLrw (d a : Name) (scope : Scope) (s : State) : Out :=
  s.guarded (use2 d a) (fun s =>
    s.wordAccess .rmw (s.ptrOf a 0) (fun x s =>
      s.cleanWord (resLevel (s.resHome s.cur.1 scope x)) x (fun s =>
        let s0 := s.resPrepare s.cur.1 x
        let h := s0.resHome s0.cur.1 scope x
        let w := x.loc.word
        if s0.holds h w s0.thr.ctx s0.thr.recIx then
          let (v, s1) := s0.resWord h w
          s1.takeReserved [a] d v false
        else if h = .remote then s0.remoteReserve a d w x.addr scope
        else
          let room := decide (s0.admitted h < 2048) && !s0.resvs.any (fun e => decide (e.home = h) && !e.admitted)
          let free := (s0.holder h w).isNone
          let e : ResEntry := ⟨h, w, s0.me, s0.thr.ctx, s0.thr.recIx, room && free, room, scope, d, BitVec.ofNat 64 x.addr⟩
          let s1 := { s0 with resvs := s0.resvs ++ [e] }
          if room && free then
            let (v, s2) := s1.resWord h w
            (s2.acquire s2.cur.1 scope).takeReserved [a] d v true
          else .next (s1.park [a] .reservation))))

/-- The holder's SCH or LRX (R226): a release; the word stored, if `v` is a value; the word handed on. -/
def State.giveHeld (s : State) (reads : List Name) (sc : Scope) (e : ResEntry) (v : Option Nat) (x : Piece) : Out :=
  let s0 := (s.release s.cur.1 sc).resPrepare s.cur.1 x
  let s1 := match v, x.loc with
    | some y, .global pa _ owner => s0.levelStore (resLevel e.home) (resDie e.home) owner pa (leBytes 8 y)
    | some y, .sram c off => s0.modMem (fun m => m.sramWrite c (bytesAt off (leBytes 8 y)))
    | none, _ => s0
  (s1.handOn e).putFlags reads (FlagWrite.onlyZ true)

/-- SCH, which stores `v`, and LRX (R226). A holder that stores meets the word's poison before it releases anything (R25, R315,
log 130); a thread that does not hold the word only releases. -/
def State.giveUp (s : State) (reads : List Name) (a : Name) (sc : Scope) (v : State → Option Nat) : Out :=
  s.wordAccess .rmw (s.ptrOf a 0) (fun x s =>
    match (s.holder (s.resHome s.cur.1 sc x) x.loc.word).filter (fun e => decide (e.ctx = s.thr.ctx ∧ e.recIx = s.thr.recIx)) with
    | none => ((s.release s.cur.1 sc).resPrepare s.cur.1 x).putFlags reads (FlagWrite.onlyZ false)
    | some e =>
      if (v s).isSome then s.cleanWord (resLevel e.home) x (fun s => s.giveHeld reads sc e (v s) x)
      else s.giveHeld reads sc e none x)

/-- SCH (R226, R250). -/
def execSch (a b : Name) (scope : Scope) (s : State) : Out :=
  s.guarded { reads := ints [a, b] } (fun s => s.giveUp [a, b] a scope (fun s => some (s.ext b)))

/-- LRX (R226, R250). -/
def execLrx (a : Name) (scope : Scope) (s : State) : Out :=
  s.guarded { reads := ints [a] } (fun s => s.giveUp [a] a scope (fun _ => none))

/-! ## Phase boundaries (R209 to R211, R250) -/

/-- PHASE.REL (R209). -/
def execPhaseRel (scope : Scope) (s : State) : Out := (s.release s.cur.1 scope).done

/-- PHASE.ACQ (R210). -/
def execPhaseAcq (scope : Scope) (s : State) : Out := (s.acquire s.cur.1 scope).done

/-- PHASE.AR (R211). -/
def execPhaseAr (scope : Scope) (s : State) : Out :=
  ((s.release s.cur.1 scope).acquire s.cur.1 scope).done

end Sys2Proof.Machine
end

