-- ==== Sys2Proof/Machine/FlumeOps.lean ====
section
/-! DEFINITION. FlumeOps: enqueues, dequeues and their variants, QSTAT, QBIND (R212, R228 to R231, R251 to R254, R356), and
the window instructions (R190 to R192, R255 to R257). -/

namespace Sys2Proof.Machine
open Sys2Proof

/-! ## The names of an element (R251, R252) -/

/-- The size code of a handle (R251). -/
def handleSize (h : Nat) : Nat := bits h 0 2

/-- How many names carry an element. -/
def elemNames (h : Nat) : Nat := 2 ^ handleSize h

/-- Brings a bound handle name before the number of element names is known from it (R160, R254). -/
def State.withHandle (s : State) (a : Name) (k : State → Out) : Out :=
  if (s.thr.name a).bind = .none then k s else s.guarded { reads := ints [a] } k

/-- The checks of a flume instruction (R252): its names, the element names from `e` on among its sources or destinations.
An element that would pass n63 raises MAP_FAULT with the first index. -/
def State.flumeGuard (s : State) (a : Name) (others : List (Name × Need)) (writes : List (Name × Need)) (e : Name)
    (send : Bool) (k : List Name → State → Out) : Out :=
  s.withHandle a (fun s =>
    let n := elemNames (s.ext a)
    if 64 < e.val + n then
      match s.mapFail { reads := ints [a] ++ others } with
      | some x => s.trap x
      | none => s.trap (mapFault e.val)
    else
      let es := nameRun e n
      let u : Use := if send then { reads := ints [a] ++ es.map (fun x => (x, .intOr [.f64])) ++ others, writes := writes }
        else { reads := ints [a] ++ others, writes := es.map (fun x => (x, .elem)) ++ writes }
      s.guarded u (k es))

/-- The element that its names carry (R252). -/
def State.elemOf (s : State) (es : List Name) : List Word := es.map (fun n => BitVec.ofNat 64 (s.ext n))

/-- What a controller answers to the running thread's request. -/
inductive Answer where
  | out (o : Out)
  | ok (pa : Nat) (f : Fcb) (s : State)
  | remote (pa : Nat) (s : State)

/-- A request reaches the controller: the handle's checks, a release at the flume's scope first for an enqueue, then the
controller's checks (R212, R228, R251, R356). -/
def State.flumeOpen (s : State) (h : Nat) (esz : Option Nat) (rel : Bool) : Answer :=
  match s.handleCheck s.thr s.cur.1 h with
  | (.error f, s1) => .out (s1.fail f)
  | (.ok pa, s1) =>
    if s1.remotePa pa then .remote pa (if rel then s1.release s1.cur.1 .fab else s1)
    else
      let s2 := if rel then s1.release s1.cur.1 (s1.fcbRead pa).scopeOf else s1
      match s2.fcbOpen (s2.dev.dieOf s2.cur.1) pa s2.thr.ctx esz with
      | (.error e, s3) => .out (s3.flumeRefused h e)
      | (.ok f, s3) => .ok pa f s3

/-- The running thread as a waiter of a flume (R230). -/
def State.flumeMe (s : State) (pa : Nat) (f : Fcb) (h : Nat) (enq : Bool) (elem : List Word) (dest : Name) (limited : Bool) :
    FlumeWaiter :=
  ⟨pa, f.ctl (s.dev.dieOf s.cur.1), enq, s.me, elem, dest, false, limited, none, BitVec.ofNat 64 (h / 64 * 64), s.thr.ctx⟩

/-- Parks the running thread at a flume, or raises WAIT_EXPIRED at once for a limit that is not above 0 (R231). -/
def State.flumePark (s : State) (f : Fcb) (w : FlumeWaiter) (reads : List Name) (limit : Option Int) : Out :=
  match limit with
  | some l =>
    if l ≤ 0 then s.trap (mkTrap .waitExpired w.va.toNat f.head f.tail)
    else .next ((s.flumeWait f w).park reads .flume)
  | none => .next ((s.flumeWait f w).park reads .flume)

/-- A request to another device's flume: done, refused, or the thread waits for its answer, with WAIT_EXPIRED at once for a limit
that is not above 0 (R231, R356; HEAD and TAIL over there are free values, log 13). -/
def State.remoteFlume (s : State) (h : Nat) (op : RemoteOp) (reads : List Name) (limit : Option Int) (k : State → Out) : Out :=
  match s.remoteNow with
  | (.done, s1) => k s1
  | (.refused e, s1) => s1.flumeRefused h e
  | (.later, s1) =>
    if limit.any (fun l => decide (l ≤ 0)) then
      let (e, s2) := s1.remoteElem (h / 64 * 64) 2
      s2.trap (mkTrap .waitExpired (h / 64 * 64) (e.getD 0 0).toNat (e.getD 1 0).toNat)
    else .next ((s1.remoteWait op (h / 64 * 64) limit.isSome none).park reads .flume)

/-- A request to another device's flume that never waits there: whether it was done, or it is refused (R356, log 13). -/
def State.remoteTry (s : State) (h : Nat) (k : Bool → State → Out) : Out :=
  match s.remoteNow with
  | (.done, s1) => k true s1
  | (.later, s1) => k false s1
  | (.refused e, s1) => s1.flumeRefused h e

/-- ENQ and ENQW (R230, R231, R252). -/
def State.enqueue (s : State) (a b : Name) (lim : Option Name) : Out :=
  s.flumeGuard a (ints lim.toList) [] b true (fun es s =>
    let h := s.ext a
    let reads := [a] ++ es ++ lim.toList
    match s.flumeOpen h (some (handleSize h)) true with
    | .out o => o
    | .remote _ s1 => s1.remoteFlume h .enq reads (lim.map (fun n => s.val n)) (fun s => s.finish reads Pending.none)
    | .ok pa f s1 =>
      let e := s.elemOf es
      match s1.flumeEnq (s1.dev.dieOf s1.cur.1) pa f e with
      | (.wait, s2) =>
        s2.flumePark f (s2.flumeMe pa f h true e 63 lim.isSome) reads (lim.map (fun n => s.val n))
      | (_, s2) => s2.finish reads Pending.none)

/-- ENQ (R252). -/
def execEnq (a b : Name) (s : State) : Out := s.enqueue a b none

/-- ENQW (R231, R252): with a limit in cycles. -/
def execEnqw (d a b : Name) (s : State) : Out := s.enqueue a b (some d)

/-- DEQ and DEQW (R230, R231, R252). -/
def State.dequeue (s : State) (d a : Name) (lim : Option Name) : Out :=
  s.flumeGuard a (ints lim.toList) [] d false (fun es s =>
    let h := s.ext a
    let reads := [a] ++ lim.toList
    match s.flumeOpen h (some (handleSize h)) false with
    | .out o => o
    | .remote pa s1 =>
      s1.remoteFlume h (.deq d es.length false) reads (lim.map (fun n => s.val n)) (fun s =>
        let (e, s2) := s.remoteElem pa es.length
        (s2.acquire s2.cur.1 .fab).finish reads { Pending.none with names := s2.thr.parts d e })
    | .ok pa f s1 =>
      match s1.flumeDeq (s1.dev.dieOf s1.cur.1) pa f with
      | (.done e, s2) => (s2.acquire s2.cur.1 f.scopeOf).finish reads { Pending.none with names := s2.thr.parts d e }
      | (_, s2) => s2.flumePark f (s2.flumeMe pa f h false [] d lim.isSome) reads (lim.map (fun n => s.val n)))

/-- DEQ (R252). -/
def execDeq (d a : Name) (s : State) : Out := s.dequeue d a none

/-- DEQW (R231, R252): with a limit in cycles. -/
def execDeqw (d a b : Name) (s : State) : Out := s.dequeue d a (some b)

/-- ENQN (R231, R252): nd receives 0 for enqueued, 1 for FULL, after the enqueue (R25). -/
def execEnqn (d a b : Name) (look : Look) (s : State) : Out :=
  s.flumeGuard a [] (ints [d]) b true (fun es s =>
    let h := s.ext a
    let reads := a :: es
    match s.flumeOpen h (some (handleSize h)) true with
    | .out o => o
    | .remote _ s1 => s1.remoteTry h (fun ok s => s.narrowLongAfter look.val reads d (truth (!ok)))
    | .ok pa f s1 =>
      match s1.flumeEnq (s1.dev.dieOf s1.cur.1) pa f (s.elemOf es) with
      | (.done _, s2) => s2.narrowLongAfter look.val reads d 0
      | (_, s2) => s2.narrowLongAfter look.val reads d 1)

/-- DEQN (R231, R252): Z tells whether an element was dequeued. Where it reports EMPTY its window holds Z alone (log 128). -/
def execDeqn (d a : Name) (look : Look) (s : State) : Out :=
  s.flumeGuard a [] [] d false (fun es s =>
    let h := s.ext a
    let got (s : State) (sc : Scope) (e : List Word) : Out :=
      (s.acquire s.cur.1 sc).finishLong look.val [a]
        { Pending.none with names := s.thr.parts d e, flags := FlagWrite.onlyZ true }
    let empty (s : State) : Out := s.finishLong look.val [a] { Pending.none with flags := FlagWrite.onlyZ false }
    match s.flumeOpen h (some (handleSize h)) false with
    | .out o => o
    | .remote pa s1 =>
      s1.remoteTry h (fun ok s => if ok then let (e, s3) := s.remoteElem pa es.length; got s3 .fab e else empty s)
    | .ok pa f s1 =>
      match s1.flumeDeq (s1.dev.dieOf s1.cur.1) pa f with
      | (.done e, s2) => got s2 f.scopeOf e
      | (_, s2) => empty s2)

/-- A flume counter (R253). -/
def Fcb.stat (f : Fcb) (item : Nat) : Nat :=
  match item with
  | 0 => f.tail - f.head
  | 1 => f.free
  | 2 => f.head
  | 3 => f.tail
  | 4 => f.drops
  | 5 => f.waite
  | _ => f.waitd

/-- QSTAT (R253): a counter read at the controller, after the checks of R251 and R229. -/
def execQstat (d a : Name) (item : Fin 7) (look : Look) (s : State) : Out :=
  s.guarded (use2 d a) (fun s =>
    let h := s.ext a
    match s.flumeOpen h (some (handleSize h)) false with
    | .out o => o
    | .remote pa s1 =>
      s1.remoteTry h (fun _ s => let (b, s2) := s.externalRead pa 8; s2.narrowLong look.val [a] d (leNat b))
    | .ok _ f s1 => s1.narrowLong look.val [a] d (f.stat item.val))

/-! ## QBIND (R254) -/

/-- How many flume bindings a thread holds (R137). -/
def Thread.flumeCount (t : Thread) : Nat :=
  (t.names.toList.filter (fun n => match n.bind with | .flume _ _ => true | _ => false)).length

/-- A binding that QBIND refuses (R254); `esz` is the flume's, when the controller has answered. -/
def State.qbindRefused (s : State) (d : Name) (h : Nat) (esz : Nat) : Bool :=
  decide (d = 61 ∨ d = 62 ∨ d = 63) || decide ((s.thr.name d).mode = .trap) || decide ((s.thr.name d).bind ≠ .none) ||
    decide (4 ≤ s.thr.flumeCount) || decide (handleSize h ≠ 0) || decide (esz ≠ 0)

/-- QBIND with n63: removes a flume binding; a held element stays as the name's value, and without one the row bits are as they were
bound (R254). -/
def State.qunbind (s : State) (d : Name) : Out :=
  s.guarded { decls := ints [d] } (fun s =>
    match (s.thr.name d).bind with
    | .flume _ held =>
      (s.modThr (fun t => t.setName d { t.name d with pat := held.getD (t.name d).pat, bind := .none })).putFlags [] (FlagWrite.onlyZ true)
    | _ => s.putFlags [] (FlagWrite.onlyZ false))

/-- QBIND (R254). -/
def execQbind (d a : Name) (s : State) : Out :=
  if a = 63 then s.qunbind d
  else s.guarded { reads := ints [a], decls := ints [d] } (fun s =>
    let h := s.ext a
    let answer (s : State) (esz : Nat) : Out :=
      if s.qbindRefused d h esz then s.putFlags [a] (FlagWrite.onlyZ false)
      else ((s.consume [a]).modThr (fun t =>
        t.setName d { t.name d with bind := .flume (BitVec.ofNat 64 h) none })).putFlags [] (FlagWrite.onlyZ true)
    match s.flumeOpen h none false with
    | .out o => o
    | .remote _ s1 => s1.remoteTry h (fun ok s => answer s (truth (!ok)).toNat)
    | .ok _ f s1 => answer s1 f.esz)

/-! ## Window instructions (R255, R256) -/

/-- A valid pointer: tag 000 to 011 and must-be-0 fields 0 (R255). -/
def ptrValid (p : Nat) : Bool := decide (ptrTag p < 4) && !ptrMbz p

/-- SPTEST (R255): the window tag. -/
def execSptest (d a : Name) (s : State) : Out := s.alu (use2 d a) d (fun s => (ptrTag (s.ext a) : Int))

/-- A pointer to the same byte that the core can use, or 0 (R256). -/
def castPtr (core p : Nat) : Nat :=
  if !ptrValid p then 0
  else
    match ptrTag p with
    | 2 => if ptrCore p / 4 = core / 4 then 3 * 2 ^ 61 + core / 4 * 2 ^ 44 + ptrCore p % 4 * 2 ^ 16 + ptrOff p else 0
    | 3 => if bits p 44 16 = core / 4 then p else 0
    | _ => p

/-- SPCAST (R256). -/
def execSpcast (d a : Name) (s : State) : Out := s.alu (use2 d a) d (fun s => (castPtr s.cur.1 (s.ext a) : Int))

/-- A scratchpad pointer of a core (R255). -/
def makePtr (core : Nat) (x : Int) : Nat := if 0 ≤ x ∧ x ≤ 65535 then 2 * 2 ^ 61 + core * 2 ^ 42 + x.toNat else 0

/-- SPMAKE (R255). -/
def execSpmake (d a : Name) (s : State) : Out := s.alu (use2 d a) d (fun s => (makePtr s.cur.1 (s.val a) : Int))

/-- The logical core that a pointer names, or −1 (R255). -/
def ptrCoreVal (p : Nat) : Int := if ptrValid p && decide (2 ≤ ptrTag p) then (ptrCore p : Int) else -1

/-- SPCORE (R255). -/
def execSpcore (d a : Name) (s : State) : Out := s.alu (use2 d a) d (fun s => ptrCoreVal (s.ext a))

/-! ## SPLIT (R257) -/

/-- Whether every slot of a core that is not FREE holds a thread of a context; a reserved slot counts for the context whose
handler registration reserved it (R168, R257). -/
def State.coreHeldBy (s : State) (core ctx : Nat) : Bool :=
  (List.range 16).all (fun i =>
    let x := (s.core core).slot i
    if x.reserved then (match (s.core core).handler with | some h => decide (h.ctx = ctx) | none => true)
    else match s.threadAt core i with
      | some t => decide (t.ctx = ctx)
      | none => true)

/-- Whether SPLIT is accepted (R257). -/
def State.splitAllowed (s : State) (units : Nat) : Bool :=
  let core := s.cur.1
  let ctx := s.thr.ctx
  (s.thr.privl.priv ||
    (s.coreHeldBy core ctx && decide ((s.core core).own = 0 ∨ (s.core core).own = ctx))) &&
  s.splitFits core units ctx

/-- SPLIT (R257): changes the core's scratchpad units and takes its ownership. -/
def execSplit (units : Fin 5) (s : State) : Out :=
  if s.splitAllowed units.val then
    (s.setSplit s.cur.1 units.val s.thr.ctx).putFlags [] (FlagWrite.onlyZ true)
  else s.putFlags [] (FlagWrite.onlyZ false)

end Sys2Proof.Machine
end

