-- ==== Sys2Proof/Machine/Launch.lean ====
section
/-! DEFINITION. Launch: basin words and launch records, and what their engines do to them (R187, R270 to R279, R335). -/

namespace Sys2Proof.Machine
open Sys2Proof

/-! ## Basin words (R270, R271) -/

/-- A basin word. -/
structure Basin where
  pend : Nat
  phase : Nat
  err : Nat
  scp : Nat
  under : Bool
  multi : Bool
  rest : Nat
deriving DecidableEq, Repr

/-- A basin word from its 64 bits. -/
def Basin.ofNat (w : Nat) : Basin := ⟨bits w 0 32, bits w 32 16, bits w 48 8, bits w 56 3, bit1 w 59, bit1 w 60, bits w 61 3⟩

/-- The 64 bits of a basin word. -/
def Basin.word (b : Basin) : Nat :=
  b.pend + 2 ^ 32 * b.phase + 2 ^ 48 * b.err + 2 ^ 56 * b.scp + 2 ^ 59 * b.under.toNat + 2 ^ 60 * b.multi.toNat + 2 ^ 61 * b.rest

/-- A word that is ever updated: SCOPE 2 to 5 (R270). -/
def Basin.legal (b : Basin) : Bool := decide (2 ≤ b.scp ∧ b.scp ≤ 5)

/-- The scope at which releases and acquires on a word act: die counts as dev (R270). -/
def Basin.scope (b : Basin) : Scope := if b.scp = 4 then .host else if b.scp = 5 then .fab else .dev

/-- A basin update with a count and an error code (R271). -/
def Basin.update (b : Basin) (c err : Nat) : Basin :=
  let p := (b.pend + 2 ^ 32 - c % 2 ^ 32) % 2 ^ 32
  { b with
    pend := p
    err := if err ≠ 0 ∧ b.err = 0 then err else b.err
    multi := b.multi || decide (err ≠ 0 ∧ b.err ≠ 0)
    under := b.under || decide (2 ^ 31 ≤ p)
    phase := if p = 0 ∧ c % 2 ^ 32 ≠ 0 then (b.phase + 1) % 65536 else b.phase }

/-- Wakes the threads that wait for a word's phase to change: status 0, then the acquire at its scope (R272). -/
def State.wakeBasin (s : State) (pa : Nat) : State :=
  let out := s.basinWaits.filter (fun w => decide (w.pa = pa))
  let s1 := { s with basinWaits := s.basinWaits.filter (fun w => !decide (w.pa = pa)) }
  out.foldl (fun s w =>
    (s.pushReceived w.who w.dest (fun _ => 0)).completeParty w.who (some w.scope) (Thread.receive w.dest 0 false)) s1

/-- A word replaced at its home, and its waiters woken when the phase changed. -/
def State.putBasin (s : State) (pa : Nat) (old new : Basin) : State :=
  let s1 := s.levelWrite .home 0 0 (bytesAt pa (leBytes 8 new.word))
  if new.phase ≠ old.phase then s1.wakeBasin pa else s1

/-- An engine's update of a basin word for a context; one that cannot be made leaves a record of KIND 0x07 (R270, R321). -/
def State.basinUpdate (s : State) (ctx va c err : Nat) (user : Bool) (master : Nat) : State :=
  let drop (s : State) : State :=
    s.errRecord { kind := 0x07, code := err, ctx := ctx, addr := va, master := master, x0 := err, x1 := c }
  if ptrTag va ≠ 0 ∨ ptrMbz va ∨ va % 8 ≠ 0 then drop s
  else
    match s.engineVa 0 ctx user .rmw va 8 with
    | (.ok (⟨_, .global pa _ _, _⟩ :: _), s1) =>
      let (bs, s2) := s1.levelRead .home 0 pa 8
      let b := Basin.ofNat (leNat bs)
      if b.legal then s2.putBasin pa b (b.update c err) else drop s2
    | (_, s1) => drop s1

/-! ## Launch records (R274 to R276) -/

/-- The address of launch record `j` of a context. -/
def Ctx.launchAddr (x : Ctx) (j : Nat) : Nat := x.lpool.toNat + 128 * j

/-- A word of a launch record. -/
def State.launchWord (s : State) (ctx j off : Nat) : Nat :=
  match s.ctxOf ctx with
  | some x => s.sysWord ctx (x.launchAddr j + off)
  | none => 0

/-- A word of a launch record written. -/
def State.putLaunch (s : State) (ctx j off w : Nat) : State :=
  match s.ctxOf ctx with
  | some x => s.sysPut ctx (x.launchAddr j + off) w
  | none => s

/-- Bits of a word replaced. -/
def setBits (w lo n v : Nat) : Nat := w - bits w lo n * 2 ^ lo + v % 2 ^ n * 2 ^ lo

/-- A field of a launch record. -/
def State.launchField (s : State) (ctx j off lo n : Nat) : Nat := bits (s.launchWord ctx j off) lo n

/-- A field of a launch record written. -/
def State.setLaunch (s : State) (ctx j off lo n v : Nat) : State :=
  s.putLaunch ctx j off (setBits (s.launchWord ctx j off) lo n v)

/-- STATE (R276). -/
def State.launchState (s : State) (ctx j : Nat) : Nat := s.launchField ctx j 0x38 24 3

/-- STATE written. -/
def State.setLaunchState (s : State) (ctx j v : Nat) : State := s.setLaunch ctx j 0x38 24 3 v

/-- X·Y·Z. -/
def State.launchSize (s : State) (ctx j : Nat) : Nat :=
  s.launchField ctx j 0x10 0 16 * s.launchField ctx j 0x10 16 16 * s.launchField ctx j 0x10 32 16

/-- The core of thread `i` of a launch that is placed by PCORE and PER (R277). -/
def State.launchCore (s : State) (ctx j i : Nat) : Nat :=
  s.launchField ctx j 0x38 0 18 + i / s.launchField ctx j 0x38 18 5

/-- The identity of the scheduler core that serves a die (R322, R335). -/
def Device.schedMaster (d : Device) (die : Nat) : Nat := (2 * die + (decide (die ∈ d.takenOver)).toNat) * 256 + 5

/-- A basin update for a launch record, if it names a word (R187, R276). -/
def State.launchBasin (s : State) (ctx j c err : Nat) : State :=
  let va := s.launchWord ctx j 0x30
  if va = 0 then s else s.basinUpdate ctx va c err false (s.dev.schedMaster (s.dev.recordDie j))

/-- Who hears of a decrement that finds PRED 0: a copy packet's word, or the completing launch's (R273, R276). -/
structure Sender where
  basin : Nat
  sys : Bool
  master : Nat
deriving DecidableEq, Repr

/-- A decrement yet to be performed: the record and its sender. -/
structure Decr where
  j : Nat
  sender : Sender
deriving DecidableEq, Repr

/-- The valid successors of a record, as decrements, S0 first (R275, R276). -/
def State.successors (s : State) (ctx j : Nat) : List Decr :=
  let w := s.launchWord ctx j 0x18
  ((List.range 4).filter (fun k => bit1 w (56 + k))).map (fun k =>
    ⟨bits w (14 * k) 14, ⟨s.launchWord ctx j 0x30, true, s.dev.schedMaster (s.dev.recordDie j)⟩⟩)

/-- Whether a valid handler table entry names a launch record: an offtake record (R358, R385). -/
def State.isOfftake (s : State) (ctx j : Nat) : Bool :=
  let h := s.dev.reg 0x38
  bit1 h 0 && (List.range 4096).any (fun i =>
    let e := leNat (s.mem.homePeek (bits h 16 32 * 65536 + 16 * i) 8)
    bit1 e 26 && decide (bits e 14 12 = ctx ∧ bits e 0 14 = j))

/-- The end of a record's completion: idle, or for an offtake record armed for its next packet (R276, R361). -/
def State.idleLaunch (s : State) (ctx j : Nat) : State :=
  if s.isOfftake ctx j then (s.setLaunchState ctx j 1).setLaunch ctx j 0x10 48 16 1 else s.setLaunchState ctx j 0

/-- Completion of a record but for its successors, which are still to be decremented (R276, R334). STATUS: 1 OK, 2
cancelled, 3 refused. -/
def State.completeLaunch (s : State) (ctx j status : Nat) : List Decr × State :=
  let bad := decide ((ctx, j) ∈ s.launchFaults)
  let err := if status = 2 then 7 else if status = 3 then 8 else if bad then 9 else 0
  let s1 := ((s.setLaunch ctx j 0x38 28 2 status).idleLaunch ctx j).launchBasin ctx j 1 err
  (s1.successors ctx j, { s1 with launchFaults := s1.launchFaults.filter (fun p => decide (p ≠ (ctx, j))) })

/-- Where a gate word's read ends: none where it faults (R276). -/
def State.gateRead (s : State) (ctx va : Nat) : Option Nat × State :=
  if ptrTag va ≠ 0 ∨ ptrMbz va ∨ va % 8 ≠ 0 then (none, s)
  else
    match s.engineVa 0 ctx false .read va 8 with
    | (.ok (⟨_, .global pa _ _, _⟩ :: _), s1) =>
      if decide (s1.dev.paKind pa = .hbm) && (firstPoison (s1.mem.recall (blockOf pa)).poison pa 8).isSome then (none, s1)
      else
        let (bs, s2) := s1.levelRead .home 0 pa 8
        (some (leNat bs), s2)
    | (_, s1) => (none, s1)

/-- The launch moment (R276): what is to be decremented when it completes the record at once, else the record PENDING. -/
def State.launchMoment (s : State) (ctx j : Nat) : List Decr × State :=
  let gate := s.launchWord ctx j 0x20
  let (g, s1) := if gate = 0 then (some 0, s) else s.gateRead ctx gate
  let n := s1.launchSize ctx j
  let any := bit1 (s1.launchWord ctx j 0x38) 23
  let per := s1.launchField ctx j 0x38 18 5
  let pool := match s1.ctxOf ctx with | some x => x.cpsz | none => 0
  match g with
  | none => s1.completeLaunch ctx j 3
  | some w =>
    if w ≠ 0 then s1.completeLaunch ctx j 2
    else if n = 0 then s1.completeLaunch ctx j 1
    else if pool < n then s1.completeLaunch ctx j 3
    else if !any && (decide (per = 0) || !s1.dev.isCore (s1.launchCore ctx j (n - 1))) then s1.completeLaunch ctx j 3
    else
      let s2 := s1.setLaunchState ctx j 3
      ([], { s2 with pending := s2.pending ++ [⟨s2.dev.recordDie j, ctx, j⟩] })

/-- A record triggers (R276). -/
def State.launchTrigger (s : State) (ctx j : Nat) : List Decr × State :=
  if s.dev.timebase.toNat < s.launchWord ctx j 0x28 then ([], s.setLaunchState ctx j 2) else s.launchMoment ctx j

/-- One decrement at its record (R276): more decrements when it triggers a record that completes at once. -/
def State.decrement (s : State) (ctx : Nat) (d : Decr) : List Decr × State :=
  let pred := s.launchField ctx d.j 0x10 48 16
  if pred = 0 then
    let s1 := s.setLaunch ctx d.j 0x38 27 1 1
    ([], if d.sender.basin = 0 then s1 else s1.basinUpdate ctx d.sender.basin 0 6 (!d.sender.sys) d.sender.master)
  else
    let s1 := s.setLaunch ctx d.j 0x10 48 16 (pred - 1)
    if pred = 1 ∧ s1.launchState ctx d.j = 1 then s1.launchTrigger ctx d.j else ([], s1)

/-- Decrements performed in order, with those that they lead to after them. One whose die has lost both scheduler cores is
held (R335). -/
def State.decrementAll (s : State) (ctx : Nat) : Nat → List Decr → State
  | 0, _ => s
  | _, [] => s
  | fuel + 1, d :: r =>
    if s.dev.recordDie d.j ∈ s.dev.deadSched then
      State.decrementAll { s with decrements := s.decrements ++
        [⟨ctx, d.j, BitVec.ofNat 64 d.sender.basin, d.sender.sys, d.sender.master⟩] } ctx fuel r
    else
      let (more, s1) := s.decrement ctx d
      s1.decrementAll ctx fuel (r ++ more)

/-- How many decrements one event can lead to: a record triggers at most once from state 1, and has four successors. -/
def decrementBound : Nat := 65540

/-- What a completion leads to. -/
def State.settleLaunch (p : List Decr × State) (ctx : Nat) : State :=
  if p.1.isEmpty then p.2 else p.2.decrementAll ctx decrementBound p.1

/-- A thread of a launch has quit (R276, R278). A record whose die has lost both scheduler cores stays as it is (R335). -/
def State.threadGone (s : State) (ctx j : Nat) : State :=
  if s.dev.recordDie j ∈ s.dev.deadSched then s else
  let live := s.launchField ctx j 0x38 32 32
  let s1 := s.setLaunch ctx j 0x38 32 32 (live - 1)
  if live = 1 ∧ s1.launchState ctx j = 4 then State.settleLaunch (s1.completeLaunch ctx j 1) ctx else s1

/-! ## Taking a launch (R277, R278) -/

/-- The launch at the head of a die's PENDING ones: highest PRIO, then first in (R278). Launches of a context that is not
resident and running wait aside (R328). -/
def State.launchHead (s : State) (die : Nat) : Option PendLaunch :=
  let ps := s.pending.filter (fun p => decide (p.die = die) &&
    (match s.ctxOf p.ctx with | some x => decide (x.rstate = 1) | none => false))
  let prio (p : PendLaunch) : Nat := s.launchField p.ctx p.j 0x18 60 2
  ps.foldl (fun b p => match b with
    | none => some p
    | some q => if prio q < prio p then some p else some q) none

/-- The die whose ready flume takes thread `i` of launch `j`, when its affinity is ANY (R277). -/
def Device.launchDie (d : Device) (j i : Nat) : Nat := d.diesUp.getD ((j + i) % max 1 d.diesUp.length) 0

/-- Thread `i` of a launch of `n` threads as a FRESH record `k` (R277): the core of its affinity, its die, the state. `sc`
is the scope of the acquire of its start. -/
def State.launchRecord (s : State) (ctx j n i k : Nat) (sc : Scope) : Option Nat × Nat × State :=
  match s.ctxOf ctx with
  | none => (none, 0, s)
  | some x =>
    let any := bit1 (s.launchWord ctx j 0x38) 23
    let c := s.launchCore ctx j i
    let die := if any then s.dev.launchDie j i else s.dev.dieOf c
    let img := s.sysRead ctx (x.imgAddr k + 0x2A0) 16
    let t : Thread := { Thread.empty with
      ctx := ctx, recIx := k
      pc := BitVec.ofNat 64 (s.launchWord ctx j 0), maph := BitVec.ofNat 64 (s.launchWord ctx j 8)
      privl := ⟨bit1 (s.launchWord ctx j 0x18) 63, false, false, false⟩
      trapv := BitVec.ofNat 64 (wordAt img 0), traprec := BitVec.ofNat 64 (wordAt img 8)
      rsl := bit1 (s.launchWord ctx j 0x18) 62
      aff := if any then none else some c
      launch := some (j, i) }
    let s1 := s.writeFresh t [i, n, x.launchAddr j + 0x40, j] die
    (if any then none else some c, die, s1.setRecInfo ctx { s1.recInfo ctx k with acq := some sc })

/-- Creates the threads of a launch from index `i` on, in ascending order, on their ready flumes (R277). -/
def State.launchThreads (s : State) (ctx j n : Nat) (sc : Scope) : Nat → Nat → State
  | 0, _ => s
  | fuel + 1, i =>
    match s.takeRecord ctx with
    | (none, s1) => s1
    | (some k, s1) =>
      let (c, die, s2) := s1.launchRecord ctx j n i k sc
      (s2.enqueueReady ctx c die k).launchThreads ctx j n sc fuel (i + 1)

/-- The scheduler takes a launch (R276, R278). -/
def State.takeLaunch (s : State) (p : PendLaunch) : State :=
  let n := s.launchSize p.ctx p.j
  let s1 := { s with pending := s.pending.erase p }
  let s2 := (s1.setLaunchState p.ctx p.j 4).setLaunch p.ctx p.j 0x38 32 32 n
  s2.launchThreads p.ctx p.j n (if s.isOfftake p.ctx p.j then .fab else .dev) n 0

/-- Whether a context's pool has `n` free records. -/
def State.poolFits (s : State) (ctx n : Nat) : Bool :=
  match s.ctxOf ctx with
  | some x => decide (x.recs.length + n ≤ x.cpsz)
  | none => false

end Sys2Proof.Machine
end

