-- ==== Sys2Proof/Machine/Noria.lean ====
section
/-! DEFINITION. Noria: reservation, loads of B, row steps, checksums, drains and tailwater handlers (R280 to R297, R304 to
R312), and the quad vector unit's takes (R153 to R156). -/

namespace Sys2Proof.Machine
open Sys2Proof

/-! ## Asynchronous errors (R316) -/

/-- An asynchronous error reaches the thread that a record belongs to; behind one that is held it is only recorded. -/
def State.asyncError (s : State) (ctx k : Nat) (x : Trap) : State :=
  let late (s : State) (master pc : Nat) : State :=
    s.errRecord { kind := 0x0A, code := x.cause.code, ctx := ctx, addr := x.addr.toNat, master := master,
                  x0 := x.x0.toNat, x1 := x.x1.toNat, pc := pc }
  match s.findThread ctx k with
  | some (c, i) =>
    match s.threadAt c i with
    | some t => if t.asyncErr.isSome then late s (slotMaster c i) t.pc.toNat else s.putThread c i { t with asyncErr := some x }
    | none => s
  | none =>
    let r := s.recInfo ctx k
    if r.retiring then s else if r.asyncErr.isSome then late s 0 0 else s.setRecInfo ctx { r with asyncErr := some x }

/-- UNCORRECTABLE with its extra words. -/
def uncorrectable (x0 x1 : Nat) : Trap := mkTrap .uncorrectable 0 x0 x1

/-! ## Words (R280 to R282, R293) -/

/-- MATRIX_SHAPE with its code and the word that X1 holds (R296). -/
def matrixShape (code word : Nat) : Trap := mkTrap .matrixShape 0 code word

/-- The shape word's fields (R281). -/
def shapeK (h : Nat) : Nat := bits h 0 7
/-- PA (R281). -/
def shapePA (h : Nat) : Nat := bits h 7 2
/-- TILE (R281). -/
def shapeTile (h : Nat) : Nat := bits h 9 2
/-- ROW (R281). -/
def shapeRow (h : Nat) : Nat := bits h 11 7
/-- SLOT (R281). -/
def shapeSlot (h : Nat) : Nat := bits h 18 3

/-- A B descriptor (R282); `word` is its word at 0x10, `rest` the bits that must be 0. -/
structure BDesc where
  eptr : Nat
  xptr : Nat
  kb : Nat
  nb : Nat
  pb : Nat
  mode : Nat
  fmt : Nat
  slot : Nat
  pin : Bool
  kx : Nat
  nx : Nat
  rs : Nat
  word : Nat
  rest : Nat
deriving DecidableEq, Repr

/-- A descriptor from 512 bits. -/
def BDesc.ofNat (x : Nat) : BDesc :=
  let w := bits x 128 64
  { eptr := bits x 0 64, xptr := bits x 64 64
    kb := bits w 0 7, nb := bits w 7 7, pb := bits w 14 2, mode := bits w 16 2, fmt := bits w 18 2, slot := bits w 20 3
    pin := bit1 w 23, kx := bits w 24 7, nx := bits w 31 7, rs := bits x 192 32, word := w
    rest := bits w 38 26 + bits x 224 288 }

/-- The tag of a format code. -/
def dxTag (fmt : Nat) : Tag := if fmt = 0 then .dx8 else if fmt = 1 then .dx6 else .dx4

/-- Rows that hold live elements: k below this (R283). -/
def BDesc.klim (d : BDesc) : Nat := min d.kb d.kx

/-- Columns that hold live elements: n below this (R283). -/
def BDesc.nlim (d : BDesc) : Nat := min d.nb d.nx

/-- A usable pointer that an engine accepts: global, scratchpad or quad-shared (R282). -/
def engineUsable (p : Nat) : Bool := ptrValid p && decide (ptrTag p ≠ 1)

/-- The first descriptor check that fails (R284, R296). -/
def BDesc.fault (d : BDesc) : Option Nat :=
  let al := if d.mode = 2 then 1024 else 8
  if d.rest ≠ 0 ∨ d.mode = 3 ∨ d.fmt = 3 ∨ (d.mode = 2 ∧ d.fmt ≠ 0) ∨ 64 < d.kx ∨ 64 < d.nx ∨ d.rs % al ≠ 0 ∨
      d.eptr % al ≠ 0 ∨ d.xptr % 2 ≠ 0 then some 4
  else if engineUsable d.eptr && decide ((ptrTag d.eptr = 0) ≠ (d.mode ≠ 0)) then some 4
  else if d.kb = 0 ∨ 64 < d.kb ∨ d.nb = 0 ∨ 64 < d.nb then some 1
  else if d.pb ≠ (d.kb + 31) / 32 then some 2
  else none

/-! ## Who holds what -/

/-- The quad of the running thread's core. -/
def State.myQuad (s : State) : Nat := s.cur.1 / 4

/-- Whether the running thread holds a resource. -/
def State.mine (s : State) (h : Option (Nat × Nat)) : Bool := decide (h = some (s.thr.ctx, s.thr.recIx))

/-- The steps in the queues of a quad's cores. -/
def State.queued (s : State) (q : Nat) : List NqEntry := (List.range 4).flatMap (fun c => (s.core (4 * q + c)).nq)

/-- The descriptor of a load. -/
def NoriaOp.loadDesc : NoriaOp → Option BDesc
  | .load d _ _ _ => some (BDesc.ofNat d.toNat)
  | _ => none

/-- The descriptor that a slot will hold once the loads before a new step are done; none for a slot that is not loaded
(R290). -/
def State.slotDesc (s : State) (q slot : Nat) : Option BDesc :=
  let pend := (((s.quad q).loads.map (fun l => l.entry.op)) ++ ((s.queued q).map (fun e => e.op))).filterMap NoriaOp.loadDesc
  match (pend.filter (fun d => decide (d.slot = slot))).getLast? with
  | some d => some d
  | none =>
    let b := (s.quad q).bslot slot
    if b.loaded then some (BDesc.ofNat b.desc.toNat) else none

/-- The first check of a shape word that fails: codes 4, 1, 6, 2, 3, 5 (R306). -/
def State.shapeFail (s : State) (h : Nat) : Option Trap :=
  let q := s.quad s.myQuad
  if bits h 21 43 ≠ 0 then some (matrixShape 4 h)
  else if shapeK h = 0 ∨ 64 < shapeK h then some (matrixShape 1 h)
  else if 64 ≤ shapeRow h then some (matrixShape 6 h)
  else if shapePA h ≠ (shapeK h + 31) / 32 then some (matrixShape 2 h)
  else if !s.mine (q.bslot (shapeSlot h)).holder || !s.mine (q.tile (shapeTile h)).holder then some (matrixShape 3 h)
  else if (s.slotDesc s.myQuad (shapeSlot h)).isNone then some (matrixShape 5 h)
  else none

/-- A noria step's use passes, and it does not come from a tailwater handler (R293, R304). -/
def State.noriaStep (s : State) (u : Use) (word : State → Nat) (k : State → Out) : Out :=
  s.guarded u (fun s => if s.thr.handler.isSome then s.trap (matrixShape 7 (word s)) else k s)

/-- The core's noria queue has no entry free (R289). -/
def State.nqFull (s : State) : Bool := decide (2 ≤ (s.core s.cur.1).nq.length)

/-- An entry in the core's noria queue, and its serial number. -/
def State.nqPush (s : State) (op : NoriaOp) : Nat × State :=
  let (id, s1) := s.fresh
  let c := s1.core s1.cur.1
  (id, s1.setCore s1.cur.1 { c with nq := c.nq ++ [⟨id, s1.cur.2, s1.thr.ctx, s1.thr.recIx, op⟩] })

/-- Whether an operation is one on a tile or a slot of these, for which an MREL waits (R280). -/
def NoriaOp.names (op : NoriaOp) (tiles slots : List Nat) : Bool :=
  match op with
  | .load d _ _ _ => decide ((BDesc.ofNat d.toNat).slot ∈ slots)
  | .row _ h _ _ => decide (shapeTile h ∈ tiles) || decide (shapeSlot h ∈ slots)
  | .drain t _ _ _ => decide (t ∈ tiles)
  | .check t _ => decide (t ∈ tiles)
  | .acquire _ _ | .release _ _ | .register _ _ _ _ => false

/-- Whether an operation on any of these resources is still queued or under way in a quad. -/
def State.noriaBusy (s : State) (q : Nat) (tiles slots : List Nat) : Bool :=
  let x := s.quad q
  (s.queued q).any (fun e => e.op.names tiles slots) || x.rowsIn.any (fun r => r.entry.op.names tiles slots) ||
    x.loads.any (fun l => l.entry.op.names tiles slots) || x.drains.any (fun d => d.entry.op.names tiles slots)

/-- A row that was drained and has not seen its RDONE. -/
def Tile.draining (t : Tile) (r : Nat) : Bool := t.rows.any (fun x => decide (x.row = r) && x.draining)

/-! ## MACQ and MREL (R280, R311) -/

/-- The tiles of a reservation word. -/
def wordTiles (w : Nat) : List Nat := (List.range 4).filter (fun i => bit1 w i)
/-- The slots of a reservation word. -/
def wordSlots (w : Nat) : List Nat := (List.range 8).filter (fun i => bit1 w (4 + i))

/-- A grant of tiles and slots to a thread. -/
def QuadSt.grant (q : QuadSt) (ctx k : Nat) (tiles slots : List Nat) : QuadSt :=
  slots.foldl (fun q i => q.modBslot i (fun b => { b with holder := some (ctx, k), loaded := false }))
    (tiles.foldl (fun q i => q.modTile i (fun _ => ⟨some (ctx, k), false, []⟩)) q)

/-- Tiles and slots given back: their contents can no longer be read. -/
def QuadSt.ungrant (q : QuadSt) (tiles slots : List Nat) : QuadSt :=
  slots.foldl (fun q i => q.modBslot i (fun _ => ⟨none, false, 0, [], [], []⟩))
    (tiles.foldl (fun q i => q.modTile i (fun _ => ⟨none, false, []⟩)) q)

/-- The named tiles that a thread holds. -/
def QuadSt.tilesOf (q : QuadSt) (ctx k : Nat) (ts : List Nat) : List Nat :=
  ts.filter (fun i => decide ((q.tile i).holder = some (ctx, k)))
/-- The named slots that a thread holds. -/
def QuadSt.slotsOf (q : QuadSt) (ctx k : Nat) (ss : List Nat) : List Nat :=
  ss.filter (fun i => decide ((q.bslot i).holder = some (ctx, k)))

/-- The release of the named resources that a thread holds; none while it must wait (R280). Named resources that it does not
hold are ignored, so with none held there is nothing to do (R311). -/
def State.release' (s : State) (core ctx k : Nat) (ts ss : List Nat) : Option State :=
  let qi := core / 4
  let q := s.quad qi
  let tiles := q.tilesOf ctx k ts
  let slots := q.slotsOf ctx k ss
  if tiles.isEmpty && slots.isEmpty then some s
  else if s.noriaBusy qi tiles slots || tiles.any (fun i => (q.tile i).rows.any (fun r => r.draining)) then none
  else
    let s1 := s.acquire core .die
    some (s1.setQuad qi ((s1.quad qi).ungrant tiles slots))

/-! ## MLDB (R282 to R284, R305) -/

/-- The runs of bytes that hold live elements: one for each column, or in mode 2 one for each row and block of columns. -/
def BDesc.elemRuns (d : BDesc) : List (Nat × Nat) :=
  let p (off : Nat) : Nat := (d.eptr + off) % 2 ^ 64
  if d.klim = 0 then []
  else if d.mode = 2 then
    (List.range d.klim).flatMap (fun k => (List.range ((d.nlim + 31) / 32)).map (fun j =>
      (p (k / 32 * d.rs + j * 1024 + 32 * (k % 32)), min 32 (d.nlim - 32 * j))))
  else (List.range d.nlim).map (fun n => (p (n * d.rs), (tagWidth (dxTag d.fmt) * d.klim + 7) / 8))

/-- The blocks that are present: column and block (R283). -/
def BDesc.blocks (d : BDesc) : List (Nat × Nat) :=
  (List.range d.nlim).flatMap (fun n => ((List.range d.pb).filter (fun j => decide (32 * j < d.kx))).map (fun j => (n, j)))

/-- The runs of bytes that hold the exponent pairs of present blocks. -/
def BDesc.pairRuns (d : BDesc) : List (Nat × Nat) :=
  d.blocks.map (fun b => ((d.xptr + 2 * (b.1 * d.pb + b.2)) % 2 ^ 64, 2))

/-- Where the bytes of runs lie, each checked once; or the failing access of the lowest address among them (R284). -/
def State.runPieces (s : State) : List (Nat × Nat) → Except Fail (List (List Piece)) × State
  | [] => (.ok [], s)
  | (p, n) :: r =>
    let (x, s1) := s.engineAccess (s.dev.dieOf s.cur.1) s.thr.ctx (!s.thr.privl.priv) .read p n
    let (y, s2) := s1.runPieces r
    (match x, y with
      | .error f, .error g => .error (if f.trap.addr.toNat ≤ g.trap.addr.toNat then f else g)
      | .error f, .ok _ => .error f
      | .ok _, .error g => .error g
      | .ok ps, .ok pss => .ok (ps :: pss), s2)

/-- The bytes of a checked piece as MLDB reads them: own dirty words are written back first, then along rows or columns at the
die L2; and the first poisoned word (R195, R284, R315). -/
def State.loadRead (s : State) (core : Nat) (col : Bool) (x : Piece) : List Byte × Option Nat × State :=
  match x.loc with
  | .sram c off =>
    (s.mem.sramRead c off x.n,
      (firstPoison (s.mem.sram c).poison off x.n).map (fun w => x.addr / 8 * 8 + (8 * w - off / 8 * 8)), s)
  | .global pa _ _ =>
    let s1 := s.settle core pa x.n
    let s2 := match s1.mem.line core (pa / 64) with
      | some l => s1.writeBackLine l
      | none => s1
    let die := s.dev.dieOf core
    let bad := if s.dev.paKind pa = .hbm then (s2.mem.peekPoison die pa x.n).map (8 * ·) else none
    let (b, s3) := s2.l2Bytes die pa x.n col
    (b, bad, s3)

/-- The same for several pieces. -/
def State.loadReads (s : State) (core : Nat) (col : Bool) : List Piece → List Byte × Option Nat × State
  | [] => ([], none, s)
  | x :: r =>
    let (b, p, s1) := s.loadRead core col x
    let (bs, p2, s2) := s1.loadReads core col r
    (b ++ bs, if p.isSome then p else p2, s2)

/-- Reads checked runs one after the other: their bytes, and the first poisoned word. -/
def State.readRuns (s : State) (col : Bool) : List (List Piece) → List (List Byte) × Option Nat × State
  | [] => ([], none, s)
  | ps :: r =>
    let (b, p1, s1) := s.loadReads s.cur.1 col ps
    let (bs, p2, s2) := s1.readRuns col r
    (b :: bs, if p1.isSome then p1 else p2, s2)

/-- Live element codes column by column, from the bytes of the element runs (R282). -/
def BDesc.codes (d : BDesc) (runs : List (List Byte)) : List (List Nat) :=
  let w := tagWidth (dxTag d.fmt)
  if d.klim = 0 then []
  else if d.mode = 2 then
    let nb := (d.nlim + 31) / 32
    (List.range d.nlim).map (fun n => (List.range d.klim).map (fun k =>
      (((runs.getD (k * nb + n / 32) []).getD (n % 32) 0).toNat)))
  else runs.map (fun bs => (List.range d.klim).map (fun k => bits (leNat bs) (w * k) w))

/-- Exponents of the columns: E0, E1 of block 0, then of block 1; 0 for a block that is not present (R283). -/
def BDesc.exps (d : BDesc) (runs : List (List Byte)) : List (List Nat) :=
  let at' (n j : Nat) : Nat :=
    match (d.blocks.zip runs).find? (fun p => decide (p.1 = (n, j))) with
    | some (_, bs) => leNat bs
    | none => 0
  (List.range d.nlim).map (fun n => (List.range 2).flatMap (fun j => [at' n j % 256, at' n j / 256]))

/-- MLDB (R305): its checks, its reads, and its place in the noria queue. -/
def execMldb (a : VReg) (look : Look) (s : State) : Out :=
  let desc (s : State) : BDesc := BDesc.ofNat (s.thr.vreg a).data.toNat
  s.noriaStep { vreads := [a] } (fun s => (desc s).word) (fun s =>
    let d := desc s
    match d.fault with
    | some c => s.trap (matrixShape c d.word)
    | none =>
      if !s.mine ((s.quad s.myQuad).bslot d.slot).holder then s.trap (matrixShape 3 d.word)
      else if s.nqFull then s.again
      else
        match s.runPieces (d.elemRuns ++ d.pairRuns) with
        | (.error f, s1) => s1.fail f
        | (.ok pss, s1) =>
          let (es, p1, s2) := s1.readRuns (decide (d.mode = 2)) (pss.take d.elemRuns.length)
          let (xs, p2, s3) := s2.readRuns false (pss.drop d.elemRuns.length)
          let op : NoriaOp := .load (s.thr.vreg a).data (d.codes es) (d.exps xs) (if p1.isSome then p1 else p2)
          let (_, s4) := s3.nqPush op
          (s4.openWindow look.val Pending.none (.slotLoaded s.myQuad d.slot)).done)

/-! ## MMAC (R286, R291, R306) -/

/-- The tag of an A row must be the slot's format; a slot that is not loaded takes any DX tag (R286). -/
def State.rowTagFail (s : State) (slot : Nat) (t : Tag) : Option Trap :=
  match s.slotDesc s.myQuad slot with
  | some d => if t = dxTag d.fmt then none else some (mkTrap .tagMismatch 0 t.code (dxTag d.fmt).code)
  | none => if t = .dx8 ∨ t = .dx6 ∨ t = .dx4 then none else some (mkTrap .tagMismatch 0 t.code Tag.dx8.code)

/-- TOKEN_FAULT naming a token (R259, R291). -/
def tokenFault (k : Nat) : Trap := mkTrap .tokenFault 0 k 0

/-- A token that work is still tied to (R259). -/
def Thread.tokBusy (t : Thread) (k : Tok) : Bool := decide (t.tok k.val = 1 ∨ t.tok k.val = 2)

/-- MMAC (R306): the slot is OUT until its hand-off ends; the row step waits in the noria queue for its data. -/
def execMmac (k : Tok) (a : VReg) (b : Name) (_look : Look) (s : State) : Out :=
  s.guarded { reads := ints [b], vreads := [a] } (fun s =>
    let h := s.ext b
    match s.rowTagFail (shapeSlot h) (s.thr.vreg a).tag with
    | some x => s.trap x
    | none =>
      if s.thr.handler.isSome then s.trap (matrixShape 7 h)
      else
        match s.shapeFail h with
        | some x => s.trap x
        | none =>
          if s.thr.tokBusy k then s.trap (tokenFault k.val)
          else if s.nqFull || s.vqFull then s.again
          else
            let (id, s1) := s.nqPush (.row (s.thr.vreg a) h k.val false)
            let c := s1.core s1.cur.1
            let s2 := s1.setCore s1.cur.1 { c with vq := c.vq ++ [.handoff s1.cur.2 id] }
            (s2.modThr (fun t => { t.setTok k.val 1 with out := true })).finish [b] Pending.none)

/-! ## MRUN (R288, R307) -/

/-- The wrong or repeated index of MRUN's names, if there is one (R307). -/
def mrunNames (p c h : Name) : Option Trap :=
  if p = 63 ∨ c = 63 ∨ h = 63 then some (mapFault 63)
  else if p = c ∨ p = h then some (mapFault p.val)
  else if c = h then some (mapFault c.val)
  else none

/-- The 72 bytes of a row record (R288), in the order of R186 and R29; a noria step raises no data match (R20). -/
def State.rowBytes (s : State) (p : Nat) : Except Trap (List Byte) × State :=
  match Option.orFail (windowFail s.cur.1 .read p) (alignFail p 8) with
  | some f => (.error f.trap, s)
  | none =>
    if ptrTag p < 2 then (.error (protection p .read).trap, s)
    else
      match s.access { s.thr with dbgctl := { s.thr.dbgctl with den := false } } s.cur.1 .read p 72 8 with
      | (.error f, s1) => (.error f.trap, s1)
      | (.ok ps, s1) => s1.loadBytes ps

/-- One step of MRUN: its checks and its place in the queue (R288). -/
def State.mrunStep (s : State) (p h : Nat) : Except (Trap × State) State :=
  match s.shapeFail h with
  | some x => .error (x, s)
  | none =>
    match s.rowBytes p with
    | (.error x, s1) => .error (x, s1)
    | (.ok bs, s1) =>
      let fmt := match s1.slotDesc s1.myQuad (shapeSlot h) with | some d => d.fmt | none => 0
      let v : VRegVal := ⟨BitVec.ofNat 512 (leNat (bs.take 64)), BitVec.ofNat 64 (leNat (bs.drop 64)), dxTag fmt⟩
      .ok (s1.nqPush (.row v h 0xFF true)).2

/-- MRUN (R288, R307): one step in each of the slot's own turns. -/
def execMrun (d a b : Name) (s : State) : Out :=
  match mrunNames d a b with
  | some x => s.trap x
  | none =>
    let u : Use := { reads := [(d, .u64), (a, .int), (b, .u64)], writes := [(d, .any), (a, .any), (b, .any)] }
    s.noriaStep u (fun s => s.ext b) (fun s =>
      if s.val a ≤ 0 then (s.consume u.names).done
      else if s.nqFull then s.again
      else match s.mrunStep (s.upat d) (s.upat b) with
        | .error (x, s1) => s1.trap x
        | .ok s1 =>
          let left := BitVec.ofNat 64 (lowBits (s.thr.name a).width (s.val a - 1))
          let s2 := s1.stepNames [(d, s.pat d + 72), (a, left), (b, s.pat b + 2 ^ 11)]
          if s.val a = 1 then s2.endSteps u.names [d, a, b] else s2.again)

/-! ## MDRN, MHND, MCHK (R292, R293, R295, R308 to R310) -/

/-- MDRN (R293, R308): drains rows to the core's tailwater handler. -/
def execMdrn (a b : Name) (look : Look) (s : State) : Out :=
  s.noriaStep { reads := ints [a, b] } (fun s => s.ext a) (fun s =>
    let w := s.ext a
    let tile := bits w 0 2
    let first := bits w 2 6
    let count := bits w 8 7
    if bits w 15 49 ≠ 0 then s.trap (matrixShape 4 w)
    else if count = 0 ∨ 64 < first + count then s.trap (matrixShape 6 w)
    else if !s.mine ((s.quad s.myQuad).tile tile).holder then s.trap (matrixShape 3 w)
    else if (s.core s.cur.1).handler.isNone then s.trap (matrixShape 8 w)
    else if s.nqFull then s.again
    else
      let s1 := s.release s.cur.1 .core
      let (id, s2) := s1.nqPush (.drain tile first count (BitVec.ofNat 64 (s.ext b)))
      ((s2.consume [a, b]).openWindow look.val Pending.none (.drained id)).done)

/-- An entry's 24-byte item, read as a global load: code address and map handle, or the trap with the handle (R163). -/
def State.readEntry (s : State) (h : Nat) : Except Trap (Word × Word) × State :=
  match Option.orFail (windowFail s.cur.1 .read h) (alignFail h 8) with
  | some f => (.error f.trap, s)
  | none =>
    if ptrTag h ≠ 0 then (.error (protection h .read).trap, s)
    else match s.threadLoad h 24 8 with
      | (.error x, s1) =>
        (.error (if x.cause = .pageFault ∨ x.cause = .protection then { x with addr := BitVec.ofNat 64 h } else x), s1)
      | (.ok bs, s1) => (.ok (BitVec.ofNat 64 (wordAt bs 0), BitVec.ofNat 64 (wordAt bs 8 / 128 * 128)), s1)

/-- Takes `n` records of a context. -/
def State.takeRecords (s : State) (ctx : Nat) : Nat → List Nat × State
  | 0 => ([], s)
  | n + 1 =>
    match s.takeRecord ctx with
    | (none, s1) => ([], s1)
    | (some k, s1) =>
      let (ks, s2) := (s1.setRecInfo ctx (RecInfo.new k none 0)).takeRecords ctx n
      (k :: ks, s2)

/-- Marks slots RESERVED, or no longer. -/
def State.reserve (s : State) (core : Nat) (slots : List Nat) (on : Bool) : State :=
  slots.foldl (fun s i => s.setCore core ((s.core core).setSlot i { (s.core core).slot i with reserved := on })) s

/-- The slots of a core that are FREE and not RESERVED, in ascending order. -/
def State.freeSlots (s : State) (core : Nat) : List Nat :=
  (List.range 16).filter (fun i => let x := (s.core core).slot i; decide (x.occ = .free) && !x.reserved)

/-- Releases a core's registration: its slots and its records (R292). -/
def State.unregister (s : State) (core : Nat) : State :=
  match (s.core core).handler with
  | none => s
  | some h =>
    let s1 := (s.setCore core { s.core core with handler := none }).reserve core h.slots false
    s1.modCtx h.ctx (fun x => { x with recs := x.recs.filter (fun r => decide (r.k ∉ h.recs) || r.retiring) })

/-- Whether a handler of a core's registration runs, in a slot or, restored, on its way back to one, or a drained row awaits its
dispatch (R280, R292, R330). -/
def State.handlersBusy (s : State) (core : Nat) : Bool :=
  match (s.core core).handler with
  | some h =>
    (s.quad (core / 4)).drained.any (fun r => decide (r.core = core ∧ r.ctx = h.ctx)) ||
      h.slots.any (fun i => (s.threadAt core i).isSome) || h.recs.any (fun k => (s.recInfo h.ctx k).handler.isSome)
  | none => false

/-- Whether a thread holds a core's registration. -/
def State.holdsHandler (s : State) (core ctx k : Nat) : Bool :=
  match (s.core core).handler with
  | some h => decide (h.ctx = ctx ∧ h.recIx = k)
  | none => false

/-- A registration is made for the thread of a slot (R292). -/
def State.registerHandler (s : State) (core : Nat) (t : Thread) (h : Nat) (handle pc maph : Word) : State :=
  let slots := (s.freeSlots core).take h
  let (recs, s1) := s.takeRecords t.ctx h
  let s2 := s1.reserve core slots true
  s2.setCore core { s2.core core with handler := some ⟨t.ctx, t.recIx, handle, pc, maph, t.trapv, t.traprec, recs, slots⟩ }

/-! ## Tiles -/

/-- A row of a tile: +0, status 0, idle where nothing is listed. -/
def Tile.row (t : Tile) (r : Nat) : TileRow := (t.rows.find? (fun x => decide (x.row = r))).getD ⟨r, List.replicate 64 0, 0, false⟩

/-- A row of a tile replaced; rows stay in ascending order. -/
def Tile.setRow (t : Tile) (x : TileRow) : Tile :=
  { t with rows := t.rows.filter (fun y => decide (y.row < x.row)) ++ [x] ++ t.rows.filter (fun y => decide (x.row < y.row)) }

/-- A row set to +0, status 0, idle (R294). -/
def Tile.clearRow (t : Tile) (r : Nat) : Tile := { t with rows := t.rows.filter (fun y => decide (y.row ≠ r)) }

/-! ## RDONE (R294, R312) -/

/-- RDONE of a handler thread on a core: the release, the row cleared and idle. -/
def State.rowDone (s : State) (core : Nat) (h : HandlerId) : State :=
  let s1 := s.release core .die
  s1.setQuad h.quad ((s1.quad h.quad).modTile h.tile (fun t => t.clearRow h.row))

/-- A tailwater handler that has executed RDONE, or whose row its QUIT has finished (R294). -/
def Thread.handlerDone (t : Thread) : Thread := { t with handler := t.handler.map (fun h => { h with done := true }) }

/-- RDONE (R294, R312). -/
def execRdone (s : State) : Out :=
  match s.thr.handler with
  | some h =>
    if h.done then s.done
    else ((s.rowDone s.cur.1 h).modThr Thread.handlerDone).done
  | none => s.done

/-! ## What MACQ, MREL, MHND and MCHK ask of the noria (R280, R289, R292, R295) -/

/-- The thread of an entry, which waits for it, goes on. -/
def State.noriaAnswer (s : State) (core : Nat) (e : NqEntry) (f : Thread → Thread) : State :=
  s.completeParty (.slot core e.slot) none f

/-- The same with Z written and no other flag. -/
def State.noriaZ (s : State) (core : Nat) (e : NqEntry) (z : Bool) : State :=
  s.noriaAnswer core e (fun t => (t.putFlags (FlagWrite.onlyZ z)).retire)

/-- MACQ at the noria (R280, R311): every named resource, or none. -/
def State.acquireAt (s : State) (core : Nat) (e : NqEntry) (tiles slots : List Nat) : State :=
  let q := s.quad (core / 4)
  if tiles.any (fun i => (q.tile i).holder.isSome) || slots.any (fun i => (q.bslot i).holder.isSome) ||
      (decide (tiles ≠ [] ∨ slots ≠ []) && !s.chargeFits e.ctx (16448 * tiles.length + 4416 * slots.length)) then
    s.noriaZ core e false
  else (s.setQuad (core / 4) (q.grant e.ctx e.recIx tiles slots)).noriaZ core e true

/-- An MREL that has been taken: its resources given back and its thread gone on, once nothing holds it (R280). -/
def State.tryRelease (s : State) (q : Nat) (l : LoadStep) : State :=
  match l.entry.op with
  | .release tiles slots =>
    match s.release' l.core l.entry.ctx l.entry.recIx tiles slots with
    | none => s
    | some s1 =>
      let x := s1.quad q
      (s1.setQuad q { x with releases := x.releases.erase l }).noriaAnswer l.core l.entry Thread.retire
  | _ => s

/-- MHND at the noria (R292, R309): registers or releases the core's tailwater handler. -/
def State.registerAt (s : State) (core : Nat) (e : NqEntry) (h : Nat) (handle pc maph : Word) : State :=
  if h = 0 then
    if !s.holdsHandler core e.ctx e.recIx then s.noriaZ core e true
    else if s.handlersBusy core then s.noriaZ core e false
    else (s.unregister core).noriaZ core e true
  else if (s.core core).handler.isSome || decide ((s.freeSlots core).length < h) || !s.poolFits e.ctx h ||
      !s.chargeFits e.ctx 64 then s.noriaZ core e false
  else (s.registerHandler core (s.partyThread (.slot core e.slot)) h handle pc maph).noriaZ core e true

/-- MCHK takes effect, the row steps that it follows written (R295, R310): CHK set, the quad's count to its thread, which waits
for it or has a window open. -/
def State.checkAt (s : State) (core : Nat) (e : NqEntry) (tile : Nat) (on : Bool) : State :=
  let q := s.quad (core / 4)
  let n := min q.mismatches (2 ^ 32 - 1)
  let s1 := s.setQuad (core / 4) (q.modTile tile (fun t => { t with chk := on }))
  let who := Party.slot core e.slot
  match (s1.partyThread who).wait with
  | some (.noria id d) =>
    if id = e.id then (s1.pushReceived who d (fun _ => n)).completeParty who none (Thread.receive d n true)
    else s1.modThread core e.slot (fun t => t.fillStatus e.id n)
  | _ => s1.modThread core e.slot (fun t => t.fillStatus e.id n)

/-! ## The noria's own steps (R287, R289, R290, R293, R295) -/

/-- Whether drains that are under way still have to reach a row. -/
def drainsReach (ds : List DrainStep) (tile row : Nat) : Bool :=
  ds.any (fun d => match d.entry.op with
    | .drain t first count _ => decide (t = tile ∧ first + d.next ≤ row ∧ row < first + count)
    | _ => false)

/-- Whether a row step into a row is under way. -/
def QuadSt.rowInFlight (q : QuadSt) (tile row : Nat) : Bool :=
  q.rowsIn.any (fun r => match r.entry.op with
    | .row _ h _ _ => decide (shapeTile h = tile ∧ shapeRow h = row)
    | _ => false)

/-- Whether the row step that holds the A row buffer is on a slot. -/
def QuadSt.broadcasts (q : QuadSt) (slot : Nat) : Bool :=
  q.rowsIn.any (fun r => decide (some r.entry.id = q.abuf) && (match r.entry.op with
    | .row _ h _ _ => decide (shapeSlot h = slot)
    | _ => false))

/-- Whether the head of a queue can start (R289, R290). -/
def QuadSt.canStart (q : QuadSt) (e : NqEntry) : Bool :=
  match e.op with
  | .row _ h _ ready =>
    ready && q.abuf.isNone &&
      !q.loads.any (fun l => match l.entry.op.loadDesc with | some d => decide (d.slot = shapeSlot h) | none => false) &&
      !(q.tile (shapeTile h)).draining (shapeRow h) && !drainsReach q.drains (shapeTile h) (shapeRow h)
  | .load d _ _ _ => !q.broadcasts (BDesc.ofNat d.toNat).slot
  | .drain _ _ _ _ | .acquire _ _ | .release _ _ | .register _ _ _ _ | .check _ _ => true

/-- An entry taken by the noria (R289). -/
def State.takeEntry (s : State) (core : Nat) (e : NqEntry) : State :=
  let qi := core / 4
  let q := { s.quad qi with lastNoria := core % 4 }
  match e.op with
  | .row _ h _ _ => s.setQuad qi { q with abuf := some e.id, rowsIn := q.rowsIn ++ [⟨core, e, q.bslot (shapeSlot h)⟩] }
  | .load _ _ _ _ => s.setQuad qi { q with loads := q.loads ++ [⟨core, e⟩] }
  | .drain _ _ _ _ => s.setQuad qi { q with drains := q.drains ++ [⟨core, e, 0⟩] }
  | .acquire tiles slots => (s.setQuad qi q).acquireAt core e tiles slots
  | .release _ _ => (s.setQuad qi { q with releases := q.releases ++ [⟨core, e⟩] }).tryRelease qi ⟨core, e⟩
  | .register h handle pc maph => (s.setQuad qi q).registerAt core e h handle pc maph
  | .check tile on =>
    if q.rowsIn.isEmpty then (s.setQuad qi q).checkAt core e tile on
    else s.setQuad qi { q with rowsIn := q.rowsIn ++ [⟨core, e, q.bslot 0⟩] }

/-- Takes the first head that can start, of these cores (R289). -/
def State.noriaTake (s : State) (q : Nat) : List Nat → State
  | [] => s
  | c :: r =>
    let core := 4 * q + c
    match (s.core core).nq with
    | e :: rest =>
      if (s.quad q).canStart e then (s.setCore core { s.core core with nq := rest }).takeEntry core e
      else s.noriaTake q r
    | [] => s.noriaTake q r

/-- The MRELs that a quad's noria has taken end where they can, then it takes a head (R280, R289). -/
def State.noriaTurn (s : State) (q : Nat) : State :=
  let s1 := (s.quad q).releases.foldl (fun s l => s.tryRelease q l) s
  s1.noriaTake q (rotation (s1.quad q).lastNoria)

/-- NORIA_TAKE (R289, R290). -/
def execNoriaTake (quad : Nat) (s : State) : Out := .next (s.noriaTurn quad)

/-! ## MACQ, MREL, MHND, MCHK (R280, R289, R292, R295, R308 to R311) -/

/-- A noria queue entry is made; a noria whose queues are all empty takes it at once. -/
def State.askNoria (s : State) (op : NoriaOp) (f : Nat → State → State) : State :=
  let (id, s1) := s.nqPush op
  let s2 := f id s1
  if (s.queued s.myQuad).isEmpty then s2.noriaTurn s.myQuad else s2

/-- The instruction waits for the noria's answer, and is not parked (R128, R289). -/
def State.awaitNoria (s : State) (reads : List Name) (d : Name) (op : NoriaOp) : Out :=
  .next (s.askNoria op (fun id s => s.park reads (.noria id d)))

/-- MACQ (R280, R311). -/
def execMacq (a : Name) (s : State) : Out :=
  s.noriaStep { reads := ints [a] } (fun s => s.ext a) (fun s =>
    let w := s.ext a
    if bits w 12 52 ≠ 0 then s.trap (matrixShape 4 w)
    else if s.nqFull then s.again
    else s.awaitNoria [a] 63 (.acquire (wordTiles w) (wordSlots w)))

/-- MREL (R280, R311): waits, without a park, then gives the named resources back. -/
def execMrel (a : Name) (s : State) : Out :=
  s.noriaStep { reads := ints [a] } (fun s => s.ext a) (fun s =>
    let w := s.ext a
    if bits w 12 52 ≠ 0 then s.trap (matrixShape 4 w)
    else if s.nqFull then s.again
    else s.awaitNoria [a] 63 (.release (wordTiles w) (wordSlots w)))

/-- MHND (R292, R309): its entry is read at issue; a count outside 0 to 15 is refused. -/
def execMhnd (a b : Name) (s : State) : Out :=
  s.noriaStep { reads := ints [a, b] } (fun s => s.ext a) (fun s =>
    let h := s.val a
    if s.nqFull then s.again
    else if h < 0 ∨ 15 < h then s.putFlags [a, b] (FlagWrite.onlyZ false)
    else if h = 0 then s.awaitNoria [a, b] 63 (.register 0 0 0 0)
    else
      match s.readEntry (s.ext b) with
      | (.error x, s1) => s1.trap x
      | (.ok (pc, maph), s1) => s1.awaitNoria [a, b] 63 (.register h.toNat (BitVec.ofNat 64 (s.ext b)) pc maph))

/-- MCHK (R295, R310). With lookahead its destination and flags are written when the count is known; a destination in trap
mode makes its look 0 (R21), and so does one that is bound (log 40). Its MATRIX_SHAPE reports the control word (log 73). -/
def execMchk (d a : Name) (look : Look) (s : State) : Out :=
  s.noriaStep (use2 d a) (fun s => s.ext a) (fun s =>
    let w := s.ext a
    let tile := bits w 0 2
    let op : NoriaOp := .check tile (bit1 w 2)
    if bits w 3 61 ≠ 0 then s.trap (matrixShape 4 w)
    else if !s.mine ((s.quad s.myQuad).tile tile).holder then s.trap (matrixShape 3 w)
    else if s.nqFull then s.again
    else if s.statusInWindow d look then
      .next (s.askNoria op (fun id s => ((s.consume [a]).openWindow look.val (awaited d) (.count id d)).retire))
    else s.awaitNoria [a] d op)

/-- The mantissa of a DX code (R62). -/
def dxMant (w code : Nat) : Int := patVal .signed (w - 1) (code % 2 ^ (w - 1))

/-- Element codes of an A row; exponents of its pairs, 0 from pair PA on (R286). -/
def rowCodes (a : VRegVal) : List Nat := (unpackLanes (tagWidth a.tag) 64 a.data.toNat)

/-- The exponent that element `k` of an A row selects. -/
def rowExp (a : VRegVal) (pa k : Nat) (sel : Bool) : Nat :=
  if k / 32 < pa then bits a.side.toNat (16 * (k / 32) + 8 * sel.toNat) 8 else 0

/-- The class sums of a column, S[j][a][b] at index 4j + 2a + b (R287). -/
def classSums (w : Nat) (acodes bcodes : List Nat) (n : Nat) : List Int :=
  (List.range n).foldl (fun (S : List Int) k =>
    let x := acodes.getD k 0
    let y := bcodes.getD k 0
    let i := 4 * (k / 32) + 2 * (bit1 x (w - 1)).toNat + (bit1 y (w - 1)).toNat
    S.modify i (· + dxMant w x * dxMant w y)) (List.replicate 8 0)

/-- Whether a live pair selects an exponent of 255 (R287). -/
def pairNan (w : Nat) (a : VRegVal) (pa : Nat) (acodes bcodes exps : List Nat) (n : Nat) : Bool :=
  (List.range n).any (fun k =>
    let x := acodes.getD k 0
    let y := bcodes.getD k 0
    decide (rowExp a pa k (bit1 x (w - 1)) = 255) ||
      decide (exps.getD (2 * (k / 32) + (bit1 y (w - 1)).toNat) 0 = 255))

/-- The exact sum y in units of 2^-254 (R287). -/
def rowSum (a : VRegVal) (pa : Nat) (exps : List Nat) (S : List Int) : Int :=
  ((List.range 8).map (fun i =>
    S.getD i 0 * ipow (rowExp a pa (32 * (i / 4)) (bit1 i 1) + exps.getD (2 * (i / 4) + i % 2) 0))).sum

/-- The new value of a written accumulator (R287). -/
def accumulate (acc : BitVec 32) (y : Int) : BitVec 32 :=
  BitVec.ofNat 32 (Fmt.b32.rne ((Fmt.b32.value acc.toNat).add (.fin (decide (y < 0)) y.natAbs (-254))))

/-- One row step on a loaded slot: the row's new values (R287). -/
def rowStep (b : BSlot) (d : BDesc) (a : VRegVal) (K pa : Nat) (vals : List (BitVec 32)) : List (BitVec 32) :=
  let w := tagWidth (dxTag d.fmt)
  let ac := rowCodes a
  (List.range 64).map (fun n =>
    let acc := vals.getD n 0
    if d.nb ≤ n then acc
    else
      let bc := b.elems.getD n []
      let ex := b.pairs.getD n []
      let live := if n < d.nlim then min K d.klim else 0
      if pairNan w a pa ac bc ex live then BitVec.ofNat 32 Fmt.b32.nanCode
      else accumulate acc (rowSum a pa ex (classSums w ac bc live)))

/-- The classes of a row's elements against the checksum column: Csum at index 4j + 2a + b (R295). -/
def checkSums (w : Nat) (ac : List Nat) (sums : List (Int × Int)) (K : Nat) : List Int :=
  (List.range K).foldl (fun (C : List Int) k =>
    let x := ac.getD k 0
    let cb := sums.getD k (0, 0)
    let i := 4 * (k / 32) + 2 * (bit1 x (w - 1)).toNat
    (C.modify i (· + dxMant w x * cb.1)).modify (i + 1) (· + dxMant w x * cb.2)) (List.replicate 8 0)

/-- Whether a live element of the row or of the slot selects an exponent of 255 (R295). -/
def rowFlagged (b : BSlot) (d : BDesc) (a : VRegVal) (K pa : Nat) : Bool :=
  let w := tagWidth (dxTag d.fmt)
  let ac := rowCodes a
  (List.range K).any (fun k => decide (rowExp a pa k (bit1 (ac.getD k 0) (w - 1)) = 255)) ||
    (List.range d.nlim).any (fun n => (List.range d.klim).any (fun k =>
      decide ((b.pairs.getD n []).getD (2 * (k / 32) + (bit1 ((b.elems.getD n []).getD k 0) (w - 1)).toNat) 0 = 255)))

/-- The status that the check of a row step gives: 0, 1 skipped and flagged, 2 mismatch (R295). -/
def rowCheck (b : BSlot) (d : BDesc) (a : VRegVal) (K pa : Nat) : Nat :=
  if rowFlagged b d a K pa then 1
  else
    let w := tagWidth (dxTag d.fmt)
    let ac := rowCodes a
    let cols := (List.range (min d.nb d.nlim)).map (fun n => classSums w ac (b.elems.getD n []) (min K d.klim))
    let L := cols.foldl (fun (acc : List Int) S => List.zipWith (· + ·) acc S) (List.replicate 8 0)
    if L = checkSums w ac b.sums K then 0 else 2

/-- The checksum column of loaded elements (R283). -/
def checksumColumn (w : Nat) (elems : List (List Nat)) : List (Int × Int) :=
  (List.range 64).map (fun k =>
    elems.foldl (fun (p : Int × Int) col =>
      match col[k]? with
      | some c => if bit1 c (w - 1) then (p.1, p.2 + dxMant w c) else (p.1 + dxMant w c, p.2)
      | none => p) (0, 0))

/-- Free values for the row of a step on a slot whose load failed: the spec states no result there (log 15). -/
def State.freeRow (s : State) (nb : Nat) (vals : List (BitVec 32)) : List (BitVec 32) × State :=
  let (bs, s1) := s.externalRead 0 256
  ((List.range 64).map (fun n => if n < nb then BitVec.ofNat 32 (leNat ((bs.drop (4 * n)).take 4)) else vals.getD n 0), s1)

/-- The kept counters of a physical quad changed (R383). -/
def Device.modWeak (d : Device) (p : Nat) (f : List Nat × List Nat → List Nat × List Nat) : Device :=
  { d with weakQuads := setK p (f (getK (List.replicate 8 0, List.replicate 64 0) p d.weakQuads)) d.weakQuads }

/-- The consequences of a checksum mismatch (R295). -/
def State.mismatch (s : State) (q core : Nat) (e : NqEntry) (slot tok x1 : Nat) : State :=
  let x := s.quad q
  let s1 := (s.setQuad q { x with mismatches := x.mismatches + 1 }).modDev (fun d =>
    d.modWeak ((d.physQuad q).getD 0) (fun w => (w.1.modify slot (· + 1), w.2)))
  let pc := match s1.findThread e.ctx e.recIx with
    | some (c, i) => (match s1.threadAt c i with | some t => t.pc.toNat | none => 0)
    | none => 0
  (s1.errRecord { kind := 0x04, code := 0x0F, ctx := e.ctx, master := slotMaster core e.slot, x0 := tok, x1 := x1, pc := pc }).asyncError
    e.ctx e.recIx (uncorrectable tok x1)

/-- A row step of an entry is written, on the slot that it broadcast (R287, R291, R295). -/
def State.writeRow (s : State) (q core : Nat) (e : NqEntry) (b : BSlot) : State :=
  match e.op with
  | .row a h tok _ =>
    let slot := shapeSlot h
    let tile := shapeTile h
    let d := BDesc.ofNat b.desc.toNat
    let t := (s.quad q).tile tile
    let r := t.row (shapeRow h)
    let (vals, s1) := if b.loaded then (rowStep b d a (shapeK h) (shapePA h) r.vals, s) else s.freeRow d.nb r.vals
    let st := if t.chk && b.loaded then rowCheck b d a (shapeK h) (shapePA h) else 0
    let s2 := s1.setQuad q ((s1.quad q).modTile tile (fun t => t.setRow { r with vals := vals, status := max r.status st }))
    let s3 := if st = 2 then s2.mismatch q core e slot tok (64 * tile + shapeRow h) else s2
    if tok < 8 then s3.setThreadTok e.ctx e.recIx tok 3 else s3
  | _ => s

/-- The MCHKs that no row step stands before take effect (R295). -/
def State.endChecks (s : State) (quad : Nat) : Nat → State
  | 0 => s
  | n + 1 =>
    match (s.quad quad).rowsIn with
    | r :: rest =>
      match r.entry.op with
      | .check tile on =>
        ((s.setQuad quad { s.quad quad with rowsIn := rest }).checkAt r.core r.entry tile on).endChecks quad n
      | _ => s
    | [] => s

/-- ROW_WRITTEN (R287, R295): the oldest row step under way; a row that is written has left the A row buffer. -/
def execRowWritten (quad : Nat) (s : State) : Out :=
  let q := s.quad quad
  match q.rowsIn with
  | [] => .next s
  | r :: rest =>
    let buf := if q.abuf = some r.entry.id then none else q.abuf
    .next (((s.setQuad quad { q with rowsIn := rest, abuf := buf }).writeRow quad r.core r.entry r.slot).endChecks quad rest.length)

/-- The first open window of a thread that awaits this answer awaits it no longer (R17). -/
def answerFirst (aw : Await) : List InFlight → List InFlight
  | [] => []
  | e :: r => if e.awaits = aw then { e with awaits := .nothing } :: r else e :: answerFirst aw r

/-- An answer reaches the thread of a record. -/
def State.answer (s : State) (ctx k : Nat) (aw : Await) : State :=
  match s.findThread ctx k with
  | some (c, i) => s.modThread c i (fun t => { t with inflight := answerFirst aw t.inflight })
  | none => s

/-- A load of an entry is finished: the slot filled, or not loaded where the source was poisoned (R283, R315). -/
def State.finishLoad (s : State) (q : Nat) (l : LoadStep) : State :=
  match l.entry.op with
  | .load desc elems pairs poison =>
    let d := BDesc.ofNat desc.toNat
    let s1 := match poison with
      | none => s.setQuad q ((s.quad q).modBslot d.slot (fun b =>
          { b with loaded := true, desc := desc, elems := elems, pairs := pairs
                   sums := checksumColumn (tagWidth (dxTag d.fmt)) elems }))
      | some pa =>
        ((s.setQuad q ((s.quad q).modBslot d.slot (fun b => { b with loaded := false, desc := desc }))).errRecord
          { kind := 0x02, code := 0x0F, ctx := l.entry.ctx, addr := pa, master := slotMaster l.core l.entry.slot, x0 := 0x103 }).asyncError
          l.entry.ctx l.entry.recIx (uncorrectable 0x103 d.slot)
    s1.answer l.entry.ctx l.entry.recIx (.slotLoaded q d.slot)
  | _ => s

/-- SLOT_LOADED (R283, R284): the oldest load of a slot. -/
def execSlotLoaded (quad slot : Nat) (s : State) : Out :=
  let q := s.quad quad
  let isIt (l : LoadStep) : Bool := match l.entry.op.loadDesc with | some d => decide (d.slot = slot) | none => false
  match q.loads.find? isIt with
  | none => .next s
  | some l => .next ((s.setQuad quad { q with loads := q.loads.erase l }).finishLoad quad l)

/-- ROW_DRAIN (R290, R293): the next row of a drain under way, when R290 allows. -/
def execRowDrain (quad k : Nat) (s : State) : Out :=
  let q := s.quad quad
  match q.drains[k]? with
  | none => .next s
  | some d =>
    match d.entry.op with
    | .drain tile first count cookie =>
      let row := first + d.next
      let t := q.tile tile
      if q.rowInFlight tile row || t.draining row || drainsReach (q.drains.take k) tile row then .next s
      else
        let r := t.row row
        let out : DrainedRow := ⟨d.core, d.entry.ctx, d.entry.recIx, tile, row, r.status, r.vals, cookie⟩
        let last := decide (count ≤ d.next + 1)
        let ds := if last then q.drains.eraseIdx k else q.drains.set k { d with next := d.next + 1 }
        let s1 := s.setQuad quad ({ q with drains := ds, drained := q.drained ++ [out] }.modTile tile
          (fun t => t.setRow { r with draining := true }))
        .next (if last then s1.answer d.entry.ctx d.entry.recIx (.drained d.entry.id) else s1)
    | _ => .next s

/-- A vector register of sixteen FP32 values. -/
def fp32Reg (vals : List (BitVec 32)) : VRegVal := regOfLanes .fp32 (vals.map (fun v => v.toNat)) 0

/-- A record of a registration that no handler uses, in a slot or on its way back to one (R292, R330). -/
def State.idleRecord (s : State) (h : HandlerReg) : Option Nat :=
  h.recs.find? (fun k => (s.findThread h.ctx k).isNone && !(s.recInfo h.ctx k).retiring && (s.recInfo h.ctx k).handler.isNone)

/-- A drained row's handler starts in a reserved slot (R293). -/
def State.startHandler (s : State) (core slot k : Nat) (h : HandlerReg) (r : DrainedRow) : State :=
  let t : Thread := { Thread.empty with
    ctx := h.ctx, recIx := k, pc := h.entry, maph := h.maph, trapv := h.trapv, traprec := h.traprec, aff := some core }
  let s1 := (s.writeFresh t [r.tile, r.row, r.status, r.cookie.toNat] (s.dev.dieOf core)).placeRecord core slot h.ctx k .die
  s1.modThread core slot (fun t =>
    let t1 := (List.range 4).foldl (fun t i => t.setVreg (Fin.ofNat 32 i) (fp32Reg ((r.vals.drop (16 * i)).take 16))) t
    { t1 with handler := some ⟨core / 4, r.tile, r.row, false⟩ })

/-- Whether a context runs on a core: it is resident, and no restored state of its own is still to be put back there (R162, R192,
R330). -/
def State.ctxOn (s : State) (ctx core : Nat) : Bool :=
  match s.ctxOf ctx with
  | some x => decide (x.rstate = 1) && !s.waitsFor x core
  | none => false

/-- HANDLER_DISPATCH (R293): the oldest drained row of the context that has registered on the core, into a free reserved slot. Rows
that were drained for a registration since released wait for their context's next one (log 113). -/
def execHandlerDispatch (core : Nat) (s : State) : Out :=
  let q := s.quad (core / 4)
  match (s.core core).handler with
  | none => .next s
  | some h =>
    if !s.ctxOn h.ctx core then .next s else
    match q.drained.find? (fun r => decide (r.core = core ∧ r.ctx = h.ctx)),
        h.slots.find? (fun i => decide (((s.core core).slot i).occ = .free)), s.idleRecord h with
    | some r, some i, some k =>
      .next ((s.setQuad (core / 4) { q with drained := q.drained.erase r }).startHandler core i k h r)
    | _, _, _ => .next s

/-! ## The quad vector unit (R154 to R156, R291) -/

/-- VECTOR_UNIT_TAKE (R154, R156). -/
def execVectorUnitTake (quad : Nat) (s : State) : Out := .next (s.vectorTake quad (rotation (s.quad quad).lastVec))

/-! ## What QUIT does with noria resources (R280, R294) -/

/-- QUIT's MREL of all that a thread holds, then the release of its registration; whether it has ended (R280). -/
def State.quitNoria (s : State) (core : Nat) (t : Thread) : Bool × State :=
  let s0 := match t.handler with
    | some h => if h.done then s else s.rowDone core h
    | none => s
  match s0.release' core t.ctx t.recIx (List.range 4) (List.range 8) with
  | none => (false, s0)
  | some s1 =>
    if s1.holdsHandler core t.ctx t.recIx then
      if s1.handlersBusy core then (false, s1) else (true, s1.unregister core)
    else (true, s1)

/-- Whether a QUIT of a thread waits with nothing that it could do: for its long-latency instructions, for noria operations on what it
holds, or for the handlers of its registration. It is then WAITING (R128, R280). -/
def State.quitWaits (s : State) (core : Nat) (t : Thread) : Bool :=
  let q := s.quad (core / 4)
  let idle := (q.tilesOf t.ctx t.recIx (List.range 4)).isEmpty && (q.slotsOf t.ctx t.recIx (List.range 8)).isEmpty
  !t.quiet || (t.handler.all (fun h => h.done) &&
    ((s.release' core t.ctx t.recIx (List.range 4) (List.range 8)).isNone ||
      (idle && s.holdsHandler core t.ctx t.recIx && s.handlersBusy core)))

end Sys2Proof.Machine
end

