-- ==== Sys2Proof/Machine/Threads.lean ====
section
/-! DEFINITION. Threads: SPAWN, QUIT, YIELD, identities, groups, the rotation table, links (R129, R132 to R136, R141 to R148,
R158, R159, R162 to R169). -/

namespace Sys2Proof.Machine
open Sys2Proof

/-! ## SPAWN (R134, R163) -/

/-- The scope of the release and the acquire that join a spawner and its thread (R134). -/
def State.spawnScope (s : State) (aff : Option Nat) : Scope :=
  match aff with
  | none => .die
  | some c => if c = s.cur.1 then .core else if s.dev.dieOf c = s.dev.dieOf s.cur.1 then .die else .dev

/-- Where a new thread's record goes: a free slot of this core, or the ready flume of its affinity (R134). -/
def State.sendRecord (s : State) (ctx k : Nat) (aff : Option Nat) : State :=
  match aff with
  | none => s.enqueueReady ctx none (s.dev.dieOf s.cur.1) k
  | some c =>
    match (if c = s.cur.1 then s.freeSlotOf c else none) with
    | some i => s.placeRecord c i ctx k .die
    | none => s.enqueueReady ctx (some c) (s.dev.dieOf c) k

/-- The indivisible step of SPAWN, a record taken (R134). -/
def State.spawnRecord (s : State) (k : Nat) (pc maph : Word) (args : List Nat) (aff : Option Nat) : State :=
  let sc := s.spawnScope aff
  let t : Thread := { Thread.empty with
    ctx := s.thr.ctx, recIx := k, pc := pc, maph := maph
    privl := ⟨s.thr.privl.priv, false, false, false⟩
    trapv := s.thr.trapv, traprec := s.thr.traprec, aff := aff }
  let die := match aff with | some c => s.dev.dieOf c | none => s.dev.dieOf s.cur.1
  let s1 := s.writeFresh t args die
  let s2 := s1.setRecInfo t.ctx { s1.recInfo t.ctx k with acq := some sc }
  (s2.release s2.cur.1 sc).sendRecord t.ctx k aff

/-- SPAWN (R134, R163). -/
def execSpawn (d a b : Name) (s : State) : Out :=
  let args := nameRun d 4
  let u : Use := { reads := args.map (fun n => (n, .any)) ++ ints [a, b] }
  s.guarded u (fun s =>
    match s.readEntry (s.ext b) with
    | (.error x, s1) => s1.trap x
    | (.ok (pc, maph), s1) =>
      match s1.takeRecord s1.thr.ctx with
      | (none, s2) => s2.putFlags u.names ⟨some false, some false, none, none, false⟩
      | (some k, s2) =>
        let c := s.val a
        let legal := decide (c = -1) || (decide (0 ≤ c) && s.dev.isCore c.toNat)
        let aff := if legal && decide (c ≠ -1) then some c.toNat else none
        (s2.spawnRecord k pc maph (args.map (fun n => s.ext n)) aff).putFlags u.names
          ⟨some true, some (!legal), none, none, false⟩)

/-! ## QUIT and YIELD (R135, R136, R164) -/

/-- The end of a thread in a slot, once its noria resources are gone (R135, R276, R294). -/
def State.endThread (s : State) (core slot : Nat) (t : Thread) : State :=
  let s1 := (s.quitSteps core t).freeSlot core slot
  let s2 := s1.returnRecord t.ctx t.recIx t.toks
  match t.launch with
  | some (j, _) => s2.threadGone t.ctx j
  | none => s2

/-- QUIT: waits for the thread's long-latency instructions and noria operations, gives back what the thread holds, and ends it
(R135, R280). -/
def State.quit (s : State) : Out :=
  match s.quieted with
  | none => s.again
  | some s1 =>
    match s1.quitNoria s1.cur.1 s1.thr with
    | (false, s2) => (s2.modThr Thread.handlerDone).again
    | (true, s2) => .next (s2.endThread s2.cur.1 s2.cur.2 s2.thr)

/-- QUIT (R135, R164). -/
def execQuit (s : State) : Out := s.quit

/-- QUIT, 16-bit form (R83, R164). -/
def execQuit16 (s : State) : Out := s.quit

/-- Takes the head of a ready flume into a free slot of a core (R141, R143). -/
def State.takeReady (s : State) (core slot ctx : Nat) (own : Bool) (k : Nat) : State :=
  let die := s.dev.dieOf core
  let s1 := s.popReady ctx (if own then some core else none) die
  let s2 := s1.setCore core { s1.core core with lastCtx := ctx }
  let s3 := if own then s2 else { s2 with diePos := setK (16 * ctx + die) core s2.diePos }
  s3.placeRecord core slot ctx k .die

/-- The record that a YIELD of a thread would let into its slot: the head of the ready flume that matches its affinity; none for a
thread that is never written back (R136). -/
def State.yieldsTo (s : State) (core : Nat) (t : Thread) : Option Nat :=
  if s.pinned core t then none else (s.readyRecs t.ctx t.aff (s.dev.dieOf core)).head?

/-- YIELD: to the tail of the ready flume that matches the thread's affinity, if that holds a record, once the thread's long-latency
instructions have completed (R139); else the thread forgoes its next own turn (R136). -/
def State.yield (s : State) : Out :=
  match s.yieldsTo s.cur.1 s.thr with
  | none => (s.modThr (fun t => { t with forgo := true })).done
  | some k =>
    match s.quieted with
    | none => s.again
    | some s1 =>
      let core := s1.cur.1
      let slot := s1.cur.2
      let t := s1.thr
      let die := s1.dev.dieOf core
      let s2 := s1.retire.spillNow core slot .die
      .next ((s2.enqueueReady t.ctx t.aff die t.recIx).takeReady core slot t.ctx t.aff.isSome k)

/-- YIELD (R136, R164). -/
def execYield (s : State) : Out := s.yield

/-- YIELD, 16-bit form (R83, R164). -/
def execYield16 (s : State) : Out := s.yield

/-! ## TID (R165) -/

/-- An identity of the running thread (R165). -/
def State.identity (s : State) (item : Nat) : Int :=
  match item with
  | 0 => s.cur.1
  | 1 => s.cur.2
  | 2 => (s.cur.1 / 4 : Nat)
  | 3 => (s.cur.1 % 4 : Nat)
  | 4 => s.dev.dieOf s.cur.1
  | 5 => (bits (s.dev.reg 0x10) 0 12 : Nat)
  | 6 => s.thr.ctx
  | _ => match s.thr.aff with | some c => c | none => -1

/-- TID (R165). -/
def execTid (d : Name) (item : Fin 8) (s : State) : Out :=
  s.alu { writes := ints [d] } d (fun s => s.identity item.val)

/-! ## Groups (R144 to R148, R166, R167) -/

/-- Checks the group word at an address and hands it on with its fields. -/
def State.withGroup (s : State) (addr : Nat) (k : Piece → GroupWord → State → Out) : Out :=
  match s.groupPiece s.thr s.cur.1 addr with
  | (.error f, s1) => s1.fail f
  | (.ok x, s1) =>
    s1.cleanWord (x.loc.level .quad) x (fun s1 =>
      let (g, s2) := s1.groupRead s1.cur.1 x
      s2.cleanWord (x.loc.level g.scope) x (fun s2 => k x g s2))

/-- A group word after an arrival: the last one completes the barrier (R148). ARRV wraps in its 32 bits (log 129). -/
def GroupWord.arrive (g : GroupWord) : GroupWord :=
  let h := { g with arrv := (g.arrv + 1) % 2 ^ 32 }
  if h.arrv = h.memb then h.complete else h

/-- JOIN of a word that refuses nothing (R146): the word's new value, and whether the scope differed. -/
def GroupWord.join (g : GroupWord) (sc : Scope) : GroupWord × Bool :=
  if g.memb = 0 then ({ g with memb := 1, arrv := 0, scp := scopeRank sc + 1 }, false)
  else ({ g with memb := g.memb + 1 }, decide (g.scp ≠ scopeRank sc + 1))

/-- Whether a group word refuses a JOIN (R146). -/
def GroupWord.joinRefused (g : GroupWord) : Bool := g.malformed || decide (g.memb = 2 ^ 32 - 1)

/-- JOIN (R145, R146, R166): one read-modify-write at the home of the operand's scope. A refused JOIN writes V := 0 beside Z (log 106). -/
def execJoin (g : Grp) (a : Name) (scope : Scope) (s : State) : Out :=
  s.guarded { reads := ints [a] } (fun s =>
    let addr := s.ext a
    match s.groupPiece s.thr s.cur.1 addr with
    | (.error f, s1) => s1.fail f
    | (.ok x, s1) =>
      s1.cleanWord (x.loc.level scope) x (fun s1 =>
        let mine := (s1.thr.group g).isSome ||
          s1.thr.groups.toList.any (fun h => decide (h = some (BitVec.ofNat 64 addr)))
        let (w0, s2) := s1.atomicAt s1.cur.1 scope x (fun w =>
          if mine || (GroupWord.ofNat w).joinRefused then none else some ((GroupWord.ofNat w).join scope).1.toNat)
        let w := GroupWord.ofNat w0
        if mine || w.joinRefused then s2.putFlags [a] ⟨some false, none, none, some false, false⟩
        else
          (s2.modThr (fun t => t.setGroup g (some (BitVec.ofNat 64 addr)))).putFlags [a]
            ⟨some true, none, none, some (w.join scope).2, false⟩))

/-- LEAVE (R146, R147, R166). -/
def execLeave (g : Grp) (s : State) : Out :=
  match s.thr.group g with
  | none => s.putFlags [] (FlagWrite.onlyZ false)
  | some addr =>
    s.withGroup addr.toNat (fun x w s =>
      if w.malformed then s.putFlags [] (FlagWrite.onlyZ false)
      else ((s.leaveWord s.cur.1 x w.scope).modThr (fun t => t.setGroup g none)).putFlags [] (FlagWrite.onlyZ true))

/-- The arrival of the running thread at a barrier (R148): it goes on, or parks until the phase has changed. -/
def State.arrive (s : State) (x : Piece) (sc : Scope) : Out :=
  let core := s.cur.1
  let s1 := s.release core sc
  let (w0, s2) := s1.atomicAt core sc x (fun w => some (GroupWord.ofNat w).arrive.toNat)
  let w := GroupWord.ofNat w0
  if w.arrive.phase ≠ w.phase then
    ((s2.wakeGroup x.loc.key w.phase).acquire core sc).putFlags [] (FlagWrite.onlyZ true)
  else if s2.remotePiece x then .next ((s2.remoteWait (.group sc) x.addr false none).park [] .group)
  else
    .next (({ s2 with groupWaits := s2.groupWaits ++ [⟨x.loc.key, w.phase, sc, s2.me⟩] } : State).park [] .group)

/-- GBAR (R146, R148, R166). -/
def execGbar (g : Grp) (s : State) : Out :=
  match s.thr.group g with
  | none => s.putFlags [] (FlagWrite.onlyZ false)
  | some addr =>
    s.withGroup addr.toNat (fun x w s =>
      if w.malformed then s.putFlags [] (FlagWrite.onlyZ false) else s.arrive x w.scope)

/-- A field of a group word (R167). -/
def GroupWord.field (g : GroupWord) (item : Nat) : Nat :=
  match item with
  | 0 => g.memb
  | 1 => g.arrv
  | 2 => g.phase
  | _ => g.scp

/-- GCNT (R167): −1 for an empty handle or a malformed word. -/
def execGcnt (d : Name) (g : Grp) (item : Fin 4) (s : State) : Out :=
  s.guarded { writes := ints [d] } (fun s =>
    match s.thr.group g with
    | none => s.narrowInto [] d (-1) id
    | some addr =>
      s.withGroup addr.toNat (fun _ w s => s.narrowInto [] d (if w.malformed then -1 else (w.field item.val : Int)) id))

/-! ## The rotation table (R129, R132, R168) -/

/-- ROTR (R168). -/
def execRotr (d : Name) (s : State) : Out :=
  s.alu { writes := ints [d] } d (fun s => ((s.core s.cur.1).rottab.toNat : Int))

/-- ROTW (R168): at user privilege only while the core is the context's alone. -/
def execRotw (a : Name) (s : State) : Out :=
  s.guarded { reads := ints [a] } (fun s =>
    if s.thr.privl.priv || s.coreHeldBy s.cur.1 s.thr.ctx then
      (s.setCore s.cur.1 { s.core s.cur.1 with rottab := BitVec.ofNat 64 (s.ext a) }).putFlags [a] (FlagWrite.onlyZ true)
    else s.putFlags [a] (FlagWrite.onlyZ false))

/-! ## Links (R158, R159, R162, R169) -/

/-- A fixed index: rp, lk or zero (R32). -/
def fixedName (n : Name) : Bool := decide (n = 61 ∨ n = 62 ∨ n = 63)

/-- Whether any thread of a core has a name bound to a link; a restored thread that is yet to be placed counts. -/
def State.linkTaken (s : State) (core : Nat) (l : Fin 4) : Bool :=
  (List.range 16).any (fun i => match s.threadAt core i with
    | some t => t.names.toList.any (fun c => decide (c.bind = .link l))
    | none => false) ||
  s.ctxs.any (fun x => (s.linkRecords x.id).any (fun r => decide (r.1 = core ∧ r.2.2.1 = l)))

/-- LINK (R159, R169). -/
def execLink (d : Name) (dir : Fin 4) (s : State) : Out :=
  s.guarded { decls := ints [d] } (fun s =>
    let core := s.cur.1
    if fixedName d then s.trap (mapFault d.val)
    else if s.linkTaken core dir || decide ((s.thr.name d).bind ≠ .none) || (s.linkOut core dir).isNone ||
        !s.chargeFits s.thr.ctx 128 then s.putFlags [] (FlagWrite.onlyZ false)
    else (s.modThr (fun t => t.setName d { t.name d with bind := .link dir })).putFlags [] (FlagWrite.onlyZ true))

/-- UNLINK (R159, R169): once the thread's long-latency instructions have completed. -/
def execUnlink (d : Name) (s : State) : Out :=
  s.guarded { decls := ints [d] } (fun s =>
    if fixedName d then s.trap (mapFault d.val)
    else
      match s.quieted with
      | none => s.again
      | some s1 =>
        match (s1.thr.name d).bind with
        | .link _ =>
          (s1.modThr (fun t => t.setName d { t.name d with bind := .none })).putFlags [] (FlagWrite.onlyZ true)
        | _ => s1.putFlags [] (FlagWrite.onlyZ false))

/-- Four directions that are all different (R158). -/
def dirsDiffer (v : Nat) : Bool := (List.range 4).all (fun d => (List.range 4).any (fun i => decide (bits v (2 * i) 2 = d)))

/-- Whether a link of a core is bound by a thread of another context (R162). -/
def State.foreignLink (s : State) (core ctx : Nat) : Bool :=
  (List.range 16).any (fun i => match s.threadAt core i with
    | some t => decide (t.ctx ≠ ctx ∧ 0 < t.linkCount)
    | none => false) ||
  s.ctxs.any (fun x => decide (x.id ≠ ctx) && (s.linkRecords x.id).any (fun r => decide (r.1 = core)))

/-- LDIR (R158, R162, R169). -/
def execLdir (a : Name) (s : State) : Out :=
  s.guarded { reads := ints [a] } (fun s =>
    let core := s.cur.1
    let v := s.upat a % 256
    if fixedName a then s.trap (mapFault a.val)
    else if !dirsDiffer v || (!s.thr.privl.priv && s.foreignLink core s.thr.ctx) then
      s.putFlags [a] (FlagWrite.onlyZ false)
    else
      let s1 := s.consume [a]
      (s1.setCore core { s1.core core with ldir := BitVec.ofNat 8 v }).putFlags [] (FlagWrite.onlyZ true))

/-- LDIRR (R169). -/
def execLdirr (d : Name) (s : State) : Out :=
  s.alu { writes := ints [d] } d (fun s => ((s.core s.cur.1).ldir.toNat : Int))

end Sys2Proof.Machine
end

