-- ==== Sys2Proof/Machine/Copies.lean ====
section
/-! DEFINITION. Copies: copy flumes and packets, tokens, basin instructions, and the headworks steps that execute packets
(R258 to R273, R298 to R301, R365, R374). -/

namespace Sys2Proof.Machine
open Sys2Proof

/-! ## The copy-flume table (R258, R385) -/

/-- The address of an entry of a base die's flume table, if the table is valid. -/
def State.cftEntryPa (s : State) (base entry : Nat) : Option Nat :=
  let r := s.dev.reg (0x100 + 8 * base)
  if bit1 r 0 then some (bits r 12 36 * 4096 + 8 * entry) else none

/-- A valid entry of a base die's flume table: the control block that it names, and whether it is a collective flume. -/
def State.cftEntry (s : State) (base entry : Nat) : Option (Nat × Bool) :=
  match s.cftEntryPa base entry with
  | none => none
  | some pa =>
    let e := leNat (s.mem.homePeek pa 8)
    if bit1 e 0 then some (bits e 6 42 * 64, bit1 e 1) else none

/-- Whether a control block is registered in its base die's table, as a copy flume or as a collective flume. -/
def State.registered (s : State) (base pa : Nat) (coll : Bool) : Bool :=
  (List.range 256).any (fun i => decide (s.cftEntry base i = some (pa, coll)))

/-! ## CPY and COLL (R259, R298, R374) -/

/-- The packet of a register with its TV, TOK and RIX fields written (R259). -/
def tiePacket (x tok rix : Nat) : List Word :=
  let w (i : Nat) : Nat := bits x (64 * i) 64
  let w6 := setBits (setBits (setBits (w 6) 55 1 1) 56 3 tok) 59 5 (bits rix 18 5)
  ([w 0, w 1, w 2, w 3, w 4, w 5, w6, setBits (w 7) 46 18 (bits rix 0 18)]).map (BitVec.ofNat 64)

/-- CPY and COLL: the token's check, which R29 ranks before that of the handle's size (log 76), then an enqueue on a registered
flume (R298, R374). Whether another device's flume is registered there, and whether it is full under POLICY 1, is a free choice like
its other answers (log 13). -/
def State.appendPacket (s : State) (k : Tok) (a : VReg) (b : Name) (coll : Bool) : Out :=
  s.guarded { reads := ints [b], vreads := [a] } (fun s =>
    let h := s.ext b
    match s.handleCheck s.thr s.cur.1 h with
    | (.error f, s1) => s1.fail f
    | (.ok pa, s1) =>
      let prior := s1.thr.tok k.val
      let tied (s : State) : State := s.modThr (fun t => t.setTok k.val 1)
      if s1.thr.tokBusy k then s1.trap (tokenFault k.val)
      else if handleSize h ≠ 3 then s1.trap (flumeCorrupt (h / 64 * 64) 0)
      else if s1.remotePa pa then
        match (s1.release s1.cur.1 .fab).choose 3 with
        | (0, s2) => s2.trap (mkTrap .protection h 3 0)
        | (1, s2) => s2.finish [b] Pending.none
        | (_, s2) =>
          match s2.remoteNow with
          | (.done, s3) => (tied s3).finish [b] Pending.none
          | (.refused e, s3) => s3.flumeRefused h e
          | (.later, s3) =>
            .next (((tied s3).remoteWait .enq (h / 64 * 64) false (some (k.val, prior))).park [b] .flume)
      else
        let f0 := s1.fcbRead pa
        let s2 := s1.release s1.cur.1 f0.scopeOf
        if f0.home < 16 ∨ !s2.registered (f0.home - 16) pa coll then s2.trap (mkTrap .protection h 3 0)
        else
          match s2.fcbOpen (s2.dev.dieOf s2.cur.1) pa s2.thr.ctx (some 3) with
          | (.error e, s3) => s3.flumeRefused h e
          | (.ok f, s3) =>
            let e := tiePacket (s3.thr.vreg a).data.toNat k.val s3.thr.recIx
            match s3.flumeEnq (s3.dev.dieOf s3.cur.1) pa f e with
            | (.wait, s4) =>
              let w := { s4.flumeMe pa f h true e 63 false with tok := some (k.val, prior) }
              (tied s4).flumePark f w [b] none
            | (.full, s4) => s4.finish [b] Pending.none
            | (.done _, s4) => (tied s4).finish [b] Pending.none)

/-- CPY (R259, R298). -/
def execCpy (k : Tok) (a : VReg) (b : Name) (s : State) : Out := s.appendPacket k a b false

/-- COLL (R365, R374). -/
def execColl (k : Tok) (a : VReg) (b : Name) (s : State) : Out := s.appendPacket k a b true

/-! ## Tokens (R268, R269, R299, R300) -/

/-- WAITK (R269, R299). -/
def execWaitk (mask : Nat) (kind : TokKind) (s : State) : Out :=
  if s.thr.tokensMet mask kind then
    (match waitkScope kind with
      | some sc => s.acquire s.cur.1 sc
      | none => s).done
  else .next (s.park [] (.tokens mask kind))

/-- TOKS (R300). -/
def execToks (d : Name) (look : Look) (s : State) : Out :=
  s.guarded { writes := ints [d] } (fun s => s.narrowLong look.val [] d (s.thr.toks.toNat : Int))

/-! ## Basin instructions (R270 to R272, R301) -/

/-- Checks the basin word at an address and hands on its physical address and its fields (R301). -/
def State.withBasin (s : State) (k : AccKind) (p : Nat) (f : Nat → Basin → State → Out) : Out :=
  match Option.orFail (windowFail s.cur.1 k p) (alignFail p 8) with
  | some e => s.fail e
  | none =>
    if ptrTag p ≠ 0 then s.fail (protection p k)
    else s.wordAccess k p (fun x s =>
      match x.loc with
      | .sram _ _ => s.fail (protection p k)
      | .global pa _ _ =>
        s.cleanWord .home x (fun s =>
          let (bs, s1) := (s.resPrepare s.cur.1 x).levelRead .home 0 pa 8
          let b := Basin.ofNat (leNat bs)
          if b.legal then f pa b s1 else s1.fail (protection p k)))

/-- BARM (R271, R301): the destination receives the prior word. -/
def execBarm (d a b : Name) (look : Look) (s : State) : Out :=
  s.guarded (use3 d a b) (fun s =>
    s.withBasin .rmw (s.ptrOf a 0) (fun pa w s =>
      (s.putBasin pa w (w.update (lowBits 32 (- s.val b)) 0)).narrowLongAfter look.val [a, b] d (s.thr.loadVal d w.word)))

/-- The phases by which a word's phase is ahead of the one that a program names (R272). -/
def State.phaseAhead (s : State) (w : Basin) (b : Name) : Nat := (w.phase + 65536 - lowBits 16 (s.val b)) % 65536

/-- BWAIT (R272, R301). The phase of a word that another device, the host or a root port keeps changes there, at a moment that
nothing here tells (R356, log 13). -/
def execBwait (d a b : Name) (s : State) : Out :=
  s.guarded (use3 d a b) (fun s =>
    s.withBasin .read (s.ptrOf a 0) (fun pa w s =>
      let δ := s.phaseAhead w b
      if δ = 0 then
        .next ((if s.dev.paKind pa = .hbm then { s with basinWaits := s.basinWaits ++ [⟨pa, w.scope, d, s.me⟩] }
          else s.remoteWait (.basin d w.scope) (s.ptrOf a 0) false none).park [a, b] .basin)
      else
        let st : Int := if δ ≤ 32767 then 1 else 2
        (if st = 2 then s else s.acquire s.cur.1 w.scope).narrowInto [a, b] d st id))

/-- BPOLL (R272, R301). -/
def execBpoll (d a b : Name) (look : Look) (s : State) : Out :=
  s.guarded (use3 d a b) (fun s =>
    s.withBasin .read (s.ptrOf a 0) (fun _ w s =>
      let δ := s.phaseAhead w b
      let st : Int := if δ = 0 then 0 else if δ ≤ 32767 then 1 else 2
      (if st = 1 then s.acquire s.cur.1 w.scope else s).narrowLong look.val [a, b] d st))

/-- BERR (R272, R301). -/
def execBerr (d a : Name) (look : Look) (s : State) : Out :=
  s.guarded (use2 d a) (fun s =>
    s.withBasin .read (s.ptrOf a 0) (fun _ w s => s.narrowLong look.val [a] d (bits w.word 48 16 : Nat)))

/-- BCLR (R272, R301): the destination receives the prior word. -/
def execBclr (d a : Name) (look : Look) (s : State) : Out :=
  s.guarded (use2 d a) (fun s =>
    s.withBasin .rmw (s.ptrOf a 0) (fun pa w s =>
      (s.putBasin pa w { w with err := 0, multi := false, under := false }).narrowLongAfter look.val [a] d
        (s.thr.loadVal d w.word)))

/-! ## Packets (R260, R261) -/

/-- A copy packet's fields; `zero` are the bits marked 0. -/
structure CopyPkt where
  src : Nat
  dst : Nat
  n0 : Nat
  n1 : Nat
  n2 : Nat
  esz : Nat
  op : Nat
  trans : Bool
  acq : Bool
  rel : Bool
  scope : Nat
  seq : Bool
  zero : Nat
  ss1 : Int
  ss2 : Int
  ds1 : Int
  ds2 : Int
  c0 : Nat
  c1 : Nat
  c2 : Nat
  fill : Nat
deriving DecidableEq, Repr

/-- What copy and collective packets have alike: their last two words. -/
structure PktEnd where
  basin : Nat
  sv : Bool
  tv : Bool
  tok : Nat
  rix : Nat
  nb : Nat
  succ : Nat
deriving DecidableEq, Repr

/-- A copy packet from its 512 bits. -/
def CopyPkt.ofNat (x : Nat) : CopyPkt :=
  let w (i : Nat) : Nat := bits x (64 * i) 64
  { src := w 0, dst := w 1
    n0 := bits (w 2) 0 16, n1 := bits (w 2) 16 16, n2 := bits (w 2) 32 16
    esz := bits (w 2) 48 2, op := bits (w 2) 50 3, trans := bit1 (w 2) 53, acq := bit1 (w 2) 54, rel := bit1 (w 2) 55
    scope := bits (w 2) 56 3, seq := bit1 (w 2) 59, zero := bits (w 2) 60 4
    ss1 := patVal .signed 32 (bits (w 3) 0 32), ss2 := patVal .signed 32 (bits (w 3) 32 32)
    ds1 := patVal .signed 32 (bits (w 4) 0 32), ds2 := patVal .signed 32 (bits (w 4) 32 32)
    c0 := bits (w 5) 0 16, c1 := bits (w 5) 16 16, c2 := bits (w 5) 32 16, fill := bits (w 5) 48 16 }

/-- The last two words of a packet. -/
def PktEnd.ofNat (x : Nat) : PktEnd :=
  let w6 := bits x 384 64
  let w7 := bits x 448 64
  { basin := 8 * bits w6 0 54, sv := bit1 w6 54, tv := bit1 w6 55, tok := bits w6 56 3
    rix := bits w6 59 5 * 2 ^ 18 + bits w7 46 18, nb := bits w7 0 32, succ := bits w7 32 14 }

/-- Element bytes. -/
def CopyPkt.size (p : CopyPkt) : Nat := 2 ^ p.esz

/-- How many elements a packet has. -/
def CopyPkt.count (p : CopyPkt) : Nat := p.n0 * p.n1 * p.n2

/-- The code of the check that a packet fails before anything is read (R261). -/
def CopyPkt.fault (p : CopyPkt) : Option Nat :=
  let e : Int := p.size
  let odd (x : Int) : Bool := decide (x % e ≠ 0)
  if p.zero ≠ 0 ∨ p.op = 7 ∨ p.scope < 3 ∨ 5 < p.scope then some 1
  else if p.op = 6 ∧ p.esz ≠ 1 ∧ p.esz ≠ 2 then some 1
  else if p.trans ∧ (p.esz ≠ 0 ∨ ptrTag p.src ≠ 0) then some 1
  else if odd p.src || odd p.dst || odd p.ss1 || odd p.ss2 || odd p.ds1 || odd p.ds2 then some 1
  else if !engineUsable p.src || !engineUsable p.dst then some 2
  else none

/-- The error code of an access that an engine cannot make (R261, R273). -/
def Fail.errCode (f : Fail) : Nat := if f.rank ≤ 2 then 2 else if f.rank = 5 then 3 else 4

/-- Whether a not-before time has been reached (R263). -/
def Device.nbReached (d : Device) (nb : Nat) : Bool :=
  let k := (nb + 2 ^ 32 - d.timebase.toNat % 2 ^ 32) % 2 ^ 32
  decide (nb = 0) || !(decide (1 ≤ k) && decide (k < 2 ^ 31))

/-! ## Elements (R262, R264, R267) -/

/-- The headworks core of a flume's control block: that of its block's pseudo-channel (R197, R322, log 38). -/
def Device.headworksCore (d : Device) (base fcb : Nat) : Nat := 512 * base + d.pseudoChannel fcb

/-- Whether a headworks core is frozen (R323). -/
def State.coreFrozen (s : State) (n : Nat) : Bool := s.frozenMasters.any (fun m => decide (m.master = .headworks n))

/-- The headworks core that serves a flume: its own, or the next of the base die where that one is frozen (R323, log 38). -/
def State.servingCore (s : State) (base fcb : Nat) : Nat :=
  (((List.range 512).map (fun i => 512 * base + (s.dev.pseudoChannel fcb + i) % 512)).find? (fun n =>
    !s.coreFrozen n)).getD (s.dev.headworksCore base fcb)

/-- The master identity of a headworks core (R322). -/
def headworksMaster (core : Nat) : Nat := core * 256 + 1

/-- An operation on an element of `e` bytes (R267). -/
def copyOp (op e old x : Nat) : Nat :=
  let sg (v : Nat) : Int := patVal .signed (8 * e) v
  match op with
  | 0 => x
  | 1 => (old + x) % 2 ^ (8 * e)
  | 2 => if sg old ≤ sg x then old else x
  | 3 => if sg old ≤ sg x then x else old
  | 4 => min old x
  | 5 => max old x
  | _ =>
    let f := if e = 2 then Fmt.bf16 else Fmt.b32
    f.rne ((f.value old).add (f.value x))

/-- The record of a poisoned word that a copy packet has met (R315, R321, log 74). -/
def State.packetPoison (s : State) (master ctx addr : Nat) : State :=
  s.errRecord { kind := 0x02, code := 0x0F, ctx := ctx, addr := addr, master := master }

/-- One element update at its place: the error code when it fails (R261, R267). The engine's accesses go through die 0's TLB and walker
(log 124); an update of a marked slot's word zeroes the slot, as a store does (log 108). -/
def State.copyUpdate (s : State) (master ctx op a : Nat) (x : List Byte) : Nat × State :=
  match s.engineAccess 0 ctx true (if op = 0 then .write else .rmw) a x.length with
  | (.error f, s1) => (f.errCode, s1)
  | (.ok ps, s1) =>
    if op = 0 then (0, s1.homeStorePieces ps x)
    else
      match s1.homePoison ps with
      | some w => (5, s1.packetPoison master ctx w)
      | none =>
        let (old, s2) := s1.homePieces ps
        (0, s2.homeStorePieces ps (leBytes x.length (copyOp op x.length (leNat old) (leNat x))))

/-- What a source element may be found to be: its bytes, the poisoned word that it meets, and the line that the read buffer then
holds. -/
structure SrcElem where
  bytes : List Byte
  bad : Option Nat
  line : Option BufLine
deriving DecidableEq, Repr

/-- One of several readings of a source element, freely where they differ. -/
def State.oneElem (s : State) (first : SrcElem) (others : List SrcElem) : SrcElem × State :=
  let c := (first :: others).eraseDups
  let (k, s1) := s.choose c.length
  (c.getD k first, s1)

/-- An element of a line of a read buffer. -/
def BufLine.elem (y : BufLine) (pa e : Nat) : SrcElem :=
  ⟨(y.bytes.drop (pa % 64)).take e, (firstPoison y.poison pa e).map (8 * ·), some y⟩

/-- A global source element as memory has it: through a line of the core's read buffer (R264), or for a marked slot at its home
(R223). -/
def State.globalElem (s : State) (core pa e : Nat) : SrcElem × State :=
  let line := pa / 64
  let (l, s1) := s.levelRead .home 0 (64 * line) 64
  let x := BufLine.elem ⟨core, line, l, s1.mem.poison.filter (fun w => decide (w / 8 = line))⟩ pa e
  (if line ∈ s.mem.marks then
    { x with line := none, bytes := if e = 4 ∧ pa % 64 = 0 then leBytes 4 (rfValue (leNat l)) else x.bytes }
  else x, s1)

/-- A source element in SRAM as it is: its reads are not buffered (R264). -/
def State.sramElem (s : State) (ps : List Piece) : SrcElem := ⟨(s.homePieces ps).1, s.homePoison ps, none⟩

/-- A packet under way: the state, the states before each of its writes, its error, the updates it holds, the headworks core that
runs it, and the flume and position that order its updates if it is a SEQ packet. -/
structure CopyRun where
  s : State
  past : List State
  err : Nat
  held : List HeldUpdate
  core : Nat
  seq : Option (Nat × Nat)
deriving DecidableEq, Repr

/-- Lines of a headworks core's read buffer: 32 KiB (R264). -/
def bufLines : Nat := 512

/-- The line that a headworks core's buffer holds. -/
def Mem.bufLine (m : Mem) (core line : Nat) : Option BufLine := m.hwbuf.find? (fun x => decide (x.core = core ∧ x.line = line))

/-- A line enters a headworks core's buffer, in place of an older version; the oldest line leaves a full one (R264). -/
def Mem.putBuf (m : Mem) (y : BufLine) : Mem :=
  let mine := m.hwbuf.filter (fun x => decide (x.core = y.core ∧ x.line ≠ y.line))
  { m with hwbuf := y :: mine.take (bufLines - 1) ++ m.hwbuf.filter (fun x => decide (x.core ≠ y.core)) }

/-- The acquire of a headworks core invalidates its read buffer (R265). -/
def Mem.clearBuf (m : Mem) (core : Nat) : Mem := { m with hwbuf := m.hwbuf.filter (fun x => decide (x.core ≠ core)) }

/-- A source element taken: its line enters the buffer; a poisoned word ends the packet with code 0x05, hit or fill (R261,
R315). -/
def CopyRun.take (r : CopyRun) (ctx : Nat) (x : SrcElem × State) : List Byte × CopyRun :=
  let s1 := x.1.line.elim x.2 (fun y => x.2.modMem (fun m => m.putBuf y))
  match x.1.bad with
  | some w => ([], { r with s := s1.packetPoison (headworksMaster r.core) ctx w, err := 5 })
  | none => (x.1.bytes, { r with s := s1 })

/-- A source element (R262, R264). Global bytes come through the read buffer: a line that it holds is used, unless the buffer has
evicted it. Each element that the packet has itself written is found as it is or as it stood before any of those writes. -/
def CopyRun.read (r : CopyRun) (ctx a e : Nat) : List Byte × CopyRun :=
  match r.s.engineAccess 0 ctx true .read a e with
  | (.error f, s1) => ([], { r with s := s1, err := f.errCode })
  | (.ok [⟨_, .global pa _ _, _⟩], s1) =>
    if s1.dev.paKind pa ≠ .hbm then
      let (bs, s2) := s1.externalRead pa e
      (bs, { r with s := s2 })
    else
      let (now, s2) := s1.globalElem r.core pa e
      let kept := if now.line.isSome then (s1.mem.bufLine r.core (pa / 64)).toList.map (fun y => y.elem pa e) else []
      r.take ctx (s2.oneElem now (kept ++ r.past.map (fun t => (t.globalElem r.core pa e).1)))
  | (.ok ps, s1) => r.take ctx (s1.oneElem (s1.sramElem ps) (r.past.map (fun t => t.sramElem ps)))

/-! ## SEQ updates (R267) -/

/-- Where an update is put in order: the home block, or the word of the scratchpad, whose banks the spec does not lay out (R267,
log 97); nothing where it cannot be made. -/
def State.updateKeys (s : State) (ctx op a e : Nat) : List (Nat × Nat) :=
  match (s.engineAccess 0 ctx true (if op = 0 then .write else .rmw) a e).1 with
  | .error _ => []
  | .ok ps => ps.map (fun x => match x.loc with
    | .global pa _ _ => (0, blockOf pa)
    | .sram c off => (c + 1, off / 8))

/-- The destination address of element `i` of a packet, dimension 0 fastest (R262). -/
def CopyPkt.dstAt (p : CopyPkt) (i : Nat) : Nat :=
  lowBits 64 (p.dst + i % p.n0 * p.size + i / p.n0 % p.n1 * p.ds1 + i / (p.n0 * p.n1) * p.ds2)

/-- Whether a packet that has not run will update a place. -/
def State.willUpdate (s : State) (q : Packet) (k : Nat × Nat) : Bool :=
  let c := CopyPkt.ofNat q.data.toNat
  c.fault.isNone && (List.range c.count).any (fun i => decide (k ∈ s.updateKeys q.ctx c.op (c.dstAt i) c.size))

/-- Whether an update of the SEQ packet at a position must wait: an earlier SEQ packet of its flume has yet to make an update to
the same bank or home block (R267). -/
def State.seqBlocked (s : State) (fcb pos ctx op a e : Nat) : Bool :=
  let ks := s.updateKeys ctx op a e
  s.packets.any (fun q => decide (q.fcb = fcb ∧ q.pos < pos) && !q.collective && (CopyPkt.ofNat q.data.toNat).seq &&
    (if q.phase = .dequeued ∨ q.phase = .held then ks.any (s.willUpdate q)
     else q.updates.any (fun u => (s.updateKeys q.ctx (CopyPkt.ofNat q.data.toNat).op u.addr.toNat u.bytes.length).any
       (fun k => decide (k ∈ ks)))))

/-- The update of one destination element: applied, or held for its turn, behind any update of its own packet that is held
(R267). -/
def CopyRun.write (r : CopyRun) (ctx op a : Nat) (x : List Byte) : CopyRun :=
  if r.seq.any (fun q => r.s.seqBlocked q.1 q.2 ctx op a x.length) then
    match r.s.engineAccess 0 ctx true (if op = 0 then .write else .rmw) a x.length with
    | (.error f, s1) => { r with s := s1, err := f.errCode }
    | (.ok _, s1) => { r with s := s1, held := r.held ++ [⟨BitVec.ofNat 64 a, x⟩] }
  else
    let (err, s1) := r.s.copyUpdate (headworksMaster r.core) ctx op a x
    { r with s := s1, past := r.s :: r.past, err := err }

/-- Element `i` of a packet, dimension 0 fastest (R262). -/
def CopyRun.elem (r : CopyRun) (p : CopyPkt) (ctx : Nat) (i : Nat) : CopyRun :=
  if r.err ≠ 0 then r
  else
    let e := p.size
    let i0 := i % p.n0
    let i1 := i / p.n0 % p.n1
    let i2 := i / (p.n0 * p.n1)
    if i0 < p.c0 ∧ i1 < p.c1 ∧ i2 < p.c2 then
      let (x, r1) := r.read ctx (lowBits 64 (p.src + i0 * (if p.trans then 32 else e) + i1 * p.ss1 + i2 * p.ss2)) e
      if r1.err ≠ 0 then r1 else r1.write ctx p.op (p.dstAt i) x
    else r.write ctx p.op (p.dstAt i) (((List.range 4).flatMap (fun _ => leBytes 2 p.fill)).take e)

/-- The elements from `i` on. -/
def CopyRun.go (p : CopyPkt) (ctx : Nat) : Nat → Nat → CopyRun → CopyRun
  | 0, _, r => r
  | n + 1, i, r => CopyRun.go p ctx n (i + 1) (r.elem p ctx i)

/-! ## A packet's steps (R258, R262 to R268) -/

/-- A packet by its number. -/
def State.packet (s : State) (id : Nat) : Option Packet := s.packets.find? (fun p => decide (p.id = id))

/-- A packet changed. -/
def State.setPacket (s : State) (p : Packet) : State :=
  { s with packets := s.packets.map (fun q => if q.id = p.id then p else q) }

/-- Whether the flume of a table entry is held by a frozen headworks core (R323). -/
def State.serviceHeld (s : State) (fcb base : Nat) : Bool :=
  s.frozenMasters.any (fun m => match m.req with
    | .service f b _ => decide (f = fcb ∧ b = base)
    | _ => false)

/-- A control block that its table's engines serve: its OWNER is resident and running (R258, R328). -/
def State.servable (s : State) (f : Fcb) (base : Nat) : Bool :=
  decide (f.home = base + 16 ∧ f.esz = 3 ∧ 3 ≤ f.scope ∧ f.scope ≤ 5) &&
    (match s.ctxOf f.owner with | some x => decide (x.rstate = 1) | none => false)

/-- A master other than a thread slot freezes, its refused request held (R323). -/
def State.freezeMaster (s : State) (m : Master) (id : Nat) (req : HeldReq) (ctx addr cause x1 : Nat) : State :=
  ({ s with frozenMasters := ⟨m, req, []⟩ :: s.frozenMasters }).errRecord
    { kind := 0x05, ctx := ctx, addr := addr, master := id, x0 := cause, x1 := x1 }

/-- A packet is dequeued from a registered flume, its OWNER checked first (R258, R323). -/
def State.dequeuePacket (s : State) (base entry fcb : Nat) (coll : Bool) : State :=
  let f := s.fcbRead fcb
  let owner := getK f.owner fcb s.copyOwners
  let s1 := { s with copyOwners := setK fcb owner s.copyOwners }
  let n := s1.servingCore base fcb
  if f.owner ≠ owner then s1.freezeMaster (.headworks n) (headworksMaster n) (.service fcb base entry) f.owner fcb 3 0
  else if !s1.servable f base then s
  else
    match s1.fcbOpen (base + 16) fcb owner (some 3) with
    | (.error _, s2) => s2
    | (.ok g, s2) =>
      match s2.flumeDeq (base + 16) fcb g with
      | (.done e, s3) =>
        let (id, s4) := s3.fresh
        { s4 with packets := s4.packets ++
          [⟨id, fcb, owner, base, n, g.head, BitVec.ofNat 512 (packWords e), .dequeued, 0, [], coll⟩] }
      | (_, s3) => s3
where
  /-- Words put together, the first lowest. -/
  packWords : List Word → Nat
    | [] => 0
    | w :: r => w.toNat + 2 ^ 64 * packWords r

/-- Whether a registered flume has work for its engines: a packet, or a control block that its next operation finds wrong (R229,
R258, R323). -/
def State.offersWork (s : State) (base fcb : Nat) : Bool :=
  let f := s.fcbRead fcb
  !s.serviceHeld fcb base && (decide (f.owner ≠ getK f.owner fcb s.copyOwners) ||
    (s.servable f base && !f.broken && (decide (f.head < f.tail) || (f.adopt && (s.fcbFault f).isSome))))

/-- The entry of a base die's table that is served next: the first, from the one after the last that was served on, whose flume
has work (R258). -/
def State.nextEntry (s : State) (base : Nat) : Option Nat :=
  ((List.range 256).map (fun i => (getK 0 base s.copyPtr + i) % 256)).find? (fun k => match s.cftEntry base k with
    | some (fcb, _) => s.offersWork base fcb
    | none => false)

/-- COPY_PACKET_DEQUEUE (R258): the engines of a base die take the head of the flume that a table entry registers, when the entry
is next in their round. -/
def execCopyPacketDequeue (baseDie entry : Nat) (s : State) : Out :=
  if entry < 256 ∧ baseDie ∈ s.dev.stacksUp ∧ s.nextEntry baseDie = some entry then
    match s.cftEntry baseDie entry with
    | some (fcb, coll) =>
      let s1 := s.dequeuePacket baseDie entry fcb coll
      .next { s1 with copyPtr := setK baseDie ((entry + 1) % 256) s1.copyPtr }
    | none => .next s
  else .next s

/-- A packet that a headworks core is running: none while that core is frozen, for the packet stays held (R323). -/
def State.livePacket (s : State) (id : Nat) : Option Packet :=
  match s.packet id with
  | some p => if !p.collective && s.coreFrozen p.core then none else some p
  | none => none

/-- COPY_PACKET_NOT_BEFORE (R263): a packet that was held aside may start. -/
def execCopyPacketNotBefore (id : Nat) (s : State) : Out :=
  match s.livePacket id with
  | some p =>
    if p.phase = .held && s.dev.nbReached (PktEnd.ofNat p.data.toNat).nb then .next (s.setPacket { p with phase := .dequeued })
    else .next s
  | none => .next s

/-- A packet's elements, its checks passed and its time reached, all of them in one step (R262, R265, log 112). -/
def State.runPacket (s : State) (p : Packet) (c : CopyPkt) : State :=
  let s1 := if c.acq then s.modMem (fun m => m.clearBuf p.core) else s
  let r := CopyRun.go c p.ctx c.count 0 ⟨s1, [], 0, [], p.core, if c.seq then some (p.fcb, p.pos) else none⟩
  r.s.setPacket { p with phase := .executed, err := r.err, updates := r.held }

/-- COPY_PACKET_EXECUTE (R261, R262): a packet fails its checks, is held aside for its time, or is carried out. -/
def execCopyPacketExecute (id : Nat) (s : State) : Out :=
  match s.livePacket id with
  | some p =>
    if p.phase = .dequeued && !p.collective then
      let c := CopyPkt.ofNat p.data.toNat
      match c.fault with
      | some err => .next (s.setPacket { p with phase := .executed, err := err })
      | none =>
        if s.dev.nbReached (PktEnd.ofNat p.data.toNat).nb then .next (s.runPacket p c)
        else .next (s.setPacket { p with phase := .held })
    else .next s
  | none => .next s

/-- HELD_SEQ_UPDATE (R267): the first held update of a packet whose turn has come. -/
def execHeldSeqUpdate (id : Nat) (s : State) : Out :=
  match s.livePacket id with
  | some p =>
    let op := (CopyPkt.ofNat p.data.toNat).op
    match p.updates.find? (fun u => !s.seqBlocked p.fcb p.pos p.ctx op u.addr.toNat u.bytes.length) with
    | some u =>
      let (err, s1) := s.copyUpdate (headworksMaster p.core) p.ctx op u.addr.toNat u.bytes
      .next (s1.setPacket (if err = 0 then { p with updates := p.updates.erase u }
        else { p with updates := [], err := if p.err = 0 then err else p.err }))
    | none => .next s
  | none => .next s

/-- A packet's token event, if its token is in the state that the event expects (R268). -/
def State.tokenEvent (s : State) (p : Packet) (was v : Nat) : State :=
  let e := PktEnd.ofNat p.data.toNat
  if e.tv ∧ s.threadTok p.ctx e.rix e.tok = was then s.setThreadTok p.ctx e.rix e.tok v else s

/-- SRC_EVENT (R262, R268). -/
def execSrcEvent (id : Nat) (s : State) : Out :=
  match s.livePacket id with
  | some p => if p.phase = .executed then .next ((s.setPacket { p with phase := .srcDone }).tokenEvent p 1 2) else .next s
  | none => .next s

/-- The byte count of a collective packet (R363). -/
def collSize (fmt : Nat) : Nat := match fmt with | 1 | 5 => 8 | 3 | 4 => 2 | _ => 4

/-- The count that a packet subtracts from its basin word (R260, R363). -/
def Packet.byteCount (p : Packet) : Nat :=
  let x := p.data.toNat
  if p.collective then bits x 128 32 * collSize (bits x 160 3) % 2 ^ 32
  else (CopyPkt.ofNat x).count * (CopyPkt.ofNat x).size % 2 ^ 32

/-- A packet's completion: the VIS event, the basin update, the decrement of its successor (R262, R266, R276). -/
def State.finishPacket (s : State) (p : Packet) : State :=
  let e := PktEnd.ofNat p.data.toNat
  let s1 := ({ s with packets := s.packets.filter (fun q => decide (q.id ≠ p.id)) }).tokenEvent p 2 3
  let master := headworksMaster p.core
  let s2 := if e.basin = 0 then s1 else s1.basinUpdate p.ctx e.basin p.byteCount p.err true master
  if e.sv then { s2 with decrements := s2.decrements ++ [⟨p.ctx, e.succ, BitVec.ofNat 64 e.basin, false, master⟩] } else s2

/-- VIS_EVENT (R262, R266): every update of the packet is applied by then; its writes stand at their homes. -/
def execVisEvent (id : Nat) (s : State) : Out :=
  match s.livePacket id with
  | some p => if p.phase = .srcDone ∧ p.updates = [] then .next (s.finishPacket p) else .next s
  | none => .next s

end Sys2Proof.Machine
end

