-- ==== Sys2Proof/Machine/LaunchOps.lean ====
section
/-! DEFINITION. LaunchOps: the launch instructions, the schedulers' own steps, and SRNG (R273 to R279, R302, R303, R313,
R335). -/

namespace Sys2Proof.Machine
open Sys2Proof

/-! ## Launch instructions (R274, R276, R279, R302, R303) -/

/-- The record index that a name holds, when it is one of the pool's (R302). -/
def State.launchIndex (s : State) (n : Name) : Option Nat :=
  if 0 ≤ s.val n ∧ s.val n ≤ 16383 then some (s.val n).toNat else none

/-- Carries a request on record `j` to its die's scheduler: it waits while no scheduler core of the die lives (R335). -/
def State.atScheduler (s : State) (j : Nat) (k : State → Out) : Out :=
  if s.dev.recordDie j ∈ s.dev.deadSched then s.again else k s

/-- A launch instruction answers accepted or refused in Z (R302). -/
def State.answerZ (s : State) (look : Nat) (reads : List Name) (z : Bool) : Out :=
  s.finishLong look reads { Pending.none with flags := FlagWrite.onlyZ z }

/-- What LPATCH writes into a record in state 0; none where the value is out of range (R303). -/
def State.patched (s : State) (ctx j item : Nat) (b : Name) : Option State :=
  if item < 8 then some (s.putLaunch ctx j (0x40 + 8 * item) (s.ext b))
  else if item = 12 then
    let x := (s.thr.vreg (Fin.ofNat 32 b.val)).data.toNat
    some ((List.range 8).foldl (fun s i => s.putLaunch ctx j (0x40 + 8 * i) (bits x (64 * i) 64)) s)
  else if 0 ≤ s.val b ∧ s.val b ≤ 65535 then some (s.setLaunch ctx j 0x10 (16 * (item - 8)) 16 (s.val b).toNat)
  else none

/-- LPATCH of item 12 names a vector register (R303). -/
def lpatchIllegal (item : Fin 13) (b : Name) : Bool := decide (item = 12 ∧ 32 ≤ b.val)

/-- What LPATCH uses (R303). -/
def lpatchUse (d : Name) (item : Fin 13) (b : Name) : Use :=
  if item = 12 then { reads := ints [d], vreads := [Fin.ofNat 32 b.val] } else { reads := ints [d, b] }

/-- LPATCH (R279, R303): field `item` of the record that d names. -/
def execLpatch (d : Name) (item : Fin 13) (b : Name) (look : Look) (s : State) : Out :=
  if lpatchIllegal item b then s.trap illegal
  else
    let u := lpatchUse d item b
    s.guarded u (fun s =>
      match s.launchIndex d with
      | none => s.answerZ look.val u.names false
      | some j => s.atScheduler j (fun s =>
        if s.launchState s.thr.ctx j ≠ 0 then s.answerZ look.val u.names false
        else match s.patched s.thr.ctx j item.val b with
          | none => s.answerZ look.val u.names false
          | some s1 => s1.answerZ look.val u.names true))

/-- LARM and LFIRE: a release at dev scope, then the record's change in state 0 (R276, R302). -/
def State.armLaunch (s : State) (d : Name) (look : Look) (f : State → Nat → List Decr × State) : Out :=
  s.guarded { reads := ints [d] } (fun s =>
    match s.launchIndex d with
    | none => s.answerZ look.val [d] false
    | some j => s.atScheduler j (fun s =>
      let s1 := s.release s.cur.1 .dev
      if s1.launchState s1.thr.ctx j ≠ 0 then s1.answerZ look.val [d] false
      else (State.settleLaunch (f s1 j) s1.thr.ctx).answerZ look.val [d] true))

/-- LARM (R276): the record waits for its predecessors, or triggers at once. -/
def execLarm (d : Name) (look : Look) (s : State) : Out :=
  s.armLaunch d look (fun s j =>
    let s1 := s.setLaunchState s.thr.ctx j 1
    if s1.launchField s1.thr.ctx j 0x10 48 16 = 0 then s1.launchTrigger s1.thr.ctx j else ([], s1))

/-- LFIRE (R276): the record triggers whatever its predecessors. -/
def execLfire (d : Name) (look : Look) (s : State) : Out :=
  s.armLaunch d look (fun s j => (s.setLaunch s.thr.ctx j 0x10 48 16 0).launchTrigger s.thr.ctx j)

/-- LSTAT (R279, R302): the record's word at 0x38. -/
def execLstat (d a : Name) (look : Look) (s : State) : Out :=
  s.guarded (use2 d a) (fun s =>
    match s.launchIndex a with
    | none => s.narrowLong look.val [a] d (-1)
    | some j => s.atScheduler j (fun s => s.narrowLong look.val [a] d (s.launchWord s.thr.ctx j 0x38 : Nat)))

/-! ## The schedulers' steps (R276, R278, R335) -/

/-- LAUNCH_DECREMENT (R276): a decrement on its way reaches its record. -/
def execLaunchDecrement (k : Nat) (s : State) : Out :=
  match s.decrements[k]? with
  | none => .next s
  | some d =>
    if s.dev.recordDie d.j ∈ s.dev.deadSched then .next s
    else .next (({ s with decrements := s.decrements.eraseIdx k }).decrementAll d.ctx decrementBound
      [⟨d.j, ⟨d.basin.toNat, d.sys, d.master⟩⟩])

/-- NBT_REACHED (R276): a TIMED record whose time has come. -/
def execNbtReached (ctx j : Nat) (s : State) : Out :=
  if s.launchState ctx j = 2 ∧ s.launchWord ctx j 0x28 ≤ s.dev.timebase.toNat ∧ j < 16384 ∧ (s.ctxOf ctx).isSome ∧
      s.dev.recordDie j ∉ s.dev.deadSched then .next (State.settleLaunch (s.launchMoment ctx j) ctx)
  else .next s

/-- LAUNCH_TAKE (R278): the launch at the head of a die's PENDING ones, if its threads' records are free. -/
def execLaunchTake (die : Nat) (s : State) : Out :=
  if die ∈ s.dev.deadSched then .next s
  else match s.launchHead die with
    | some p => .next (if s.poolFits p.ctx (s.launchSize p.ctx p.j) then s.takeLaunch p else s)
    | none => .next s

/-- SCHEDULER_TAKE_OVER (R335): the standby core serves the die; the record's journal position is free (log 5). -/
def execSchedulerTakeOver (die : Nat) (s : State) : Out :=
  if die ∈ s.dev.diesUp ∧ die ∉ s.dev.takenOver then
    let (pos, s1) := s.choose (2 ^ 64)
    .next ((s1.modDev (fun d => { d with takenOver := insertN die d.takenOver })).errRecord
      { kind := 0x09, master := s.dev.schedMaster die, x0 := die, x1 := pos })
  else .next s

/-- STANDBY_SCHEDULER_FAILURE (R335): the die's records stay as they are until the die is reset. -/
def execStandbySchedulerFailure (die : Nat) (s : State) : Out :=
  if die ∈ s.dev.takenOver then .next (s.modDev (fun d => { d with deadSched := insertN die d.deadSched }))
  else .next s

/-! ## SRNG (R59, R313) -/

/-- Whether SRNG refuses its mode or its buffer. -/
def State.srngRefused (s : State) (a : Name) (md : Nat) : Bool :=
  decide (md = 3) || (decide (a ≠ 63) && (decide (ptrTag (s.ext a) ≠ 0) || ptrMbz (s.ext a) || decide (s.ext a % 4096 ≠ 0)))

/-- SRNG (R313): earlier draws were made when their instructions issued, so nothing is waited for. -/
def execSrng (d a : Name) (md : Fin 4) (s : State) : Out :=
  s.guarded (use2 d a) (fun s =>
    let old := s.thr.srngc
    let refused := s.srngRefused a md.val
    let base := if a = 63 then old.base else BitVec.ofNat 45 (s.ext a / 4096)
    let s1 := if refused then s else s.modThr (fun t => { t with srngc := ⟨base, false, false, false, BitVec.ofNat 2 md.val⟩ })
    s1.narrowAfter [a] d (old.word : Nat) (fun f => f.withZ (!refused)))

end Sys2Proof.Machine
end

