-- ==== Sys2Proof/Machine/Fabric.lean ====
section
/-! DEFINITION. Fabric: offtakes and their statuses, requests at the ports, collectives, time (R323, R352 to R374). -/

namespace Sys2Proof.Machine
open Sys2Proof

/-! ## Numbers and routes (R352) -/

/-- This device's fabric number; 4,095 while none is assigned (R352, R385). -/
def Device.fabnum (d : Device) : Nat := bits (d.reg 0x10) 0 12

/-- Whether a destination number is this device (R357). -/
def Device.isSelf (d : Device) (num : Nat) : Bool := decide (num = 4095 ∨ num = d.fabnum)

/-- Whether an aqueduct port carries traffic (R352, R379). -/
def Device.portUp (d : Device) (p : Nat) : Bool := decide (p < 12 ∧ p ∉ d.linksDown) && !d.minimal

/-- A master that is frozen (R323). -/
def State.frozenMaster (s : State) (m : Master) : Option FrozenMaster := s.frozenMasters.find? (fun x => decide (x.master = m))

/-- The identity of an aqueduct port (R322). -/
def portMaster (p : Nat) : Nat := 256 * p + 3

/-! ## Sending offtakes (R357, R360, R369, R370) -/

/-- An offtake packet's PRIO. -/
def packetPrio (p : List Word) : Nat := bits (p.getD 0 0).toNat 24 2

/-- An offtake packet's DEV. -/
def packetDev (p : List Word) : Nat := bits (p.getD 0 0).toNat 0 12

/-- The packet of RINV and RINVW: descriptor, SCTX and SDEV, capability, arguments (R357, R369). -/
def State.offtakePacket (s : State) (a : Name) (b : VReg) : List Word :=
  let w0 := s.ext a % 2 ^ 26 + s.thr.ctx % 4096 * 2 ^ 26 + s.dev.fabnum * 2 ^ 38
  let x := (s.thr.vreg b).data.toNat
  ([w0, s.ext (nextName a)] ++ (List.range 6).map (fun i => bits x (64 * i) 64)).map (BitVec.ofNat 64)

/-- Whether a packet cannot leave: no route to its device, or this device has no number (R360). -/
def Device.unreachable (d : Device) (dev : Nat) : Bool :=
  !d.isSelf dev && (decide (d.fabnum = 4095) || (d.route dev).isNone)

/-- The release before an offtake (R369). -/
def State.releaseOfftake (s : State) (p : List Word) : State :=
  s.release s.cur.1 (if s.dev.isSelf (packetDev p) then .dev else .fab)

/-- A packet on its way; its number. -/
def State.sendOfftake (s : State) (who : Party) (p : List Word) : Nat × State :=
  let (id, s1) := s.fresh
  (id, { s1 with offtakes := s1.offtakes ++ [⟨id, who, packetDev p, p⟩] })

/-- What RINV uses (R369). -/
def rinvUse (d a : Name) (b : VReg) (more : List Name) : Use :=
  { reads := ints ([a, nextName a] ++ more), writes := ints [d], vreads := [b] }

/-- RINV (R369): sends one packet; its status comes back later. -/
def execRinv (d a : Name) (b : VReg) (look : Look) (s : State) : Out :=
  if 61 < a.val then s.trap illegal
  else
    s.guarded (rinvUse d a b []) (fun s =>
      let reads := [a, nextName a]
      if bits (s.ext a) 26 38 ≠ 0 then s.narrowLongAfter look.val reads d 2
      else
        let p := s.offtakePacket a b
        let s1 := s.releaseOfftake p
        if s1.dev.unreachable (packetDev p) then s1.narrowLongAfter look.val reads d 3
        else
          let (id, s2) := s1.sendOfftake s1.me p
          if s2.statusInWindow d look then
            ((s2.consume reads).openWindow look.val (awaited d) (.offtake id d)).done
          else .next (s2.park reads (.offtake id d)))

/-- WAIT_EXPIRED of a RINVW (R370). -/
def rinvwExpired (r : Retry) : Trap := mkTrap .waitExpired 0 (bits (r.packet.getD 0 0).toNat 0 26) r.attempts

/-- RINVW (R370): as RINV, and again while the flume over there is full. -/
def execRinvw (d a : Name) (b : VReg) (s : State) : Out :=
  if 60 < a.val then s.trap illegal
  else
    let l := nextName (nextName a)
    s.guarded (rinvUse d a b [l]) (fun s =>
      let reads := [a, nextName a, l]
      if bits (s.ext a) 26 38 ≠ 0 then s.narrowAfter reads d 2 id
      else
        let p := s.offtakePacket a b
        let s1 := s.releaseOfftake p
        if s1.dev.unreachable (packetDev p) then s1.narrowAfter reads d 3 id
        else
          let retry : Retry := ⟨1, decide (s1.val l ≤ 0), p⟩
          let (id, s2) := s1.sendOfftake s1.me p
          .next ((s2.modThr (fun t => { t with retry := some retry })).park reads (.offtake id d)))

/-- A status completes an instruction that waits for it, or begins the pause of a RINVW (R369, R370). -/
def State.statusAt (s : State) (who : Party) (t : Thread) (d : Name) (code : Nat) : State :=
  match t.retry with
  | some r =>
    if code = 1 then
      if r.expired then s.wakeParty who none (fun t => { t with retry := none, pendTrap := some (rinvwExpired r) })
      else s.modSlotParty who (fun t => { t with wait := some (.retry d) })
    else (s.pushReceived who d (fun _ => code)).completeParty who none (fun t => { Thread.receive d code true t with retry := none })
  | none => (s.pushReceived who d (fun _ => code)).completeParty who none (Thread.receive d code true)

/-- The status of an offtake returns to its sender (R360, R369). -/
def State.answerOfftake (s : State) (id code : Nat) : State :=
  match s.offtakes.find? (fun o => decide (o.id = id)) with
  | none => s
  | some o =>
    let s1 := { s with offtakes := s.offtakes.filter (fun o => decide (o.id ≠ id)) }
    match o.who with
    | .slot c i =>
      match s1.threadAt c i with
      | some t =>
        match t.wait with
        | some (.offtake j d) => if j = id then s1.statusAt o.who t d code else s1.modThread c i (fun t => t.fillStatus id code)
        | _ => s1.modThread c i (fun t => t.fillStatus id code)
      | none => s1
    | _ => s1

/-- OFFTAKE_STATUS_TIMEOUT (R360): no status came back within 1 ms. -/
def execOfftakeStatusTimeout (id : Nat) (s : State) : Out := .next (s.answerOfftake id 3)

/-- RINVW_RETRY (R370): after the pause a RINVW sends again, or its limit has passed. -/
def execRinvwRetry (core slot : Nat) (expired : Bool) (s : State) : Out :=
  match s.threadAt core slot with
  | some t =>
    match t.wait, t.retry with
    | some (.retry d), some r =>
      let who := Party.slot core slot
      if expired then .next (s.wakeParty who none (fun t => { t with retry := none, pendTrap := some (rinvwExpired r) }))
      else if s.dev.unreachable (packetDev r.packet) then
        .next (s.statusAt who { t with retry := some r } d 3)
      else
        let (id, s1) := s.sendOfftake who r.packet
        .next (s1.modThread core slot (fun t =>
          { t with wait := some (.offtake id d), retry := some { r with attempts := r.attempts + 1 } }))
    | _, _ => .next s
  | none => .next s

/-! ## Offtakes that arrive (R358 to R361) -/

/-- An entry of the handler table: its first word and its capability, if the table is there (R358, R385). -/
def State.handlerEntry (s : State) (hidx : Nat) : Option (Nat × Nat) :=
  let h := s.dev.reg 0x38
  if bit1 h 0 then
    let bs := s.mem.homePeek (bits h 16 32 * 65536 + 16 * hidx) 16
    some (leNat (bs.take 8), leNat (bs.drop 8))
  else none

/-- The control block of the invocation flume of a priority, if one is configured (R359, R385). -/
def State.invocationFlume (s : State) (prio : Nat) : Option Nat :=
  let r := s.dev.reg (0x40 + 8 * prio)
  if bit1 r 0 then some (bits r 6 42 * 64) else none

/-- A counter that saturates at 2^32 − 1 (R371). -/
def sat32 (n : Nat) : Nat := min n (2 ^ 32 - 1)

/-- The die for which a controller counts a party that stands on none: the I/O die (R351). -/
def outsideDie : Nat := 28

/-- A refused packet counts (R360, R371). -/
def State.countRefused (s : State) : State := s.modDev (fun d => { d with refused := sat32 (d.refused + 1) })

/-- The arrival of a packet: its status, and whether its capability was forged (R360). -/
def State.checkOfftake (s : State) (p : List Word) : Nat × Bool × State :=
  let refused (bad : Bool) (s : State) : Nat × Bool × State := (2, bad, s.countRefused)
  match s.handlerEntry (bits (p.getD 0 0).toNat 12 12) with
  | none => refused false s
  | some (e, cap) =>
    if !bit1 e 26 then refused false s
    else if (p.getD 1 0).toNat ≠ cap then refused true s
    else if s.launchState (bits e 14 12) (bits e 0 14) = 0 then refused false s
    else
      match s.invocationFlume (packetPrio p) with
      | none => refused false s
      | some pa =>
        match s.fcbOpen outsideDie pa (s.fcbRead pa).owner (some 3) with
        | (.error _, s1) => refused false s1
        | (.ok f, s1) =>
          match s1.flumeEnq outsideDie pa f p with
          | (.done _, s2) =>
            (0, false, { s2 with arrivedAt := s2.arrivedAt ++ [(packetPrio p, f.tail, s2.dev.timebase.toNat)] })
          | (_, s2) => (1, false, s2.modDev (fun d => { d with overflow := sat32 (d.overflow + 1) }))

/-- A request that comes to a frozen master is held behind those that came before it (R323, R360). -/
def State.holdRequest (s : State) (m : Master) (r : HeldReq) : State :=
  { s with frozenMasters := s.frozenMasters.map (fun x => if x.master = m then { x with later := x.later ++ [r] } else x) }

/-- A packet that came over an aqueduct port: refused at the link while this device has no number, held at a frozen port
(R323, R360, R385). -/
def State.portOfftake (s : State) (p : Nat) (a : Arrival) : State :=
  if !s.dev.portUp p || decide (s.dev.fabnum = 4095) || decide (packetDev a.packet ≠ s.dev.fabnum) then s
  else if (s.frozenMaster (.aqueduct p)).isSome then s.holdRequest (.aqueduct p) (.offtake a)
  else
    match s.checkOfftake a.packet with
    | (_, true, s1) => s1.freezeMaster (.aqueduct p) (portMaster p) .none (bits (a.packet.getD 0 0).toNat 26 12) 0 5 0
    | (_, false, s1) => s1

/-- An offtake of this device that may arrive: the first that left at its priority (R362). -/
def State.ownOfftake (s : State) (id : Nat) : Option Offtake :=
  match s.offtakes.find? (fun o => decide (o.id = id) && s.dev.isSelf o.dev) with
  | some o =>
    if s.offtakes.any (fun x => s.dev.isSelf x.dev && decide (x.id < o.id ∧ packetPrio x.packet = packetPrio o.packet)) then none
    else some o
  | none => none

/-- OFFTAKE_ARRIVAL (R360): over a port, or from this device itself. -/
def execOfftakeArrival (arr : Arrival) (s : State) : Out :=
  match arr.port with
  | some p => .next (s.portOfftake p arr)
  | none =>
    match s.ownOfftake arr.who with
    | some o =>
      let (code, _, s1) := s.checkOfftake o.packet
      .next (s1.answerOfftake o.id code)
    | none => .next s

/-- A head of an invocation flume: its priority, packet, control block, and the time since which it waits. -/
structure Head where
  prio : Nat
  packet : List Word
  fcb : Nat
  pos : Nat
  since : Nat
deriving DecidableEq, Repr

/-- The head of the invocation flume of a priority (R361); a broken flume has lost its elements (R229). -/
def State.invocationHead (s : State) (prio : Nat) : Option Head :=
  match s.invocationFlume prio with
  | none => none
  | some pa =>
    let f := s.fcbRead pa
    if f.head < f.tail ∧ !f.broken then
      let since := (s.arrivedAt.find? (fun x => decide (x.1 = prio ∧ x.2.1 = f.head))).elim 0 (fun x => x.2.2)
      some ⟨prio, s.getElem f f.head, pa, f.head, since⟩
    else none

/-- The context and launch record that a packet's handler entry names, while the entry is valid. -/
def State.packetRecord (s : State) (p : List Word) : Option (Nat × Nat) :=
  match s.handlerEntry (bits (p.getD 0 0).toNat 12 12) with
  | some (e, _) => if bit1 e 26 then some (bits e 14 12, bits e 0 14) else none
  | none => none

/-- Takes a head off its flume: whether the controller gave it (R229, R361). -/
def State.takeHead (s : State) (h : Head) : Bool × State :=
  match s.fcbOpen outsideDie h.fcb (s.fcbRead h.fcb).owner (some 3) with
  | (.error _, s1) => (false, s1)
  | (.ok f, s1) =>
    let (_, s2) := s1.flumeDeq outsideDie h.fcb f
    (true, { s2 with arrivedAt := s2.arrivedAt.filter (fun x => decide (¬(x.1 = h.prio ∧ x.2.1 = h.pos))) })

/-- The effective priority of a head (R361). -/
def State.effectivePrio (s : State) (h : Head) : Nat := min 3 (h.prio + (s.dev.timebase.toNat - h.since) / 1000000)

/-- Whether a head comes before another in the dispatcher's choice (R361). -/
def State.headBefore (s : State) (a b : Head) : Bool :=
  decide (s.effectivePrio b < s.effectivePrio a) ||
    (decide (s.effectivePrio a = s.effectivePrio b) && (decide (b.prio < a.prio) || (decide (a.prio = b.prio) && decide (a.since < b.since))))

/-- Whether a head's record is armed and its scheduler lives (R361, R335). -/
def State.eligible (s : State) (h : Head) : Bool :=
  match s.packetRecord h.packet with
  | some (ctx, j) => decide (s.launchState ctx j = 1 ∧ s.dev.recordDie j ∉ s.dev.deadSched)
  | none => false

/-- The dispatcher fires the record of a packet that it has taken (R361). -/
def State.fireOfftake (s : State) (p : List Word) (ctx j : Nat) : State :=
  let s1 := (s.putLaunch ctx j 0x40 (p.getD 0 0).toNat).putLaunch ctx j 0x48 0
  let s2 := (List.range 6).foldl (fun s i => s.putLaunch ctx j (0x50 + 8 * i) (p.getD (2 + i) 0).toNat) s1
  State.settleLaunch ((s2.setLaunch ctx j 0x10 48 16 0).launchTrigger ctx j) ctx

/-- OFFTAKE_DISPATCH (R361): heads whose entry has become invalid are discarded; then the best eligible head is taken. A head that
its controller does not give is neither counted nor fired. -/
def execOfftakeDispatch (s : State) : Out :=
  if 0 ∈ s.dev.deadSched then .next s
  else
    let heads := (List.range 4).filterMap s.invocationHead
    match heads.find? (fun h => (s.packetRecord h.packet).isNone) with
    | some h =>
      match s.takeHead h with
      | (true, s1) => .next s1.countRefused
      | (false, s1) => .next s1
    | none =>
      let best := (heads.filter s.eligible).foldl (fun b h => match b with
        | none => some h
        | some g => if s.headBefore h g then some h else some g) none
      match best with
      | some h =>
        match s.packetRecord h.packet with
        | some (ctx, j) =>
          match s.takeHead h with
          | (true, s1) => .next (s1.fireOfftake h.packet ctx j)
          | (false, s1) => .next s1
        | none => .next s
      | none => .next s

/-! ## Requests performed at a home for another party (R187, R223, R354, R356) -/

/-- Whether a request asks to change what it reaches (R355): every one but a read, a wait for a phase, LDFF, and the withdrawal of a
wait that a window has let in (log 114). -/
def busWrites : BusOp → Bool
  | .read | .bwait _ | .ldff | .withdraw => false
  | _ => true

/-- The bytes that a request reaches, all of which a window must hold (R355): as many as it carries, a group word, a reduction slot, or
one word (log 115). -/
def busLength (r : BusReq) : Nat :=
  match r.op with
  | .read | .write => r.bytes.length
  | .join _ | .leave | .arrive => 16
  | .rfadd _ => 64
  | _ => 8

/-- The value that an atomic or a reduction gives a word (R247, R248). -/
def busAtomic : BusOp → Option (Word → Word → Word)
  | .add => some (fun w b => w + b)
  | .min => some (fun w b => if w.toInt ≤ b.toInt then w else b)
  | .minu => some (fun w b => if w.toNat ≤ b.toNat then w else b)
  | .max => some (fun w b => if w.toInt ≤ b.toInt then b else w)
  | .maxu => some (fun w b => if w.toNat ≤ b.toNat then b else w)
  | .and => some (fun w b => w &&& b)
  | .or => some (fun w b => w ||| b)
  | .xor => some (fun w b => w ^^^ b)
  | .swap => some (fun _ b => b)
  | .cas old => some (fun w b => if w = old then b else w)
  | _ => none

/-- Splits bytes into runs that lie within one 64-byte line. -/
def lineRuns : Nat → Nat → List Byte → List (Nat × List Byte)
  | 0, _, _ => []
  | fuel + 1, a, bs =>
    if bs.isEmpty then [] else (a, bs.take (64 - a % 64)) :: lineRuns fuel (a + (64 - a % 64)) (bs.drop (64 - a % 64))

/-- Bytes written at their home by another party: a write that reaches a marked slot clears it (R223); one of the host port
leaves die L2 copies in place (R210, R354). -/
def State.busWrite (s : State) (pa : Nat) (bs : List Byte) (ctx : Nat) (host : Bool) : State :=
  (lineRuns (bs.length + 1) pa bs).foldl (fun s x =>
    if s.dev.paKind x.1 ≠ .hbm then s
    else if host && decide (x.1 / 64 ∉ s.mem.marks) then s.modMem (fun m => m.homeStore (bytesAt x.1 x.2))
    else s.homeStorePieces [⟨x.1, .global x.1 2 ctx, x.2.length⟩] x.2) s

/-- Bytes read at their home by another party. -/
def State.busRead (s : State) (pa : Nat) (bs : List Byte) : State :=
  (lineRuns (bs.length + 1) pa bs).foldl (fun s x => (s.levelRead .home 0 x.1 x.2.length).2) s

/-- The home's word replaced by another device's operation on it; one that finds it poisoned changes nothing (R315). -/
def State.homeUpdate (s : State) (pa n ctx : Nat) (f : Nat → Nat) : Nat × State :=
  let (b, s1) := s.levelRead .home 0 pa n
  let w := leNat b
  if (s1.homePoison [⟨pa, .global pa 2 ctx, n⟩]).isSome then (w, s1)
  else (w, s1.levelWrite .home 0 ctx (bytesAt pa (leBytes n (f w))))

/-- A group operation of another device's thread (R146 to R148, R356). -/
def State.busGroup (s : State) (r : BusReq) (f : GroupWord → GroupWord) (wait : Bool) : State :=
  let (w0, s1) := s.homeUpdate r.addr 16 r.rctx (fun w =>
    if (GroupWord.ofNat w).malformed then w else (f (GroupWord.ofNat w)).toNat)
  let g := GroupWord.ofNat w0
  if g.malformed then s1
  else if (f g).phase ≠ g.phase then s1.wakeGroup r.addr g.phase
  else if wait then { s1 with groupWaits := s1.groupWaits ++ [⟨r.addr, g.phase, g.scope, .remote r.who⟩] }
  else s1

/-- A basin operation of another device's thread on a legal word (R271, R272, R356). -/
def State.busBasin (s : State) (r : BusReq) (f : Basin → State → State) : State :=
  let (bs, s1) := s.levelRead .home 0 r.addr 8
  let b := Basin.ofNat (leNat bs)
  if b.legal then f b s1 else s1

/-- A full/empty operation of another device's thread (R245, R246, R354). -/
def State.busWord (s : State) (r : BusReq) (op : FeOp) (always : Bool) : State :=
  let w : FeWaiter := ⟨.global r.addr, .remote r.who, op, 63, 0, 0, 0⟩
  if always || op.ready (s.isFull (.global r.addr)) then (s.completeFe w).serveFe (.global r.addr) s.feWaits.length
  else { s with feWaits := s.feWaits ++ [w] }

/-- The record index under which a home keeps a party of another device: beyond those of this device's threads (R133, R356). -/
def remoteRec (who : Nat) : Nat := 2 ^ 23 + who

/-- LRW of another device's thread (R225, R356). -/
def State.busReserve (s : State) (r : BusReq) : State :=
  let h : ResHome := .base (s.dev.stackOf r.addr)
  let w : WordLoc := .global r.addr
  let room := decide (s.admitted h < 2048) && !s.resvs.any (fun e => decide (e.home = h) && !e.admitted)
  let e : ResEntry := ⟨h, w, .remote r.who, r.rctx, remoteRec r.who, room && (s.holder h w).isNone, room, .fab, 63, 0⟩
  if s.holds h w r.rctx (remoteRec r.who) then s else { s with resvs := s.resvs ++ [e] }

/-- SCH or LRX of another device's thread: a holder stores as a store does (R223), or not, and hands the word on (R226, R356); a word
that is poisoned stops the SCH (R315, log 130). -/
def State.busRelease (s : State) (r : BusReq) (store : Bool) : State :=
  let h : ResHome := .base (s.dev.stackOf r.addr)
  match s.holder h (.global r.addr) with
  | some e =>
    if e.ctx = r.rctx ∧ e.recIx = remoteRec r.who then
      if !store then s.handOn e
      else if (s.wordPoison (.global r.addr) 0).isSome then s
      else (s.levelStore .home 0 r.rctx r.addr (leBytes 8 (leNat r.bytes))).handOn e
    else s
  | none => s

/-- A thread of another device leaves its wait at a word, as a local one does (R328, R356, log 114): its arrival is taken back, and it
leaves the word's list and its queue. -/
def State.busWithdraw (s : State) (r : BusReq) : State :=
  let p := Party.remote r.who
  let s1 := match s.groupWaits.find? (fun x => decide (x.pa = r.addr ∧ x.who = p)) with
    | some x => (State.homeUpdate { s with groupWaits := s.groupWaits.erase x } r.addr 16 r.rctx (fun w =>
        (GroupWord.ofNat w).unarrived.toNat)).2
    | none => s
  let w : WordLoc := .global r.addr
  { s1 with
    feWaits := s1.feWaits.filter (fun x => decide (¬(x.who = p ∧ x.loc = w)))
    basinWaits := s1.basinWaits.filter (fun x => decide (¬(x.who = p ∧ x.pa = r.addr)))
    resvs := s1.resvs.filter (fun e => !(decide (e.who = p ∧ e.loc = w) && !e.granted)) }

/-- The float kind of a contribution (R249). -/
def contribution (k : Fin 3) (x : Nat) : FVal :=
  if k = 0 then Fmt.b32.value (x % 2 ^ 32) else if k = 1 then Fmt.b16.value (x % 2 ^ 16) else Fmt.bf16.value (x % 2 ^ 16)

/-- What a request does at the home that it reaches; an operation whose address is not aligned to its word does nothing there
(R354, R356, log 99). -/
def State.busPerform (s : State) (r : BusReq) (host : Bool) : State :=
  let x := leNat r.bytes % 2 ^ 64
  match r.op with
  | .read => s.busRead r.addr r.bytes
  | .write => s.busWrite r.addr r.bytes r.rctx host
  | op =>
    if s.dev.paKind r.addr ≠ .hbm ∨ r.addr % 8 ≠ 0 then s
    else
      match op with
      | .rfadd k =>
        if r.addr % 64 ≠ 0 then s
        else s.pushRf (RfPartial.add ⟨0, r.addr / 64, .fab, 0, 0, 0, false⟩ (contribution k x))
      | .join sc => if r.addr % 16 ≠ 0 then s else s.busGroup r (fun g => if g.joinRefused then g else (g.join sc).1) false
      | .leave => if r.addr % 16 ≠ 0 then s else s.busGroup r GroupWord.leave false
      | .arrive => if r.addr % 16 ≠ 0 then s else s.busGroup r GroupWord.arrive true
      | .barm => s.busBasin r (fun b s => s.putBasin r.addr b (b.update (lowBits 32 (-(x : Int))) 0))
      | .bclr => s.busBasin r (fun b s => s.putBasin r.addr b { b with err := 0, multi := false, under := false })
      | .bwait ph => s.busBasin r (fun b s =>
          if b.phase = ph % 65536 then { s with basinWaits := s.basinWaits ++ [⟨r.addr, b.scope, 63, .remote r.who⟩] } else s)
      | .ldff => s.busWord r .ldff false
      | .lde => s.busWord r .lde false
      | .stf => s.busWord r (.stf (BitVec.ofNat 64 x)) false
      | .stff => s.busWord r (.stf (BitVec.ofNat 64 x)) true
      | .fempty => s.changeFull (.global r.addr) false
      | .fefill => s.changeFull (.global r.addr) true
      | .reserve => s.busReserve r
      | .conditional => s.busRelease r true
      | .exclusiveEnd => s.busRelease r false
      | .withdraw => s.busWithdraw r
      | op =>
        match busAtomic op with
        | some f => (s.homeUpdate r.addr 8 r.rctx (fun w => (f (BitVec.ofNat 64 w) (BitVec.ofNat 64 x)).toNat)).2
        | none => s

/-! ## Flume requests of other parties (R228 to R231, R258, R356) -/

/-- The size code of an element of so many words, if there is one. -/
def sizeCode (n : Nat) : Option Nat :=
  match n with
  | 1 => some 0
  | 2 => some 1
  | 4 => some 2
  | 8 => some 3
  | _ => none

/-- The wait entry of another party (R356). -/
def flumeWaiter (r : FlumeReq) (f : Fcb) (fcb : Nat) (enq : Bool) : FlumeWaiter :=
  ⟨fcb, f.ctl outsideDie, enq, .remote r.who, r.elem, 63, false, decide (r.form = .limited), none, 0, r.rctx⟩

/-- A control block of this device: aligned, in its memory (R227). -/
def State.localFcb (s : State) (fcb : Nat) : Bool := decide (fcb % 64 = 0) && decide (s.dev.paKind fcb = .hbm)

/-- An enqueue or a dequeue of another party at the controller, which compares OWNER with the context as which it acts and the
size code of its handle (R228, R230, R356); or the party's withdrawal from such a wait (R328, log 114). -/
def State.outsideFlume (s : State) (fcb : Nat) (enq : Bool) (r : FlumeReq) : State :=
  if !s.localFcb fcb then s
  else if r.form = .withdraw then
    ((s.flumeWaits.find? (fun w => decide (w.fcb = fcb ∧ w.enq = enq ∧ w.who = .remote r.who ∧ w.rctx = r.rctx))).map (fun w =>
      (s.flumeWithdraw w).2)).getD s
  else if enq && decide (sizeCode r.elem.length ≠ some r.size) then s
  else
    match s.fcbOpen outsideDie fcb r.rctx (some r.size) with
    | (.error _, s1) => s1
    | (.ok f, s1) =>
      match (if enq then s1.flumeEnq outsideDie fcb f r.elem else s1.flumeDeq outsideDie fcb f) with
      | (.wait, s2) => if r.form = .nowait then s2 else s2.flumeWait f (flumeWaiter r f fcb enq)
      | (_, s2) => s2

/-! ## Requests at the ports (R323, R355, R385) -/

/-- Whether bytes lie wholly inside a window whose registers stand at an offset, and the window allows the request (R355). -/
def Device.windowTakes (d : Device) (off addr n : Nat) (writes : Bool) : Bool :=
  let w0 := d.reg off
  let base := bits w0 16 32 * 65536
  let size := bits (d.reg (off + 8)) 16 32 * 65536
  bit1 w0 0 && (!writes || bit1 w0 1) && decide (base ≤ addr ∧ addr + n ≤ base + size)

/-- The context that a window admits, or as which its requests act (R355, R385). -/
def Device.windowCtx (d : Device) (off : Nat) : Nat := bits (d.reg (off + 16)) 0 12

/-- Whether an aqueduct port's windows take a request (R355). -/
def Device.portTakes (d : Device) (p addr n rctx : Nat) (writes : Bool) : Bool :=
  (List.range 16).any (fun w => d.windowTakes (0x400 + 32 * (16 * p + w)) addr n writes &&
    decide (d.windowCtx (0x400 + 32 * (16 * p + w)) = rctx))

/-- The context as which a host request acts: that of the first window that takes it (R323, R385). -/
def Device.hostCtx (d : Device) (addr n : Nat) (writes : Bool) : Option Nat :=
  ((List.range 16).find? (fun w => d.windowTakes (0x4000 + 32 * w) addr n writes)).map (fun w => d.windowCtx (0x4000 + 32 * w))

/-- A request at an aqueduct port (R323, R355, R379, R385): refused at the link, held while the port is frozen, performed where a
window takes it, or the reason of a freeze. -/
def State.atPort (s : State) (p addr n rctx : Nat) (writes : Bool) (req : HeldReq) (k : State → State) : State :=
  if !s.dev.portUp p || decide (s.dev.fabnum = 4095) then s
  else if (s.frozenMaster (.aqueduct p)).isSome then s.holdRequest (.aqueduct p) req
  else if s.dev.portTakes p addr n rctx writes then k s
  else s.freezeMaster (.aqueduct p) (portMaster p) req rctx addr 5 0

/-- A request at an aqueduct port for bytes or for words (R355). -/
def State.portRequest (s : State) (p : Nat) (r : BusReq) : State :=
  s.atPort p r.addr (busLength r) r.rctx (busWrites r.op) (.bus r) (fun s => s.busPerform r false)

/-- FABRIC_REQUEST (R355). -/
def execFabricRequest (port : Nat) (req : BusReq) (s : State) : Out := .next (s.portRequest port req)

/-- A host request for a scratchpad or quad-shared SRAM, by its pointer, for a context that a window names (R187, log 47). -/
def State.hostSram (s : State) (r : BusReq) : Option State :=
  if (List.range 16).any (fun w => bit1 (s.dev.reg (0x4000 + 32 * w)) 0 && decide (s.dev.windowCtx (0x4000 + 32 * w) = r.rctx) &&
      (!busWrites r.op || bit1 (s.dev.reg (0x4000 + 32 * w)) 1)) then
    match s.engineAccess 0 r.rctx true (if busWrites r.op then .write else .read) r.addr (busLength r) with
    | (.ok ps, s1) => some (if r.op = .write then s1.homeStorePieces ps r.bytes else s1)
    | (.error _, _) => none
  else none

/-- A request at the host port (R187, R323, R385). -/
def State.hostRequest (s : State) (r : BusReq) : State :=
  let refuse (s : State) : State := s.freezeMaster .hostPort 2 (.bus r) 0 r.addr 4 0
  if (s.frozenMaster .hostPort).isSome then s.holdRequest .hostPort (.bus r)
  else if 2 ≤ ptrTag r.addr then (s.hostSram r).getD (refuse s)
  else
    match s.dev.hostCtx r.addr (busLength r) (busWrites r.op) with
    | some c => s.busPerform { r with rctx := c } true
    | none => refuse s

/-- HOST_PORT_REQUEST (R323). -/
def execHostPortRequest (req : BusReq) (s : State) : Out := .next (s.hostRequest req)

/-- A flume request of another device or of the host (R258, R323, R355, R356, R385): it must lie inside a window that allows
writes. -/
def State.flumeRequest (s : State) (fcb : Nat) (enq : Bool) (r : FlumeReq) : State :=
  match r.port with
  | some p => s.atPort p fcb 64 r.rctx true (.flume fcb enq r) (fun s => s.outsideFlume fcb enq r)
  | none =>
    if (s.frozenMaster .hostPort).isSome then s.holdRequest .hostPort (.flume fcb enq r)
    else
      match s.dev.hostCtx fcb 64 true with
      | some c => s.outsideFlume fcb enq { r with rctx := c }
      | none => s.freezeMaster .hostPort 2 (.flume fcb enq r) 0 fcb 4 0

/-- FLUME_ENQUEUE_OPERATION (R230, R356). -/
def execFlumeEnqueueOperation (fcb : Nat) (req : FlumeReq) (s : State) : Out := .next (s.flumeRequest fcb true req)

/-- FLUME_DEQUEUE_OPERATION (R230, R356). The element leaves for the other party. -/
def execFlumeDequeueOperation (fcb : Nat) (req : FlumeReq) (s : State) : Out := .next (s.flumeRequest fcb false req)

/-! ## Answers of other devices (R224, R354, R356) -/

/-- Another device has done what a parked thread asked of it. -/
def State.remoteDone (s : State) (w : RemoteWait) (ws : List Word) : State :=
  let x := (ws.getD 0 0).toNat
  match w.op with
  | .enq => s.completeParty w.who none Thread.retire
  | .deq d n qbind =>
    s.completeDeq ⟨0, 0, false, w.who, [], d, qbind, false, none, w.va, 0⟩ .fab ((List.range n).map (fun i => ws.getD i 0))
  | .basin d sc => (s.pushReceived w.who d (fun _ => 0)).completeParty w.who (some sc) (Thread.receive d 0 false)
  | .group sc => s.completeParty w.who (some sc) (fun t => (t.putFlags (FlagWrite.onlyZ true)).retire)
  | .word d .lde => s.deliverWord w.who none d x true
  | .word d .ldff => s.deliverWord w.who none d x (match w.who with | .record _ _ => true | _ => false)
  | .word _ (.stf _) => s.completeParty w.who none Thread.retire
  | .reserve loc =>
    match s.resvs.find? (fun e => decide (e.home = .remote ∧ e.loc = loc ∧ e.who = w.who) && !e.granted) with
    | some e =>
      State.deliverReserved { s with resvs := s.resvs.map (fun y => if y = e then { e with granted := true } else y) }
        { e with granted := true } x
    | none => s

/-- Whether another device's answer can be one that its flume is corrupt: of an enqueue or a dequeue. -/
def RemoteOp.ofFlume : RemoteOp → Bool
  | .enq | .deq _ _ _ => true
  | _ => false

/-- Whether a wait can be answered: of the threads of this device that ask another for one word, the first, once none of them holds it
(R225, R356). -/
def State.answerable (s : State) (w : RemoteWait) : Bool :=
  match w.op with
  | .reserve loc =>
    (s.resvs.find? (fun e => decide (e.home = .remote ∧ e.loc = loc))).any (fun e => decide (e.who = w.who) && !e.granted)
  | _ => true

/-- The k-th wait for another device is answered (R229, R231, R356). -/
def State.remoteReply (s : State) (k : Nat) (r : Reply) : State :=
  match s.remoteWaits[k]? with
  | none => s
  | some w =>
    let s1 := { s with remoteWaits := s.remoteWaits.eraseIdx k }
    if !s.answerable w then s
    else match r with
    | .done ws => s1.remoteDone w ws
    | .corrupt code =>
      if w.op.ofFlume then s1.wakeParty w.who none (fun t => (w.untie t).trapLater (flumeCorrupt w.va.toNat code)) else s
    | .expired h t =>
      if w.limited then s1.wakeParty w.who none (Thread.trapLater (mkTrap .waitExpired w.va.toNat h.toNat t.toNat)) else s

/-- LINK_MARKED_DOWN (R352). -/
def execLinkMarkedDown (port : Nat) (s : State) : Out :=
  if port < 12 then .next (s.modDev (fun d => { d with linksDown := insertN port d.linksDown })) else .next s

/-- LINK_RESTORED (R352). -/
def execLinkRestored (port : Nat) (s : State) : Out :=
  .next (s.modDev (fun d => { d with linksDown := eraseN port d.linksDown }))

/-! ## RSTAT, TBR, WAITT (R371 to R373) -/

/-- The hops to a device: 0 for this one, −1 for no route, else a number of this fabric's that the spec does not give
(R371, log 5). -/
def State.hops (s : State) (v : Int) : Int × State :=
  if v < 0 ∨ 4095 < v then (-1, s)
  else if s.dev.isSelf v.toNat then (0, s)
  else if (s.dev.route v.toNat).isNone then (-1, s)
  else
    let (k, s1) := s.choose 4094
    ((k : Int) + 1, s1)

/-- The frozen aqueduct ports as a mask (R371). -/
def State.frozenPorts (s : State) : Nat :=
  ((List.range 12).filter (fun p => (s.frozenMaster (.aqueduct p)).isSome)).foldl (fun n p => n + 2 ^ p) 0

/-- What RSTAT reads (R371). -/
def State.rstat (s : State) (a : Name) (item : Nat) : Int × State :=
  match item with
  | 4 => (s.dev.refused, s)
  | 5 => (s.dev.overflow, s)
  | 6 => s.hops (s.val a)
  | 7 => (s.frozenPorts, s)
  | p =>
    match s.invocationFlume p with
    | some pa => (((s.fcbRead pa).tail - (s.fcbRead pa).head : Nat), s)
    | none => (0, s)

/-- RSTAT (R371). -/
def execRstat (d a : Name) (item : Fin 8) (look : Look) (s : State) : Out :=
  let reads := if item.val = 6 then [a] else []
  s.guarded { reads := ints reads, writes := ints [d] } (fun s =>
    let (x, s1) := s.rstat a item.val
    s1.narrowLong look.val reads d x)

/-- TBR (R372). -/
def execTbr (d : Name) (look : Look) (s : State) : Out :=
  s.guarded { writes := ints [d] } (fun s => s.narrowLong look.val [] d s.dev.timebase.toNat)

/-- WAITT (R373). -/
def execWaitt (d a : Name) (s : State) : Out :=
  s.guarded (use2 d a) (fun s =>
    if s.ext a ≤ s.dev.timebase.toNat then s.narrowInto [a] d s.dev.timebase.toNat id
    else .next (s.park [a] (.time (s.ext a) d)))

/-- WAITT_WAKE (R373): the timebase has reached a waiting thread's target. -/
def execWaittWake (core slot : Nat) (s : State) : Out :=
  match s.threadAt core slot with
  | some t =>
    match t.wait with
    | some (.time target d) =>
      let now := s.dev.timebase.toNat
      if target ≤ now then
        .next ((s.pushReceived (.slot core slot) d (fun _ => now)).completeParty (.slot core slot) none (Thread.receive d now false))
      else .next s
    | _ => .next s
  | none => .next s

/-! ## Time between devices (R366) -/

/-- TIME_SYNC_SEND (R366): a flit leaves with this device's time; nothing here changes. -/
def execTimeSyncSend (_port : Nat) (s : State) : Out := .next s

/-- TIME_SYNC_FLIT (R366): a device whose TMASTER is 0 follows the flit's sender: it steps with the master, or slews by a
rate of at most 200 ppm that the spec leaves open (log 5). -/
def execTimeSyncFlit (time : Nat) (stepped : Bool) (s : State) : Out :=
  if bit1 (s.dev.reg 0x60) 0 ∨ s.dev.minimal then .next s
  else
    let off : Int := (s.dev.timebase.toNat : Int) - (time % 2 ^ 64 : Nat)
    let (k, s1) := s.choose 400001
    .next (s1.modDev (fun d =>
      { d with follower := true, timeOffset := off, slew := (k : Int) - 200000
               timebase := if stepped then BitVec.ofNat 64 time else d.timebase }))

/-- TIME_SYNC_LOSS (R366): without a flit for 1 ms the device is its own master. -/
def execTimeSyncLoss (s : State) : Out :=
  .next (s.modDev (fun d => { d with follower := false, timeOffset := 0, slew := 0 }))

/-! ## Collectives (R363 to R365) -/

/-- A collective packet's fields; `zero` are the bits marked 0. -/
structure CollPkt where
  src : Nat
  dst : Nat
  count : Nat
  fmt : Nat
  kind : Nat
  rop : Nat
  acq : Bool
  rel : Bool
  zero : Nat
  rank : Nat
  nrank : Nat
  root : Nat
  tag : Nat
  rtab : Nat
deriving DecidableEq, Repr

/-- A collective packet from its 512 bits. -/
def CollPkt.ofNat (x : Nat) : CollPkt :=
  let w (i : Nat) : Nat := bits x (64 * i) 64
  { src := w 0, dst := w 1
    count := bits (w 2) 0 32, fmt := bits (w 2) 32 3, kind := bits (w 2) 35 2, rop := bits (w 2) 37 2
    acq := bit1 (w 2) 39, rel := bit1 (w 2) 40, zero := bits (w 2) 41 23 + 2 ^ 23 * w 5
    rank := bits (w 3) 0 12, nrank := bits (w 3) 12 12, root := bits (w 3) 24 12, tag := bits (w 3) 36 28, rtab := w 4 }

/-- A pointer that a collective cannot use (R363). -/
def notGlobal (p : Nat) : Bool := decide (ptrTag p ≠ 0) || ptrMbz p

/-- The code of a collective packet's own fault (R363, R374). -/
def CollPkt.fault (c : CollPkt) : Option Nat :=
  if c.zero ≠ 0 ∨ 6 ≤ c.fmt ∨ c.kind = 3 ∨ c.rop = 3 ∨ 2 ^ 24 < c.count ∨ c.nrank < 2 ∨ c.nrank ≤ c.rank ∨
      (c.kind ≠ 0 ∧ c.nrank ≤ c.root) then some 1
  else if notGlobal c.src || notGlobal c.dst || notGlobal c.rtab then some 2
  else none

/-- What the packets of one collective must agree in, the RTAB contents apart (R365). -/
def CollPkt.agrees (a b : CollPkt) : Bool :=
  decide (a.count = b.count ∧ a.fmt = b.fmt ∧ a.kind = b.kind ∧ a.rop = b.rop ∧ a.nrank = b.nrank ∧ a.root = b.root)

/-- The float format of a collective format, if it is one (R363). -/
def collFmt : Nat → Option Fmt
  | 2 => some Fmt.b32
  | 3 => some Fmt.bf16
  | 4 => some Fmt.b16
  | 5 => some Fmt.b64
  | _ => none

/-- The operation at a node of the tree (R364). -/
def collOp (fmt rop a b : Nat) : Nat :=
  match collFmt fmt with
  | some f =>
    let x := f.value a
    let y := f.value b
    f.rne (match rop with | 0 => x.add y | 1 => x.minNum y | _ => x.maxNum y)
  | none =>
    let w := 8 * collSize fmt
    match rop with
    | 0 => (a + b) % 2 ^ w
    | 1 => if patVal .signed w a ≤ patVal .signed w b then a else b
    | _ => if patVal .signed w a ≤ patVal .signed w b then b else a

/-- One level of the tree: neighbours combined, the lower rank on the left; the last may have no partner (R364). -/
def treeLevel {α : Type} (op : α → α → α) : List α → List α
  | x :: y :: r => op x y :: treeLevel op r
  | l => l

/-- The tree over all ranks (R364). -/
def treeReduce {α : Type} (op : α → α → α) : Nat → List α → List α
  | 0, l => l
  | n + 1, l => treeReduce op n (treeLevel op l)

/-- The bytes of an engine's pieces read as elements of `e` bytes: a 4-byte element at the start of a marked slot has the slot's
rounded value (R223). -/
def State.elemPieces (s : State) (e : Nat) : List Piece → List Byte × State
  | [] => ([], s)
  | x :: r =>
    let (b, s1) := s.homePieces [x]
    let (bs, s2) := s1.elemPieces e r
    let b1 := match x.loc with
      | .global pa _ _ =>
        if e = 4 ∧ pa % 64 = 0 ∧ pa / 64 ∈ s.mem.marks then leBytes 4 (rfValue (leNat (s.levelRead .home 0 pa 64).1)) ++ b.drop 4
        else b
      | .sram _ _ => b
    (b1 ++ bs, s2)

/-- The elements of a rank's input, read at their homes as a user access of the OWNER context; or the error code. -/
def State.collRead (s : State) (ctx p n e : Nat) : Except Nat (List Nat) × State :=
  match s.engineAccess 0 ctx true .read p (n * e) with
  | (.error f, s1) => (.error f.errCode, s1)
  | (.ok ps, s1) =>
    if (s1.homePoison ps).isSome then (.error 5, s1)
    else
      let (bs, s2) := s1.elemPieces e ps
      (.ok ((List.range n).map (fun i => leNat ((bs.drop (e * i)).take e))), s2)

/-- The rank's output written element by element, until one fails: the error code. -/
def State.collWrite (s : State) (ctx e : Nat) : Nat → List Nat → Nat × State
  | _, [] => (0, s)
  | p, x :: r =>
    match s.copyUpdate 0 ctx 0 p (leBytes e x) with
    | (0, s1) => s1.collWrite ctx e ((p + e) % 2 ^ 64) r
    | (err, s1) => (err, s1)

/-- The packets of a collective that this device holds and has not executed. -/
def State.collPackets (s : State) (tag : Nat) : List Packet :=
  s.packets.filter (fun p => p.collective && decide (p.phase = .dequeued) && decide ((CollPkt.ofNat p.data.toNat).tag = tag))

/-- Packets that end with an error and write nothing (R365). -/
def State.collFail (s : State) (ps : List Packet) (err : Nat) : State :=
  ps.foldl (fun s p => s.setPacket { p with phase := .executed, err := err }) s

/-- Reads the inputs of the ranks held here: each rank with its elements, or with its error. -/
def State.collInputs (s : State) : List Packet → List (Packet × Except Nat (List Nat)) × State
  | [] => ([], s)
  | p :: r =>
    let c := CollPkt.ofNat p.data.toNat
    let (x, s1) := s.collRead p.ctx c.src c.count (collSize c.fmt)
    let (xs, s2) := s1.collInputs r
    ((p, x) :: xs, s2)

/-- Reads the RTAB of each packet: fabric numbers in rank order, or the error. -/
def State.collTables (s : State) : List Packet → List (Except Nat (List Nat)) × State
  | [] => ([], s)
  | p :: r =>
    let c := CollPkt.ofNat p.data.toNat
    let (x, s1) := s.collRead p.ctx c.rtab c.nrank 2
    let (xs, s2) := s1.collTables r
    (x :: xs, s2)

/-- Every rank of a collective appears once, here or elsewhere, where its table says (R365). -/
def State.collFormed (s : State) (rtab : List Nat) (here elsewhere : List Nat) : Bool :=
  ((List.range rtab.length).zip rtab).all (fun x =>
    if x.2 = s.dev.fabnum then decide (here.count x.1 = 1 ∧ elsewhere.count x.1 = 0)
    else decide (here.count x.1 = 0 ∧ elsewhere.count x.1 = 1))

/-- The result that a collective sends: of the tree, or of the root (R364, R365). -/
def collResult (c : CollPkt) (inputs : Nat → List Nat) : List Nat :=
  if c.kind = 2 then inputs c.root
  else ((treeReduce (List.zipWith (collOp c.fmt c.rop)) 12 ((List.range c.nrank).map inputs)).headD [])

/-- The outputs of the ranks held here are written (R365). -/
def State.collFinish (s : State) (c : CollPkt) (res : List Nat) (ps : List Packet) : State :=
  ps.foldl (fun s p =>
    let d := CollPkt.ofNat p.data.toNat
    if c.kind = 1 ∧ d.rank ≠ c.root then s.setPacket { p with phase := .executed }
    else
      let (err, s1) := s.collWrite p.ctx (collSize c.fmt) d.dst res
      s1.setPacket { p with phase := .executed, err := err }) s

/-- The elements of a rank of a collective: of one held here, or of one elsewhere, by the patterns that the format leaves. -/
def collInput (c : CollPkt) (ins : List (Packet × Except Nat (List Nat))) (remote : List RemoteRank) (r : Nat) : List Nat :=
  match ins.find? (fun x => decide ((CollPkt.ofNat x.1.data.toNat).rank = r)) with
  | some (_, .ok l) => l
  | _ =>
    match remote.find? (fun x => decide (x.rank = r)) with
    | some x => (List.range c.count).map (fun i => (x.elems.getD i 0).toNat % 2 ^ (8 * collSize c.fmt))
    | none => []

/-- The ranks whose inputs could not be read, each with its code. -/
def collErrors (ins : List (Packet × Except Nat (List Nat))) : List (Packet × Nat) :=
  ins.filterMap (fun x => match x.2 with | .error e => some (x.1, e) | .ok _ => none)

/-- A formed collective whose packets agree: inputs read, combined, written. A rank whose input cannot be read ends with
its own code, and the others with 0x01 (log 20). -/
def State.collRun (s : State) (c : CollPkt) (ps : List Packet) (remote : List RemoteRank) : State :=
  let (ins, s1) := s.collInputs ps
  let bad := collErrors ins
  if bad.isEmpty then s1.collFinish c (collResult c (collInput c ins remote)) ps
  else
    let s2 := s1.collFail (ps.filter (fun p => !bad.any (fun x => decide (x.1.id = p.id)))) 1
    bad.foldl (fun s x => s.setPacket { x.1 with phase := .executed, err := x.2 }) s2

/-- COLLECTIVE_EXECUTE (R365): malformed packets fail by themselves; a collective that has formed fails at every rank where
its packets disagree or a device has no route, and is else carried out. -/
def execCollectiveExecute (tag : Nat) (remote : List RemoteRank) (s : State) : Out :=
  let all := s.collPackets tag
  let bad := all.filterMap (fun p => ((CollPkt.ofNat p.data.toNat).fault).map (fun e => (p, e)))
  if !bad.isEmpty then .next (bad.foldl (fun s x => s.setPacket { x.1 with phase := .executed, err := x.2 }) s)
  else if !all.all (fun p => s.dev.nbReached (PktEnd.ofNat p.data.toNat).nb) then .next s
  else
    match all with
    | [] => .next s
    | p :: _ =>
      let c := CollPkt.ofNat p.data.toNat
      let cs := all.map (fun p => CollPkt.ofNat p.data.toNat)
      let (tabs, s1) := s.collTables all
      match tabs.head? with
      | some (.ok rtab) =>
        if !cs.all c.agrees || !remote.all (fun r => r.agrees) || tabs.any (fun t => match t with
            | .ok l => decide (l ≠ rtab)
            | .error _ => true) || rtab.any (fun n => decide (n ≠ s1.dev.fabnum) && (s1.dev.route n).isNone) then
          .next (s1.collFail all 1)
        else if s1.collFormed rtab (cs.map (fun c => c.rank)) (remote.map (fun r => r.rank)) then
          .next (s1.collRun c all remote)
        else .next s
      | some (.error e) => .next (s1.setPacket { p with phase := .executed, err := e })
      | none => .next s

/-- COLLECTIVE_TIMEOUT (R365): a collective that has not formed within 100 ms. -/
def execCollectiveTimeout (tag : Nat) (s : State) : Out := .next (s.collFail (s.collPackets tag) 1)

end Sys2Proof.Machine
end

