-- ==== Sys2Proof/Machine/Registers.lean ====
section
/-! DEFINITION. Registers: the device registers, who reads and writes them, and what a write changes (R258, R323, R336, R355,
R366, R377, R385). -/

namespace Sys2Proof.Machine
open Sys2Proof

/-! ## Writes (R385) -/

/-- The bits of a virtual page that TLBINVA keeps (R385). -/
def pageBits (va : Nat) : Nat := bits va 16 41 * 65536

/-- A device register stored. -/
def State.setReg (s : State) (off v : Nat) : State :=
  s.modDev (fun d => { d with regs := setK off (BitVec.ofNat 64 v) d.regs })

/-- The bits that a write of a window register keeps, by its offset within the window (R355, R385). -/
def windowBits (off v : Nat) : Nat :=
  match off with
  | 0 => bits v 16 32 * 65536 + bits v 0 2
  | 8 => bits v 16 32 * 65536
  | 16 => bits v 0 12
  | _ => 0

/-- What a write of a device register stores: the offset, the value, whether the register is RW*; none for an offset that
ignores writes or has a row of its own (R385). -/
def regWrite (off v : Nat) : Option (Nat × Nat × Bool) :=
  let base := bits v 12 36 * 4096
  if off = 0x10 then some (off, bits v 0 12, true)
  else if off = 0x18 then some (off, base + bits v 0 1, true)
  else if off = 0x28 then some (off, pageBits v, false)
  else if off = 0x30 then some (off, base, true)
  else if off = 0x38 then some (off, bits v 16 32 * 65536 + bits v 0 1, true)
  else if off ∈ [0x40, 0x48, 0x50, 0x58] then some (off, bits v 6 42 * 64 + bits v 0 1, true)
  else if off = 0x60 then some (off, bits v 0 1, false)
  else if off = 0x68 then (if bits v 0 8 = 0 then none else some (off, bits v 0 8, false))
  else if 0x100 ≤ off ∧ off < 0x160 ∧ off % 8 = 0 then some (off, base + bits v 0 1, true)
  else if 0x200 ≤ off ∧ off < 0x300 ∧ off % 8 = 0 then some (off, bits v 0 25, false)
  else if 0x400 ≤ off ∧ off < 0x1C00 ∧ off % 8 = 0 then some (off, windowBits (off % 32) v, false)
  else if 0x2000 ≤ off ∧ off < 0x3FFE ∧ off % 2 = 0 then some (off, bits v 0 4, false)
  else if 0x4000 ≤ off ∧ off < 0x4200 ∧ off % 8 = 0 then some (off, windowBits (off % 32) v, false)
  else none

/-- An entry of the map table for a logical quad: V, the die, the on-die index; 0 beyond the last (R336). -/
def Device.mapEntry (d : Device) (q : Nat) : Nat :=
  match d.physQuad q with
  | some p => 2 ^ 31 + 2 ^ 16 * (p / 4096) + p % 4096
  | none => 0

/-- The map table stands in memory where LCMAPB places it: one 4-byte entry for each of the 65,536 logical quads that there can
be (R336, log 100). -/
def State.placeMap (s : State) (base : Nat) : State :=
  (List.range 65536).foldl (fun s q => s.levelWrite .home 0 0 (bytesAt (base + 4 * q) (leBytes 4 (s.dev.mapEntry q)))) s

/-- What else changes with a register: a new time master follows nobody; a base die's new table registers anew; the map table is
placed (R258, R336, R366). -/
def State.regEffect (s : State) (off v : Nat) : State :=
  if off = 0x60 ∧ bit1 v 0 then s.modDev (fun d => { d with follower := false, timeOffset := 0, slew := 0 })
  else if off = 0x30 then s.placeMap (bits v 12 36 * 4096)
  else if 0x100 ≤ off ∧ off < 0x160 then
    { s with copyOwners := s.copyOwners.filter (fun p => decide ((s.fcbRead p.1).home ≠ (off - 0x100) / 8 + 16)) }
  else s

/-- A write that reaches a device register; an RW* register takes none while a context is resident (R385). -/
def State.registerWrite (s : State) (off : Nat) (val : Word) : State :=
  match regWrite off val.toNat with
  | none => s
  | some (o, v, star) => if star && !s.ctxs.isEmpty then s else (s.setReg o v).regEffect o v

/-! ## Reads (R377, R385) -/

/-- BOOTST (R377). -/
def Device.bootst (d : Device) : Nat :=
  d.bootState % 4 + 2 ^ 8 * d.bootMin.toNat + 2 ^ 16 * (d.bootStage % 256) + 2 ^ 24 * (d.bootFails % 256) +
    2 ^ 32 * (d.bootLast % 256)

/-- A ROUTE entry with its DOWN bit (R352, R385). -/
def Device.routeWord (d : Device) (off : Nat) : Nat := d.reg off + 2 ^ 15 * (decide (d.reg off ∈ d.linksDown)).toNat

/-- The bits of a stack monitor's words: two rails, or the hottest sensor (R385). -/
def monitorBits (i v : Nat) : Nat := if i % 2 = 0 then v % 2 ^ 32 else v % 2 ^ 16

/-- Whether an offset is one of the stack monitors, which only the management interface reads (R380, R385). -/
def isMonitor (off : Nat) : Bool := decide (0x4200 ≤ off ∧ off < 0x42C0 ∧ off % 8 = 0)

/-- What a device register reads; an offset that holds no register, or one that is only written, reads 0 (R385). -/
def Device.regRead (d : Device) (off : Nat) : Nat :=
  if off = 0 then d.bootst
  else if off = 0x20 then bits d.tlbCmd.toNat 0 2 + 2 ^ 16 * bits d.tlbCmd.toNat 16 12 + 2 ^ 63 * d.tlbBusy.toNat
  else if 0x2000 ≤ off ∧ off < 0x3FFE ∧ off % 2 = 0 then d.routeWord off
  else if isMonitor off then monitorBits ((off - 0x4200) / 8) (getK 0 ((off - 0x4200) / 8) d.stkmon).toNat
  else if (regWrite off 1).isSome then d.reg off
  else 0

/-! ## Agents (R323, R385) -/

/-- The first physical address of the device registers (R385). -/
def regBase : Nat := 0xC00000000000

/-- Stage 4 begins with the first thing that an application core does once the device is ready (R375, log 101). -/
def Device.beginStage4 (d : Device) : Device := if d.bootState = 1 ∧ d.bootStage = 3 then { d with bootStage := 4 } else d

/-- An agent's access to a register: an application core that is frozen makes none, and one that reaches beyond the set opened to
it freezes, its access held (R323, log 48). -/
def State.agentAccess (s : State) (agent : Agent) (off : Nat) (req : HeldReq) (k : State → State) : State :=
  match agent with
  | .host | .management => k s
  | .appCore n =>
    if 16 ≤ n ∨ (s.frozenMaster (.appCore n)).isSome then s
    else if Config.appMay n off then k (s.modDev Device.beginStage4)
    else s.freezeMaster (.appCore n) (256 * n + 4) req 0 (regBase + off) 6 0

/-- An agent writes a register. -/
def State.agentWrite (s : State) (agent : Agent) (off : Nat) (val : Word) : State :=
  s.agentAccess agent off (.regs off val) (fun s => s.registerWrite off val)

/-- What an agent reads at an offset: of the stack monitors, only the management interface anything but 0 (R380, log 118). -/
def Device.agentReads (d : Device) (agent : Agent) (off : Nat) : Nat :=
  if isMonitor off && decide (agent ≠ .management) then 0 else d.regRead off

/-- An agent reads a register; the value leaves to it. -/
def State.agentRead (s : State) (agent : Agent) (off : Nat) : State :=
  s.agentAccess agent off (.regRead off) (fun s =>
    s.modDev (fun d => { d with answer := BitVec.ofNat 64 (d.agentReads agent off) }))

end Sys2Proof.Machine
end

