-- ==== Sys2Proof/Machine/Contexts.lean ====
section
/-! DEFINITION. Contexts: the context table, residency, draining, saving and restoring a context (R188, R325 to R331, R339 to
R343). -/

namespace Sys2Proof.Machine
open Sys2Proof

/-! ## The context table (R188, R325) -/

/-- The address of a context's table entry, if the table is there (R385). -/
def State.tableEntry (s : State) (c : Nat) : Option Nat :=
  let r := s.dev.reg 0x18
  if bit1 r 0 then some (bits r 12 36 * 4096 + 64 * c) else none

/-- A word of a context's table entry, read at the controller. -/
def State.tableWord (s : State) (c off : Nat) : Nat :=
  match s.tableEntry c with
  | some pa => leNat (s.mem.homePeek (pa + off) 8)
  | none => 0

/-- Where a context's table entry cannot be read in full: the physical address of its first poisoned word, or 0 where there is no
table (R343, log 23). -/
def State.entryBad (s : State) (c : Nat) : Option Nat :=
  match s.tableEntry c with
  | some pa => (firstPoison (s.mem.recall (blockOf pa)).poison pa 64).map (8 * ·)
  | none => some 0

/-- A context that its table entry describes, before it is resident. -/
def State.contextOf (s : State) (c : Nat) : Ctx :=
  let w := s.tableWord c
  { id := c, root := bits (w 0) 12 36, prvbase := bits (w 8) 16 41, prvsz := bits (w 8) 0 5
    cpool := BitVec.ofNat 64 (w 0x10), cpsz := bits (w 0x18) 0 23, lpool := BitVec.ofNat 64 (w 0x20)
    save := BitVec.ofNat 64 (w 0x28), secsize := 0, rstate := bits (w 0x30) 0 2, recs := [], sections := [] }

/-- RSTATE (R325). -/
def State.rstate (s : State) (c : Nat) : Nat :=
  match s.ctxOf c with
  | some x => x.rstate
  | none => bits (s.tableWord c 0x30) 0 2

/-- RSTATE written, by the device. -/
def State.setRstate (s : State) (c v : Nat) : State :=
  let s1 := match s.tableEntry c with
    | some pa => s.levelWrite .home 0 0 (bytesAt (pa + 0x30) (leBytes 8 (setBits (s.tableWord c 0x30) 0 2 v)))
    | none => s
  s1.modCtx c (fun x => { x with rstate := v })

/-! ## Withdrawing a thread from its wait (R328) -/

/-- A party leaves a flume's list: the count falls, or the flume breaks for those who still wait (R229, R328). -/
def State.withdrawFlume (s : State) (w : FlumeWaiter) : State :=
  match ({ s with flumeWaits := s.flumeWaits.erase w } : State).fcbCheck w.ctl w.fcb with
  | (.ok f, s1) =>
    s1.fcbWrite w.fcb (if w.enq then { f with waite := f.waite - 1 } else { f with waitd := f.waitd - 1 })
  | (.error _, s1) => s1

/-- A core for what is done on behalf of a thread: its slot's, its affinity's, or the first of the die it was on. -/
def State.partyCore (s : State) (p : Party) : Nat :=
  match p with
  | .slot c _ => c
  | .record ctx k =>
    let t := s.readRecord ctx k
    t.aff.getD (((List.range (4 * s.dev.quadCount)).find? (fun c => decide (s.dev.dieOf c = (s.recInfo ctx k).die))).getD 0)
  | .remote _ => 0

/-- An arrival at a barrier is taken back: ARRV falls at the word's home (R328). -/
def State.unarrive (s : State) (x : GroupWaiter) : State :=
  let loc : Loc := if x.pa < 2 ^ 48 then .global x.pa 0 0 else .sram ((x.pa - 2 ^ 48) / 65536) (x.pa % 65536)
  (({ s with groupWaits := s.groupWaits.erase x }).atomicAt (s.partyCore x.who) x.scope ⟨0, loc, 16⟩
    (fun w => some (GroupWord.ofNat w).unarrived.toNat)).2

/-- A party leaves whatever list it waits on; a reservation that it holds stays (R328). -/
def State.withdrawParty (s : State) (p : Party) : State :=
  let s1 := match s.flumeWaits.find? (fun w => decide (w.who = p)) with
    | some w => s.withdrawFlume w
    | none => s
  let s2 := match s1.groupWaits.find? (fun x => decide (x.who = p)) with
    | some x => s1.unarrive x
    | none => s1
  { s2 with
    feWaits := s2.feWaits.filter (fun x => decide (x.who ≠ p))
    basinWaits := s2.basinWaits.filter (fun x => decide (x.who ≠ p))
    remoteWaits := s2.remoteWaits.filter (fun x => decide (x.who ≠ p))
    resvs := s2.resvs.filter (fun e => !(decide (e.who = p) && !e.granted)) }

/-- What a withdrawal does to the thread: a parked CPY's token is put back, it waits no longer (R328, R329). -/
def State.withdrawn (s : State) (p : Party) (t : Thread) : Thread :=
  let t0 := match s.flumeWaits.find? (fun w => decide (w.who = p)) with
    | some w => w.untie t
    | none => t
  let t1 := match s.remoteWaits.find? (fun w => decide (w.who = p)) with
    | some w => w.untie t0
    | none => t0
  { t1 with wait := none, reads := [], pops := [], pushes := [], retry := none }

/-- What a thread waits for at the noria has not begun, and leaves it (R280, R289, R328). -/
def State.leaveNoria (s : State) (core : Nat) (t : Thread) : State :=
  match t.wait with
  | some (.noria id _) =>
    let c := s.core core
    let q := s.quad (core / 4)
    (s.setCore core { c with nq := c.nq.filter (fun e => decide (e.id ≠ id)) }).setQuad (core / 4)
      { q with releases := q.releases.filter (fun l => decide (l.entry.id ≠ id))
               rowsIn := q.rowsIn.filter (fun r => decide (r.entry.id ≠ id)) }
  | _ => s

/-- The thread of a slot is withdrawn from its wait: it leaves its list, its reserved entries are given up (R160, R328). -/
def State.withdrawSlot (s : State) (c i : Nat) (t : Thread) : State × Thread :=
  let who := Party.slot c i
  let t1 := s.withdrawn who t
  (((((s.dropPushes t).leaveNoria c t).putThread c i t1).withdrawParty who).unparkOrder c i, t1)

/-! ## Draining (R328, R331, R341) -/

/-- The resident threads of a context: core, slot, thread. -/
def State.residents (s : State) (ctx : Nat) : List (Nat × Nat × Thread) :=
  s.cores.flatMap (fun c => (List.range 16).filterMap (fun i =>
    match s.threadAt c.1 i with
    | some t => if t.ctx = ctx then some (c.1, i, t) else none
    | none => none))

/-- Whether a thread stands where a drain can take it: not frozen, not out or being placed, nothing on its way to it. -/
def Thread.drainable (t : Thread) : Bool :=
  t.frozen.isNone && !t.out && !t.placing && t.quiet && (match t.wait with | some (.offtake _ _) => false | _ => true)

/-- Whether an operation is one whose thread waits for its answer: it can be withdrawn (R328). -/
def NoriaOp.asked : NoriaOp → Bool
  | .acquire _ _ | .release _ _ | .register _ _ _ _ | .check _ _ => true
  | .load _ _ _ _ | .row _ _ _ _ | .drain _ _ _ _ => false

/-- Whether the engines have finished a context's work (R328 step 4). -/
def State.enginesDone (s : State) (ctx : Nat) : Bool :=
  s.packets.all (fun p => decide (p.ctx ≠ ctx)) && s.decrements.all (fun d => decide (d.ctx ≠ ctx)) &&
  s.cores.all (fun c => c.2.nq.all (fun e => decide (e.ctx ≠ ctx) || e.op.asked)) &&
  s.quads.all (fun q => q.2.rowsIn.all (fun r => decide (r.entry.ctx ≠ ctx) || r.entry.op.asked) &&
    q.2.loads.all (fun l => decide (l.entry.ctx ≠ ctx)) && q.2.drains.all (fun d => decide (d.entry.ctx ≠ ctx)))

/-- The start of a drain (R328, R341). -/
def State.startDrain (s : State) (c : Nat) : State := s.setRstate c 2

/-- A restartable thread's record is FRESH again (R331). -/
def State.discardThread (s : State) (ctx k j i : Nat) : State :=
  let n := s.launchSize ctx j
  (s.launchRecord ctx j n i k .dev).2.2

/-- A resident thread stops: its windows complete, it is withdrawn from its wait, and a restartable one is discarded (R328 steps
2 and 3, R331). -/
def State.stopSlot (s : State) (c i : Nat) : State :=
  match s.threadAt c i with
  | none => s
  | some t0 =>
    let (s0, t1) := (s.landSlotStores c i).landAll t0
    let (s1, t2) := s0.withdrawSlot c i { t1 with inflight := [] }
    match t2.rsl && !t2.cmt, t2.launch with
    | true, some (j, n) =>
      (((s1.quitNoria c t2).2.quitSteps c t2).freeSlot c i).discardThread t2.ctx t2.recIx j n
    | _, _ => s1

/-- A resident thread that has stopped is written back (R328 step 5). -/
def State.drainSlot (s : State) (c i : Nat) : State :=
  match s.threadAt c i with
  | none => s
  | some t =>
    let core := if s.pinned c t then some c else none
    let s1 := (s.release c .dev).writeRecord t (s.dev.dieOf c)
    let s2 := s1.setRecInfo t.ctx { s1.recInfo t.ctx t.recIx with core := core }
    (s2.renameParty (.slot c i) (.record t.ctx t.recIx)).freeSlot c i

/-- A spilled thread's record is withdrawn from its wait, or discarded (R328 step 3, R331). A FRESH record stands. -/
def State.drainRecord (s : State) (x : Ctx) (k : Nat) : State :=
  if bit1 (s.sysWord x.id (x.recAddr k + 0x10)) 6 then s
  else
    let who := Party.record x.id k
    let t := s.withdrawn who (s.readRecord x.id k)
    let core := s.partyCore who
    let s1 := s.withdrawParty who
    match t.rsl && !t.cmt, t.launch with
    | true, some (j, n) => (s1.quitSteps core t).discardThread x.id k j n
    | _, _ =>
      let info := s.recInfo x.id k
      let s2 := s1.writeRecord t info.die
      s2.setRecInfo x.id { s2.recInfo x.id k with core := info.core }

/-- Records of a context that no thread owns: kept by a registration, and idle (R292). -/
def State.idleRecords (s : State) (x : Ctx) : List Nat :=
  (x.recs.filter (fun r => s.recReserved x.id r.k && (s.findThread x.id r.k).isNone)).map (fun r => r.k)

/-- A launch whose every thread has been discarded is PENDING again, its records free (R331). -/
def State.regroupLaunch (s : State) (ctx j : Nat) : State :=
  match s.ctxOf ctx with
  | none => s
  | some x =>
    let ks := (x.recs.filter (fun r => match r.launch with
      | some (i, _) => decide (i = j) && bit1 (s.sysWord ctx (x.recAddr r.k + 0x10)) 6
      | none => false)).map (fun r => r.k)
    if bit1 (s.launchWord ctx j 0x18) 62 && decide (ks.length = s.launchSize ctx j) then
      let s1 := s.modCtx ctx (fun x => { x with recs := x.recs.filter (fun r => decide (r.k ∉ ks)) })
      let s2 := s1.setLaunchState ctx j 3
      { s2 with pending := s2.pending ++ [⟨s2.dev.recordDie j, ctx, j⟩] }
    else s

/-- The tiles and slots of a context as sections, and the quads without them (R326). -/
def State.saveQuads (s : State) (ctx : Nat) : List SavedSec × State :=
  let ts := s.quads.flatMap (fun q => (List.range 4).filterMap (fun i =>
    if heldBy ctx (q.2.tile i).holder then some (q.1, i) else none))
  let bs := s.quads.flatMap (fun q => (List.range 8).filterMap (fun i =>
    if heldBy ctx (q.2.bslot i).holder then some (q.1, i) else none))
  let secs := ts.map (fun p => SavedSec.tile p.1 p.2 ((s.quad p.1).tile p.2) []) ++
    bs.map (fun p => SavedSec.bslot p.1 p.2 ((s.quad p.1).bslot p.2))
  let s1 := ts.foldl (fun s p => s.setQuad p.1 ((s.quad p.1).ungrant [p.2] [])) s
  (secs, bs.foldl (fun s p => s.setQuad p.1 ((s.quad p.1).ungrant [] [p.2])) s1)

/-- The handler registrations of a context as sections, and the cores without them. The records stay the context's. -/
def State.saveHandlers (s : State) (ctx : Nat) : List SavedSec × State :=
  let hs := s.cores.filterMap (fun c => match c.2.handler with
    | some h => if h.ctx = ctx then some (c.1, h) else none
    | none => none)
  (hs.map (fun p => SavedSec.handler p.1 p.2 ((s.quad (p.1 / 4)).drained.filter (fun r => decide (r.core = p.1 ∧ r.ctx = ctx)))),
   hs.foldl (fun s p =>
    let q := s.quad (p.1 / 4)
    let s1 := s.setQuad (p.1 / 4) { q with drained := q.drained.filter (fun r => !decide (r.core = p.1 ∧ r.ctx = ctx)) }
    (s1.setCore p.1 { s1.core p.1 with handler := none }).reserve p.1 p.2.slots false) s)

/-- A context's entries in a runnel, and the runnel without them (R162). -/
def State.takeEntries (s : State) (ctx : Nat) (r : Option (Nat × Nat)) : List Word × State :=
  match r with
  | some (src, dir) =>
    let es := s.runnel src dir
    ((es.filter (fun e => decide (e.ctx = ctx))).map (fun e => e.word),
      s.setRunnel src dir (es.filter (fun e => decide (e.ctx ≠ ctx))))
  | none => ([], s)

/-- A context's entries put behind what a runnel holds (R162, log 92). -/
def State.giveEntries (s : State) (ctx : Nat) (r : Option (Nat × Nat)) (es : List Word) : State :=
  match r with
  | some (src, dir) => s.setRunnel src dir (s.runnel src dir ++ es.map (fun w => ⟨ctx, w, none⟩))
  | none => s

/-- Whether a runnel has room for so many entries more (R157). -/
def State.runnelRoom (s : State) (r : Option (Nat × Nat)) (n : Nat) : Bool :=
  match r with
  | some (src, dir) => decide ((s.runnel src dir).length + n ≤ 8)
  | none => true

/-- The links that a context's threads hold as sections, and its entries of their runnels taken: of each link the arriving
runnel, then what no other link has taken of the leaving one (R162, R326). -/
def State.saveRunnels (s : State) (ctx : Nat) : List SavedSec × State :=
  let ls := (s.residents ctx).flatMap (fun x => x.2.2.links.map (fun l => (x.1, l.1, l.2, x.2.2.recIx))) ++ s.linkRecords ctx
  let (ins, s1) := ls.foldl (fun p x =>
    let (es, s1) := p.2.takeEntries ctx (p.2.linkIn x.1 x.2.2.1)
    (p.1 ++ [es], s1)) (([] : List (List Word)), s)
  let (outs, s2) := ls.foldl (fun p x =>
    let (es, s1) := p.2.takeEntries ctx (p.2.linkOut x.1 x.2.2.1)
    (p.1 ++ [es], s1)) (([] : List (List Word)), s1)
  ((ls.zip (ins.zip outs)).map (fun y =>
    SavedSec.runnel y.1.1 (s2.core y.1.1).ldir y.1.2.2.1 y.1.2.2.2 y.1.2.1 y.2.1 y.2.2), s2)

/-- A scratchpad unit as its section holds it: its bytes, then its full/empty bits, 1 for full (R326). -/
def State.unitBytes (s : State) (core u : Nat) : List Byte :=
  s.mem.sramRead core (16384 * u) 16384 ++
    (List.range 256).map (fun i => BitVec.ofNat 8 (((List.range 8).filter (fun b =>
      s.isFull (.sram core (16384 * u + 8 * (8 * i + b))))).foldl (fun n b => n + 2 ^ b) 0))

/-- The poisoned words of a scratchpad unit. -/
def State.unitMarks (s : State) (core u : Nat) : List Nat :=
  ((s.mem.sram core).poison.filter (fun w => decide (w / 2048 = u))).map (· % 2048)

/-- Bytes of a section that its contents do not fill: free values (log 5). -/
def State.freeBytes (s : State) (ctx addr n : Nat) : State :=
  let (bs, s1) := s.externalRead addr n
  s1.sysWrite ctx addr bs

/-- Whether a section is a scratchpad's, whose units go to memory one by one. -/
def SavedSec.isSram : SavedSec → Bool
  | .sram _ _ _ => true
  | _ => false

/-! ## The sections in memory (R326); the spec gives what they hold and their sizes, the layout is the model's (log 36) -/

/-- Fields of `w` bits each, the first lowest. -/
def packFields (w : Nat) (l : List Nat) : Nat := l.foldr (fun x n => x % 2 ^ w + 2 ^ w * n) 0

/-- The 64-byte header of a section as a number: its kind in [7:0], and what identifies it; of a tile its rows' states, of a slot the
descriptor, of a registration its handle and records. A tile's rows that await their handler are marked with the core's number in its
quad. -/
def SavedSec.header : SavedSec → Nat
  | .tile q i t ws =>
    1 + 2 ^ 8 * q + 2 ^ 24 * i + 2 ^ 26 * t.chk.toNat + 2 ^ 32 * (t.holder.getD (0, 0)).2 +
      2 ^ 64 * packFields 1 ((List.range 64).map (fun r => (t.row r).draining.toNat)) +
      2 ^ 128 * packFields 2 ((List.range 64).map (fun r => (t.row r).status)) +
      2 ^ 256 * packFields 3 ((List.range 64).map (fun r =>
        match ws.find? (fun w => decide (w.1 = r)) with | some w => 4 + w.2 % 4 | none => 0))
  | .bslot q i b =>
    2 + 2 ^ 8 * q + 2 ^ 24 * i + 2 ^ 27 * b.loaded.toNat + 2 ^ 32 * (b.holder.getD (0, 0)).2 + 2 ^ 64 * bits b.desc.toNat 0 256
  | .handler c h _ =>
    3 + 2 ^ 8 * c + 2 ^ 26 * h.recs.length + 2 ^ 32 * h.recIx + 2 ^ 64 * h.handle.toNat + 2 ^ 128 * packFields 23 h.recs
  | .runnel c ld l k n ins _ =>
    4 + 2 ^ 8 * c + 2 ^ 26 * l.val + 2 ^ 28 * ins.length + 2 ^ 32 * k + 2 ^ 64 * ld.toNat + 2 ^ 72 * n.val
  | .sram c sps _ => 5 + 2 ^ 8 * c + 2 ^ 26 * sps

/-- The bytes of a section after its header: the rows of a tile; the elements and exponent pairs of a loaded slot that is not pinned;
the entries of a runnel. -/
def SavedSec.body : SavedSec → List Byte
  | .tile _ _ t _ => (List.range 64).flatMap (fun r => (List.range 64).flatMap (fun j => leBytes 4 ((t.row r).vals.getD j 0).toNat))
  | .bslot _ _ b =>
    let table (l : List (List Nat)) (n : Nat) : List Byte :=
      (List.range 64).flatMap (fun i => (List.range n).map (fun j => BitVec.ofNat 8 ((l.getD i []).getD j 0)))
    if b.loaded && !(BDesc.ofNat b.desc.toNat).pin then table b.elems 64 ++ table b.pairs 4 else []
  | .runnel _ _ _ _ _ ins _ => ins.flatMap (fun w => leBytes 8 w.toNat)
  | .handler _ _ _ | .sram _ _ _ => []

/-- Writes a section, but for the units of a scratchpad, at an address of the section region. -/
def State.writeSection (s : State) (ctx addr : Nat) (sec : SavedSec) : State :=
  let s1 := if sec.isSram then s else s.freeBytes ctx addr sec.size
  (s1.sysWrite ctx addr (leBytes 64 sec.header)).sysWrite ctx (addr + 64) sec.body

/-- Writes sections one after the other (R326). -/
def State.writeSections (s : State) (ctx addr : Nat) : List SavedSec → State
  | [] => s
  | sec :: r => (s.writeSection ctx addr sec).writeSections ctx (addr + sec.size) r

/-- A tile as its section holds it; `h` is the header. -/
def State.readTile (s : State) (ctx addr h : Nat) : Tile :=
  let row (r : Nat) : TileRow :=
    let bs := s.sysRead ctx (addr + 64 + 256 * r) 256
    ⟨r, (List.range 64).map (fun j => BitVec.ofNat 32 (leNat ((bs.drop (4 * j)).take 4))), bits h (128 + 2 * r) 2, bit1 h (64 + r)⟩
  ⟨some (ctx, bits h 32 23), bit1 h 26,
    ((List.range 64).map row).filter (fun x => x.draining || decide (x.status ≠ 0) || x.vals.any (fun v => decide (v ≠ 0)))⟩

/-- A B slot as its section holds it, without its checksum column; `h` is the header. -/
def State.readSlot (s : State) (ctx addr h : Nat) : BSlot :=
  let d := BDesc.ofNat (bits h 64 256)
  let table (at_ n k : Nat) : List (List Nat) := (List.range d.nlim).map (fun i =>
    ((s.sysRead ctx (at_ + n * i) k).map (fun b => b.toNat)))
  let full := bit1 h 27 && !d.pin
  ⟨some (ctx, bits h 32 23), bit1 h 27, BitVec.ofNat 512 (bits h 64 256),
    if full && decide (d.klim ≠ 0) then table (addr + 64) 64 d.klim else [], if full then table (addr + 4160) 4 4 else [], []⟩

/-- A registration as its section holds it; `h` is the header. The device keeps the entry, TRAPV and TRAPREC; where it keeps nothing,
they are read through the handle and from the image of the record that holds the registration (log 36). -/
def State.readRegistration (s : State) (x : Ctx) (h : Nat) (kept : Option HandlerReg) : HandlerReg :=
  let k := bits h 32 23
  let handle := bits h 64 64
  let n := bits h 26 4
  let word (a : Nat) : Word := BitVec.ofNat 64 (s.sysWord x.id a)
  let r := kept.getD ⟨x.id, k, 0, word handle, BitVec.ofNat 64 (s.sysWord x.id (handle + 8) / 128 * 128), word (x.imgAddr k + 0x2A0),
    word (x.imgAddr k + 0x2A8), [], []⟩
  { r with recIx := k, handle := BitVec.ofNat 64 handle, recs := (List.range n).map (fun i => bits h (128 + 23 * i) 23), slots := List.range n }

/-- The section at an address of a context's section region. What a registration or a link keeps beside its section stands on the
device; a section of no kind is none (log 36). -/
def State.readSection (s : State) (x : Ctx) (addr : Nat) : Option SavedSec :=
  let h := leNat (s.sysRead x.id addr 64)
  let c := bits h 8 18
  match bits h 0 8 with
  | 1 => some (.tile (bits h 8 16) (bits h 24 2) (s.readTile x.id addr h) ((List.range 64).filterMap (fun r =>
    if bit1 h (258 + 3 * r) then some (r, 4 * bits h 8 16 + bits h (256 + 3 * r) 2) else none)))
  | 2 => some (.bslot (bits h 8 16) (bits h 24 3) (s.readSlot x.id addr h))
  | 3 =>
    let kept := x.sections.findSome? (fun sec => match sec with
      | .handler d r rows => if d = c then some (r, rows) else none
      | _ => none)
    some (.handler c (s.readRegistration x h (kept.map Prod.fst)) ((kept.map Prod.snd).getD []))
  | 4 =>
    let l := Fin.ofNat 4 (bits h 26 2)
    let outs := x.sections.findSome? (fun sec => match sec with
      | .runnel d _ m _ _ _ outs => if d = c ∧ m = l then some outs else none
      | _ => none)
    some (.runnel c (BitVec.ofNat 8 (bits h 64 8)) l (bits h 32 23) (Fin.ofNat 64 (bits h 72 6))
      ((List.range (min 8 (bits h 28 4))).map (fun i => BitVec.ofNat 64 (s.sysWord x.id (addr + 64 + 8 * i)))) (outs.getD []))
  | 5 => some (.sram c (bits h 26 3) addr)
  | _ => none

/-- The sections from an address on. -/
def State.readSections (s : State) (x : Ctx) : Nat → Nat → List SavedSec
  | 0, _ => []
  | n + 1, addr => match s.readSection x addr with
    | some sec => sec :: s.readSections x n (addr + sec.size)
    | none => []

/-- The rows that the tiles of a core's quad list as awaiting its handler: in the order and with the cookies of the rows that the device
keeps, then those of which it keeps nothing, their cookies free values (R326, log 36). -/
def State.listedRows (s : State) (x : Ctx) (secs : List SavedSec) (core : Nat) (kept : List DrainedRow) : List DrainedRow :=
  let listed : List DrainedRow := secs.flatMap (fun sec => match sec with
    | .tile q i t ws => if q = core / 4 then (ws.filter (fun w => decide (w.2 = core))).map (fun w =>
        ⟨core, x.id, (t.holder.getD (0, 0)).2, i, w.1, (t.row w.1).status, (t.row w.1).vals,
          BitVec.ofNat 64 (leNat ((List.range 8).map (fun b => Config.externalByte s.freeCtr (64 * i + w.1 + 256 * b))))⟩) else []
    | _ => [])
  let same (a b : DrainedRow) : Bool := decide (a.tile = b.tile ∧ a.row = b.row)
  kept.filterMap (fun r => (listed.find? (same r)).map (fun l => { l with cookie := r.cookie })) ++
    listed.filter (fun l => !kept.any (same l))

/-- Sections as they come back from memory, each registration with the rows that await its handler. -/
def State.withRows (s : State) (x : Ctx) (secs : List SavedSec) : List SavedSec :=
  secs.map (fun sec => match sec with
    | .handler c h rows => .handler c h (s.listedRows x secs c rows)
    | sec => sec)

/-- Sections to be saved, each tile with the rows that await a handler of its quad. -/
def SavedSec.listRows (secs : List SavedSec) : List SavedSec :=
  secs.map (fun sec => match sec with
    | .tile q i t _ => .tile q i t (secs.flatMap (fun other => match other with
        | .handler c _ rows => (rows.filter (fun r => decide (c / 4 = q ∧ r.tile = i))).map (fun r => (r.row, c))
        | _ => []))
    | sec => sec)

/-- Whether a section keeps something on the device that it has no room for (log 36). -/
def SavedSec.beside : SavedSec → Bool
  | .handler _ _ _ | .runnel _ _ _ _ _ _ _ => true
  | _ => false

/-- The words of a run of a context's memory that are poisoned, by their offset from its start in words. -/
def State.sysMarks (s : State) (ctx addr n : Nat) : List Nat :=
  ((s.sysPieces ctx addr n).getD []).flatMap (fun x => match x.loc with
    | .global pa _ _ =>
      ((wordsOf pa x.n).filter (fun w => decide (w ∈ (s.mem.recall (blockOf pa)).poison))).map (fun w => (x.addr + 8 * w - pa - addr) / 8)
    | .sram _ _ => [])

/-- Marks a word of a context's memory poisoned: the mark travels with a copy (R315). -/
def State.sysMark (s : State) (ctx addr : Nat) : State :=
  match s.sysPieces ctx addr 8 with
  | some (⟨_, .global pa _ _, _⟩ :: _) =>
    if s.dev.paKind pa = .hbm then
      s.modMem (fun m => { m.dropOthers none (blockOf pa) with poison := insertN (pa / 8) (m.dropOthers none (blockOf pa)).poison })
    else s
  | _ => s

/-- Writes units of a scratchpad into its section, with the marks of their poisoned words (R315, R326). -/
def State.writeUnits (s : State) (ctx addr : Nat) (units : List (List Byte × List Nat)) : State :=
  ((List.range units.length).zip units).foldl (fun s u =>
    let a := addr + 64 + 16640 * u.1
    u.2.2.foldl (fun s w => s.sysMark ctx (a + 8 * w)) (s.sysWrite ctx a u.2.1)) s

/-- Puts the scratchpads of a context into their sections and clears them (R192, R326). -/
def State.saveSrams (s : State) (ctx addr : Nat) : List SavedSec × Nat × State :=
  (s.cores.filterMap (fun c => if 0 < c.2.sps ∧ c.2.own = ctx then some (c.1, c.2.sps) else none)).foldl
    (fun p x =>
      let sec := SavedSec.sram x.1 x.2 p.2.1
      let s1 := (p.2.2.writeSection ctx p.2.1 sec).writeUnits ctx p.2.1 ((List.range x.2).map (fun u =>
        (p.2.2.unitBytes x.1 u, p.2.2.unitMarks x.1 u)))
      (p.1 ++ [sec], p.2.1 + sec.size,
       (s1.modMem (fun m => m.clearUnits x.1 0 x.2)).setSplit x.1 0 0)) ([], addr, s)

/-- The in-use bitmap with the bits of these records set (R343). -/
def State.writeBitmap (s : State) (x : Ctx) (ks : List Nat) : State :=
  let a := s.sysWord x.id (x.save.toNat + 8)
  (List.range ((x.cpsz + 63) / 64)).foldl (fun s w =>
    s.sysPut x.id (a + 8 * w) ((ks.filter (fun k => decide (k / 64 = w))).foldl (fun n k => n + 2 ^ (k % 64)) 0)) s

/-- The threads that wait for a context's drain complete, after an acquire at host scope (R341). -/
def State.wakeDrain (s : State) (ctx : Nat) : State :=
  let ws := s.cores.flatMap (fun c => (List.range 16).filterMap (fun i =>
    match s.threadAt c.1 i with
    | some t => match t.wait with
      | some (.drain x d) => if x = ctx then some (c.1, i, d) else none
      | _ => none
    | none => none))
  ws.foldl (fun s p =>
    (s.pushReceived (.slot p.1 p.2.1) p.2.2 (fun _ => 0)).completeParty (.slot p.1 p.2.1) (some .host) (fun t =>
      Thread.receive p.2.2 0 true t)) s

/-- The units of a scratchpad's section: their bytes and bits, and their poisoned words. -/
def State.savedUnits (s : State) (ctx addr sps : Nat) : List (List Byte × List Nat) :=
  (List.range sps).map (fun u =>
    let a := addr + 64 + 16640 * u
    (s.sysRead ctx a 16640, s.sysMarks ctx a 16384))

/-- The scratchpads that a context's earlier drain saved and that still wait to be put back, with their units. -/
def State.keptSrams (s : State) (x : Ctx) : List (Nat × Nat × List (List Byte × List Nat)) :=
  x.sections.filterMap (fun sec => match sec with
    | .sram c sps a => some (c, sps, s.savedUnits x.id a sps)
    | _ => none)

/-- Writes scratchpads that still wait into the section region again, from an address on. -/
def State.moveSrams (s : State) (ctx addr : Nat) (ks : List (Nat × Nat × List (List Byte × List Nat))) : List SavedSec × State :=
  let r := ks.foldl (fun (p : List SavedSec × Nat × State) k =>
    let sec := SavedSec.sram k.1 k.2.1 p.2.1
    (p.1 ++ [sec], p.2.1 + sec.size, (p.2.2.writeSection ctx p.2.1 sec).writeUnits ctx p.2.1 k.2.2)) ([], addr, s)
  (r.1, r.2.2)

/-- The end of a drain: threads, sections, scratchpads saved; the context drained (R328 steps 3 to 6). -/
def State.finishDrain (s : State) (x : Ctx) : State :=
  let rs := s.residents x.id
  let idle := s.idleRecords x
  let spilled := ((x.recs.filter (fun r => !r.retiring)).map (fun r => r.k)).filter (fun k =>
    decide (k ∉ idle) && !rs.any (fun p => decide (p.2.2.recIx = k)))
  let s1 := rs.foldl (fun s p => s.stopSlot p.1 p.2.1) s
  let s2 := spilled.foldl (fun s k => s.drainRecord x k) s1
  let (rsecs, s2b) := s2.saveRunnels x.id
  let s3 := (s2b.residents x.id).foldl (fun s p => s.drainSlot p.1 p.2.1) s2b
  let js := (x.recs.filterMap (fun r => r.launch.map Prod.fst)).eraseDups
  let s4 := js.foldl (fun s j => s.regroupLaunch x.id j) s3
  let (qsecs, s5) := s4.saveQuads x.id
  let (hsecs, s6) := s5.saveHandlers x.id
  let waiting := x.sections.filter (fun sec => !sec.isSram)
  let kept := s6.keptSrams x
  let secs := SavedSec.listRows (waiting ++ qsecs ++ hsecs ++ rsecs)
  let base := s6.sysWord x.id (x.save.toNat + 0x10)
  let used := (secs.map SavedSec.size).sum
  let s7 := s6.writeSections x.id base secs
  let (ssecs, next, s7b) := s7.saveSrams x.id (base + used)
  let (ksecs, s8) := s7b.moveSrams x.id next kept
  let live := match s8.ctxOf x.id with
    | some y => ((y.recs.filter (fun r => !r.retiring)).map (fun r => r.k)).filter (fun k => decide (k ∉ idle))
    | none => []
  let s9 := (s8.sysPut x.id x.save.toNat (secs ++ ssecs ++ ksecs).length).writeBitmap x live
  let s10 := { s9 with ready := s9.ready.filter (fun f => decide (f.ctx ≠ x.id)) }
  let s11 := ((rs.map Prod.fst).eraseDups).foldl (fun s c => s.release c .dev) s10
  ((s11.modCtx x.id (fun y => { y with sections := secs.filter SavedSec.beside })).setRstate x.id 3).wakeDrain x.id

/-- CONTEXT_DRAINED (R328): once every thread of a draining context can be taken and its engines have finished. -/
def execContextDrained (ctx : Nat) (s : State) : Out :=
  match s.ctxOf ctx with
  | some x =>
    if x.rstate = 2 && s.enginesDone ctx && (s.residents ctx).all (fun p => p.2.2.drainable) then .next (s.finishDrain x)
    else .next s
  | none => .next s

/-! ## Retiring and loading a context (R330, R342, R343) -/

/-- Words of a sector that go to memory poisoned leave a record each, charged to its owner (R317). -/
def State.notePoisoned (s : State) (owner ctx2 : Nat) (words : List Nat) : State :=
  words.foldl (fun s w => s.errRecord { kind := 0x03, code := 0x0F, ctx := owner, ctx2 := ctx2, addr := 8 * w }) s

/-- A sector written back to HBM, and kept clean (R196, R317). -/
def State.cleanSector (s : State) (x : Sector) (ctx2 : Nat) : State :=
  (s.modMem (fun m => { (m.writeBackSector x).putSector { x with dirty := [] } with lost := m.lost })).notePoisoned
    x.owner ctx2 x.badWords

/-- CTXSV of a drained context (R342). -/
def State.retireContext (s : State) (x : Ctx) : State :=
  let s1 := (s.mem.l2.filter (fun y => decide (y.owner = x.id ∧ y.dirty ≠ []))).foldl (fun s y => s.cleanSector y 0) s
  let s2 := s1.modMem (fun m => { m with tlb := m.tlb.filter (fun e => decide (e.ctx ≠ x.id)) })
  let s3 := s2.setRstate x.id 0
  { s3 with
    pending := s3.pending.filter (fun p => decide (p.ctx ≠ x.id))
    diePos := s3.diePos.filter (fun p => decide (p.1 / 16 ≠ x.id))
    ctxs := s3.ctxs.filter (fun y => decide (y.id ≠ x.id))
    saved := ⟨x.id, x.recs, x.sections⟩ :: s3.saved.filter (fun y => decide (y.id ≠ x.id)) }

/-- Where an engine cannot read a range of a context's memory whole: the physical address of a poisoned word, or the range's
address where no page maps it (log 23). A run whose marks travel with its words, as a scratchpad's unit, is read with them
(R315, log 36). -/
def State.unreadable (s : State) (ctx va n : Nat) (marked : Bool) : Option Nat :=
  match s.sysPieces ctx va n with
  | some ps => if marked then none else s.homePoison ps
  | none => some va

/-- The records whose bits the in-use bitmap has set (R343). -/
def State.bitmapRecords (s : State) (x : Ctx) : List Nat :=
  let a := s.sysWord x.id (x.save.toNat + 8)
  (List.range x.cpsz).filter (fun k => bit1 (s.sysWord x.id (a + 8 * (k / 64))) (k % 64))

/-- A saved thread's record goes to the ready flume of its affinity, or to the core that it must return to; its acquire is at dev
scope, or at a wider one that it owes already (R330). -/
def State.restoreRecord (s : State) (x : Ctx) (k : Nat) : State :=
  let r := s.recInfo x.id k
  let w := s.sysWord x.id (x.recAddr k + 0x10)
  let aff := match r.core with
    | some c => some c
    | none => if bit1 w 46 then none else some (bits w 28 18)
  let die := if r.die ∈ s.dev.diesUp then r.die else s.dev.diesUp.headD 0
  let acq := match r.acq with
    | some sc => if scopeRank sc < scopeRank .dev then .dev else sc
    | none => .dev
  (s.setRecInfo x.id { r with acq := some acq, die := die }).enqueueReady x.id aff die k

/-- The records that a section keeps for its registration. -/
def SavedSec.records : SavedSec → List Nat
  | .handler _ h _ => h.recs
  | _ => []

/-- A context is resident again (R330, R342): its records on their ready flumes, its quad state waiting for its turn, its
pending launches found; the retiring records stay out of the pool until their tokens end (R268). -/
def State.resume (s : State) (x : Ctx) : State :=
  let live := s.bitmapRecords x
  let secs := s.withRows x (s.readSections x (s.sysWord x.id x.save.toNat) (s.sysWord x.id (x.save.toNat + 0x10)))
  let kept := secs.flatMap SavedSec.records
  let retiring := x.recs.filter (fun r => r.retiring && decide (r.k ∉ live))
  let info (k : Nat) : RecInfo := ((x.recInfo k).filter (fun r => !r.retiring)).getD (RecInfo.new k none 0)
  let held := (live ++ kept).eraseDups.filter (fun k => !retiring.any (fun r => decide (r.k = k)))
  let y := { x with recs := held.map info ++ retiring, sections := secs, secsize := s.sysWord x.id (x.save.toNat + 0x18) }
  let s1 := s.setCtx y
  let s2 := live.foldl (fun s k => s.restoreRecord y k) s1
  let pend := ((List.range 16384).filter (fun j => decide (s2.launchState x.id j = 3))).map (fun j =>
    (⟨s2.dev.recordDie j, x.id, j⟩ : PendLaunch))
  State.setRstate { s2 with
    pending := s2.pending.filter (fun p => decide (p.ctx ≠ x.id)) ++ pend
    saved := s2.saved.filter (fun p => decide (p.id ≠ x.id)) } x.id 1

/-- What is read of a section at an address, after its header, to put it back: address, length, and whether poison marks travel. -/
def SavedSec.ranges (addr : Nat) : SavedSec → List (Nat × Nat × Bool)
  | .tile _ _ _ _ => [(addr + 64, 16384, false)]
  | .bslot _ _ b => if b.loaded && !(BDesc.ofNat b.desc.toNat).pin then [(addr + 64, 4352, false)] else []
  | .handler _ _ _ => []
  | .runnel _ _ _ _ _ ins _ => [(addr + 64, 8 * ins.length, false)]
  | .sram _ sps _ => (List.range sps).flatMap (fun u =>
    [(addr + 64 + 16640 * u, 16384, true), (addr + 16448 + 16640 * u, 256, false)])

/-- What is read of the sections from an address on. -/
def State.sectionRanges (s : State) (x : Ctx) : Nat → Nat → List (Nat × Nat × Bool)
  | 0, _ => []
  | n + 1, addr => (addr, 64, false) :: (match s.readSection x addr with
    | some sec => sec.ranges addr ++ s.sectionRanges x n (addr + sec.size)
    | none => [])

/-- What a CTXLD reads of a context's save area and pool, in this order: the header, the bitmap, the record and the image of
each set bit (of a FRESH record the part that it has), the sections (R326, R343). -/
def State.loadRanges (s : State) (x : Ctx) : List (Nat × Nat × Bool) :=
  let fresh (k : Nat) : Bool := bit1 (s.sysWord x.id (x.recAddr k + 0x10)) 6
  [(x.save.toNat, 64, false), (s.sysWord x.id (x.save.toNat + 8), 8 * ((x.cpsz + 63) / 64), false)] ++
    (s.bitmapRecords x).flatMap (fun k =>
      [(x.recAddr k, 64, false), if fresh k then (x.imgAddr k + 0x280, 72, false) else (x.imgAddr k, 3392, false)]) ++
    s.sectionRanges x (s.sysWord x.id x.save.toNat) (s.sysWord x.id (x.save.toNat + 0x10))

/-- A CTXLD that cannot read what it must: status 2, and a record that names what failed (R343). -/
def State.loadRefused (s : State) (c addr : Nat) : Nat × State :=
  (2, s.errRecord { kind := 0x02, code := 0x0F, ctx := c, addr := addr })

/-- CTXLD: the context as the device still has it or as its table entry gives it; refused where its records or its save area cannot
be read (R342, R343). -/
def State.loadContext (s : State) (c : Nat) : Nat × State :=
  let x := match s.ctxOf c with
    | some x => x
    | none =>
      let old := (s.saved.find? (fun y => decide (y.id = c))).getD ⟨c, [], []⟩
      { s.contextOf c with recs := old.recs, sections := old.sections }
  let s1 := s.setCtx x
  match (s1.loadRanges x).findSome? (fun r => s1.unreadable c r.1 r.2.1 r.2.2) with
  | none => (0, s1.resume x)
  | some a => s.loadRefused c a

/-! ## Quad state that waits (R285, R330) -/

/-- The bytes of a run of a context's memory as an engine reads them now; none where it may not. -/
def State.engineBytes (s : State) (ctx : Nat) (run : Nat × Nat) : Option (List Byte) :=
  match (s.engineAccess 0 ctx false .read run.1 run.2).1 with
  | .ok ps => if (s.homePoison ps).isSome then none else some (ps.flatMap s.peekPiece)
  | .error _ => none

/-- A slot as it is restored: a pinned one is loaded again from its sources, and not loaded where they cannot be read; the
checksum column of a loaded slot is computed again (R285, R326). -/
def State.reloadSlot (s : State) (ctx : Nat) (b : BSlot) : BSlot :=
  let d := BDesc.ofNat b.desc.toNat
  let column (es : List (List Nat)) := checksumColumn (tagWidth (dxTag d.fmt)) es
  if !b.loaded then { b with sums := [] }
  else if d.pin then
    match d.elemRuns.mapM (s.engineBytes ctx), d.pairRuns.mapM (s.engineBytes ctx) with
    | some es, some xs => { b with elems := d.codes es, pairs := d.exps xs, sums := column (d.codes es) }
    | _, _ => { b with loaded := false }
  else { b with sums := column b.elems }

/-- A scratchpad's bytes, bits and poison marks read back from its section (R315, R326). -/
def State.readUnits (s : State) (ctx core sps addr : Nat) : State :=
  let units := s.savedUnits ctx addr sps
  ((List.range sps).zip units).foldl (fun s u =>
    let s1 := s.modMem (fun m => m.sramWrite core (bytesAt (16384 * u.1) (u.2.1.take 16384)))
    let bitsB := u.2.1.drop 16384
    let s2 := (List.range 2048).foldl (fun s w =>
      s.setFull (.sram core (16384 * u.1 + 8 * w)) (bit1 (bitsB.getD (w / 8) 0).toNat (w % 8))) s1
    s2.modMem (fun m => u.2.2.foldl (fun m w =>
      m.putSram { m.sram core with poison := insertN (2048 * u.1 + w) (m.sram core).poison }) m)) s

/-- Restores one section where its place is free; none where it must wait: for another holder, and a pinned slot for the
scratchpads, from which it may be loaded (R285, R330). -/
def State.restoreSection (s : State) (x : Ctx) (sec : SavedSec) : Option State :=
  match sec with
  | .tile q i t _ =>
    if ((s.quad q).tile i).holder.isSome then none else some (s.setQuad q ((s.quad q).modTile i (fun _ => t)))
  | .bslot q i b =>
    if ((s.quad q).bslot i).holder.isSome || ((BDesc.ofNat b.desc.toNat).pin && x.sections.any SavedSec.isSram) then none
    else some (s.setQuad q ((s.quad q).modBslot i (fun _ => s.reloadSlot x.id b)))
  | .handler c h rows =>
    if (s.core c).handler.isSome ∨ (s.freeSlots c).length < h.slots.length then none
    else
      let slots := (s.freeSlots c).take h.slots.length
      let s1 := s.reserve c slots true
      let s2 := s1.setCore c { s1.core c with handler := some { h with slots := slots } }
      let q := s2.quad (c / 4)
      some (s2.setQuad (c / 4) { q with drained := q.drained ++ rows })
  | .runnel c ld l _ _ ins outs =>
    let s1 := s.setCore c { s.core c with ldir := ld }
    if s.foreignLink c x.id || !s1.runnelRoom (s1.linkIn c l) ins.length || !s1.runnelRoom (s1.linkOut c l) outs.length then none
    else
      some ((s1.giveEntries x.id (s1.linkIn c l) ins).giveEntries x.id (s1.linkOut c l) outs)
  | .sram c sps addr =>
    if 0 < (s.core c).sps ∧ (s.core c).own ≠ x.id then none
    else some ((s.setSplit c sps x.id).readUnits x.id c sps addr)

/-- QUAD_STATE_RESTORE (R330): a section that waits is put back. -/
def execQuadStateRestore (ctx k : Nat) (s : State) : Out :=
  match s.ctxOf ctx with
  | some x =>
    match x.sections[k]? with
    | some sec =>
      if x.rstate = 1 then
        match s.restoreSection x sec with
        | some s1 => .next (s1.modCtx ctx (fun y => { y with sections := y.sections.eraseIdx k }))
        | none => .next s
      else .next s
    | none => .next s
  | none => .next s

/-! ## Commands (R339, R340) -/

/-- The status of a context command before it is carried out; `own` is the issuing thread's context (R340). -/
def State.commandStatus (s : State) (cmd : CtxCmd) (own : Option Nat) (a : Int) : Nat :=
  if a < 0 ∨ 4095 < a then 4
  else
    let c := a.toNat
    let r := s.rstate c
    if !bit1 (s.tableWord c 0) 0 then 2
    else if cmd = .preempt ∧ own = some c then 3
    else if cmd = .ctxld ∧ 64 ≤ s.ctxs.length ∧ ¬(r = 3 ∧ (s.ctxOf c).isSome) then 5
    else
      let ok := match cmd with
        | .preempt => decide (r = 1) && (s.ctxOf c).isSome
        | .ctxsv => decide (r = 3) && (s.ctxOf c).isSome
        | .ctxld => decide (r = 0 ∨ r = 3)
      if ok then 0 else 1

/-- Where a CTXLD cannot read the table entry that decides its status (R343). -/
def State.commandBad (s : State) (cmd : CtxCmd) (a : Int) : Option Nat :=
  if cmd = .ctxld ∧ 0 ≤ a ∧ a ≤ 4095 then s.entryBad a.toNat else none

/-- A context command at the controller: its status, and its effect when it is accepted (R339 to R343). -/
def State.command (s : State) (cmd : CtxCmd) (own : Option Nat) (a : Int) : Nat × State :=
  match s.commandBad cmd a, s.commandStatus cmd own a with
  | some addr, _ => s.loadRefused a.toNat addr
  | none, 0 =>
    match cmd with
    | .preempt => (0, s.startDrain a.toNat)
    | .ctxsv => (0, match s.ctxOf a.toNat with | some x => s.retireContext x | none => s)
    | .ctxld => s.loadContext a.toNat
  | none, x => (x, s)

/-- APPLICATION_CORE_CONTEXT_COMMAND (R339, R375): a command from an application core or the host port, once the device is ready;
contexts are loaded in stage 4. -/
def execApplicationCoreContextCommand (cmd : CtxCmd) (ctx : Nat) (s : State) : Out :=
  if s.dev.bootState = 1 then .next ((s.modDev Device.beginStage4).command cmd none ctx).2 else .next s

end Sys2Proof.Machine
end

