-- ==== Sys2Proof/Machine/System.lean ====
section
/-! DEFINITION. System: the instructions of major 0x21 and the firmware expansions (R87, R324, R331, R337 to R349). -/

namespace Sys2Proof.Machine
open Sys2Proof

/-! ## COMMIT (R331, R338) -/

/-- CMT of a restartable thread set; any other thread left as it is (R331). -/
def Thread.commit (t : Thread) : Thread := if t.rsl && !t.cmt then { t with cmt := true } else t

/-- COMMIT (R331, R338): once the thread's long-latency instructions have completed. -/
def execCommit (s : State) : Out :=
  match s.quieted with
  | none => s.again
  | some s1 => (s1.modThr Thread.commit).done

/-! ## Context commands (R339 to R343) -/

/-- The Z of a status: 1 for status 0 (R340). -/
def zStatus (x : Nat) (f : FlagWrite) : FlagWrite := { f with z := some (decide (x = 0)) }

/-- A context command of a thread: the core releases at host scope, the controller performs the command, its status goes to
`d` (R339, R340). A PREEMPT that is accepted with `wait` parks until the drain has ended (R341). -/
def State.contextCommand (s : State) (cmd : CtxCmd) (d a : Name) (wait : Bool) : Out :=
  s.guarded { sys := true, reads := ints [a], writes := ints [d] } (fun s =>
    let s1 := s.release s.cur.1 .host
    let (x, s2) := s1.command cmd (some s1.thr.ctx) (s1.val a)
    if wait && decide (x = 0) then .next (s2.park [a] (.drain (s.val a).toNat d))
    else s2.narrowAfter [a] d x (zStatus x))

/-- CTXSV (R342). -/
def execCtxsv (d a : Name) (s : State) : Out := s.contextCommand .ctxsv d a false

/-- CTXLD (R342, R343). -/
def execCtxld (d a : Name) (s : State) : Out := s.contextCommand .ctxld d a false

/-- PREEMPT (R341). -/
def execPreempt (d a : Name) (md : Bool) (s : State) : Out := s.contextCommand .preempt d a md

/-! ## UNFREEZE (R324, R344) -/

/-- What a master identity names: a thread slot, another master of the device, or nothing (R322). -/
inductive MasterName where
  | slot (core slot : Nat)
  | other (m : Master)
  | nothing
deriving DecidableEq, Repr

/-- The master of an identity (R322, R344). -/
def State.masterNamed (s : State) (x : Nat) : MasterName :=
  let num := bits x 8 18
  let slot := bits x 4 4
  if x / 2 ^ 26 ≠ 0 then .nothing
  else
    match bits x 0 4 with
    | 0 => if s.dev.isCore num then .slot num slot else .nothing
    | 1 => if slot = 0 ∧ num / 512 ∈ s.dev.stacksUp then .other (.headworks num) else .nothing
    | 2 => if slot = 0 ∧ num = 0 then .other .hostPort else .nothing
    | 3 => if slot = 0 ∧ num < 12 then .other (.aqueduct num) else .nothing
    | 4 => if slot = 0 ∧ num < 16 then .other (.appCore num) else .nothing
    | 5 => if slot = 0 ∧ num < 32 then .other (.schedCore num) else .nothing
    | _ => .nothing

/-- UNFREEZE of a thread slot, action 1: the held trap enters the handler, or freezes the slot again under cause 2
(R324). -/
def State.retryTrap (s : State) (c i : Nat) (t : Thread) (h : HeldTrap) : State :=
  match s.writeTrapRecord c i t h with
  | some s1 => s1.putThread c i (t.enterHandler h)
  | none =>
    let (s1, t1) := s.freeze c i t h 2 (t.traprec.toNat / 64 * 64)
    s1.putThread c i t1

/-- A firmware expansion that has got to a step, with what it had gathered dropped: what the record of its trap tells (R333). -/
def Expansion.at (k : Nat) : Expansion := ⟨k, Pending.none, []⟩

/-- A thread of a draining context whose held trap is to be taken once it is restored (R344). -/
def Thread.trapOnRestore (t : Thread) (h : HeldTrap) : Thread :=
  { t with frozen := none, pendTrap := some h.trap, privl := { t.privl with tact := false }, rep := h.rep
           ir := ⟨h.word, 2 * h.ilen, .absent⟩, exp := h.exp.map Expansion.at }

/-- UNFREEZE of a frozen thread slot (R21, R324, R344): whether it has ended; before a trap is entered the thread's windows must
complete, and its QUIT may have to wait for the noria. -/
def State.unfreezeSlot (s : State) (c i : Nat) (t : Thread) (h : HeldTrap) (action : Nat) : Bool × State :=
  match action with
  | 0 => (true, s.putThread c i { t with frozen := none })
  | 1 =>
    if s.rstate t.ctx = 2 then (true, s.putThread c i (t.trapOnRestore h))
    else if t.quiet then
      let (s1, t1) := s.landAll t
      (true, s1.retryTrap c i t1 h)
    else (false, s)
  | _ =>
    match s.quitNoria c t with
    | (false, s1) => (false, s1.modThread c i Thread.handlerDone)
    | (true, s1) => (true, s1.endThread c i t)

/-- The entry of a base die's flume table loses its V bit, and the flume its registration (R324). -/
def State.removeFlume (s : State) (fcb base entry : Nat) : State :=
  let s1 := { s with copyOwners := s.copyOwners.filter (fun p => decide (p.1 ≠ fcb)) }
  match s1.cftEntryPa base entry with
  | none => s1
  | some pa => s1.levelWrite .home 0 0 (bytesAt pa (leBytes 8 (setBits (leNat (s1.mem.homePeek pa 8)) 0 1 0)))

/-- A request that a frozen master held is made again (R324, R360). -/
def State.retryHeld (s : State) (m : Master) (q : HeldReq) : State :=
  match q, m with
  | .bus r, .aqueduct p => s.portRequest p r
  | .bus r, _ => s.hostRequest r
  | .offtake a, .aqueduct p => s.portOfftake p a
  | .flume fcb enq r, _ => s.flumeRequest fcb enq r
  | .regs off v, .appCore n => s.agentWrite (.appCore n) off v
  | .regRead off, .appCore n => s.agentRead (.appCore n) off
  | _, _ => s

/-- The packets that a headworks core runs complete with error 0x04 (R324). -/
def State.failPackets (s : State) (core : Nat) : State :=
  { s with packets := s.packets.map (fun p =>
      if p.core = core ∧ !p.collective then
        { p with phase := if p.phase = .srcDone then .srcDone else .executed, updates := [], err := if p.err = 0 then 4 else p.err }
      else p) }

/-- UNFREEZE of another master: what it holds is retried, in the order in which it came, or dropped (R324, R360). -/
def State.unfreezeMaster (s : State) (x : FrozenMaster) (action : Nat) : State :=
  let s1 := { s with frozenMasters := s.frozenMasters.filter (fun y => decide (y.master ≠ x.master)) }
  if action = 0 then (x.req :: x.later).foldl (fun s q => s.retryHeld x.master q) s1
  else
    let s2 := match x.master with
      | .headworks n => s1.failPackets n
      | _ => s1
    match x.req with
    | .service fcb base entry => s2.removeFlume fcb base entry
    | _ => s2

/-- UNFREEZE at the controller: its status, none while it must wait, and its effect (R344). -/
def State.unfreeze (s : State) (x action : Nat) : Option Nat × State :=
  match s.masterNamed x with
  | .nothing => (some 2, s)
  | .slot c i =>
    match s.threadAt c i with
    | some t =>
      match t.frozen with
      | some h =>
        match s.unfreezeSlot c i t h action with
        | (true, s1) => (some 0, s1)
        | (false, s1) => (none, s1)
      | none => (some 1, s)
    | none => (some 1, s)
  | .other m =>
    match s.frozenMaster m with
    | some f => (some 0, s.unfreezeMaster f action)
    | none => (some 1, s)

/-- UNFREEZE (R324, R344). -/
def execUnfreeze (d a : Name) (action : Fin 3) (s : State) : Out :=
  s.guarded { sys := true, reads := ints [a], writes := ints [d] } (fun s =>
    match s.unfreeze (s.ext a) action.val with
    | (none, s1) => s1.again
    | (some x, s1) => s1.narrowAfter [a] d x (zStatus x))

/-! ## ERRPOP (R345) -/

/-- The bytes of the record at the head of the error ring, read at their home, as a number (R319). -/
def State.headRecord (s : State) : Nat × State :=
  let d := s.dev
  let (bs, s1) := s.levelRead .home 0 (d.errBase.toNat * 4096 + 64 * (d.errHead.toNat % 2 ^ d.errLogn)) 64
  (leNat bs, s1)

/-- ERRPOP (R345): the oldest record goes to `b`, which a user thread may take only when it is charged to its context. -/
def execErrpop (d : Name) (b : VReg) (s : State) : Out :=
  s.guarded { writes := ints [d], vwrites := [b] } (fun s =>
    let n := (s.dev.errTail - s.dev.errHead).toNat
    let stay (s : State) : Out := s.narrowAfter [] d n (fun f => { f with z := some false })
    if n = 0 then stay s
    else
      let (r, s1) := s.headRecord
      if !s1.thr.privl.priv && decide (bits r 16 12 ≠ s1.thr.ctx) then stay s1
      else
        let s2 := s1.modThr (fun t => t.setVreg b ⟨BitVec.ofNat 512 r, 0, .raw⟩)
        (s2.modDev (fun d => { d with errHead := d.errHead + 1 })).narrowAfter [] d n (fun f => { f with z := some true }))

/-! ## The device timebase (R346 to R348) -/

/-- The timebase after an accepted DTSET; none where it is refused (R346). -/
def Device.timeSet (d : Device) (md : Nat) (x : Int) : Option Device :=
  let steps := min (d.timeSteps + 1) (2 ^ 32 - 1)
  if d.follower then none
  else
    match md with
    | 0 => some { d with timebase := toWord x, timeSteps := steps }
    | 1 => some { d with timebase := d.timebase + toWord x, timeSteps := steps }
    | _ => if -1000000 ≤ x ∧ x ≤ 1000000 then some { d with trim := x } else none

/-- DTSET (R346). -/
def execDtset (d a : Name) (md : Fin 3) (s : State) : Out :=
  s.guarded { sys := true, reads := ints [a], writes := ints [d] } (fun s =>
    let was : Int := s.dev.timebase.toNat
    match s.dev.timeSet md.val (s.val a) with
    | none => s.narrowAfter [a] d was (fun f => { f with z := some false })
    | some dev => State.narrowAfter { s with dev := dev } [a] d was (fun f => { f with z := some true }))

/-- What DTGET reads (R348). -/
def Device.timeItem (d : Device) : Nat → Int
  | 0 => d.timebase.toNat
  | 1 => d.trim
  | 2 => d.follower.toNat
  | 3 => if d.follower then d.timeOffset else 0
  | _ => d.timeSteps

/-- DTGET (R348). -/
def execDtget (d : Name) (item : Fin 5) (s : State) : Out :=
  s.alu { writes := ints [d] } d (fun s => s.dev.timeItem item.val)

/-! ## SPILL (R349) -/

/-- Whether SPILL refuses a slot of the issuing core (R349). -/
def State.spillRefused (s : State) (i : Int) : Bool :=
  let core := s.cur.1
  if i < 0 ∨ 15 < i ∨ i.toNat = s.cur.2 then true
  else
    match s.threadAt core i.toNat with
    | none => true
    | some t => t.frozen.isSome || t.out || s.pinned core t || t.retry.isSome ||
      (match t.wait with | some w => !w.spillable && !w.answer | none => false)

/-- A thread of a core written back to its record: it keeps its place in its wait list, or goes to the ready flume of its
affinity (R139, R349). -/
def State.spillThread (s : State) (c i : Nat) (t : Thread) : State :=
  let s1 := s.spillNow c i .die
  if t.wait.isSome then s1 else s1.enqueueReady t.ctx t.aff (s.dev.dieOf c) t.recIx

/-- SPILL (R349): it waits until the thread stands at a boundary, its instruction complete. -/
def execSpill (d a : Name) (s : State) : Out :=
  s.guarded { sys := true, reads := ints [a], writes := ints [d] } (fun s =>
    if s.spillRefused (s.val a) then s.narrowAfter [a] d 1 (zStatus 1)
    else
      match s.threadAt s.cur.1 (s.val a).toNat with
      | none => s.narrowAfter [a] d 1 (zStatus 1)
      | some t =>
        if t.placing || !t.quiet || t.wait.any Wait.answer then s.again
        else (s.spillThread s.cur.1 (s.val a).toNat t).narrowAfter [a] d 0 (zStatus 0))

/-! ## Firmware expansions (R87, R333, R386) -/

/-- A cause by its number (R29). -/
def causeOf (k : Nat) : Cause :=
  [.illegalInstruction, .mapFault, .widthOverflow, .divideByZero, .align, .pageFault, .protection, .spaceForeign, .spaceReserved,
    .tagMismatch, .flumeCorrupt, .waitExpired, .lookaheadViolation, .codeIntegrity, .uncorrectable, .matrixShape, .tokenFault,
    .breakpoint, .trapInstr, .privilege].getD k .illegalInstruction

/-- A free word. -/
def State.freeWord (s : State) : Word × State :=
  let (k, s1) := s.choose (2 ^ 64)
  (BitVec.ofNat 64 k, s1)

/-- A name that an expansion may write: declared, not bound, neither rp nor n63. -/
def Thread.plainName (t : Thread) (n : Name) : Bool :=
  decide (n ≠ 61 ∧ n ≠ 63 ∧ (t.name n).width ≠ 0 ∧ (t.name n).bind = .none)

/-- An effect that an expansion gathers: a name's pattern, a register in the layout of its tag (R68), the flags, the store of a byte; which, is firmware's: a
free value (R87, log 52). -/
def State.gatherEffect (s : State) (e : Expansion) (kind : Nat) : Expansion × State :=
  let (x, s1) := s.freeWord
  match kind with
  | 0 =>
    let n : Name := Fin.ofNat 64 (x.toNat / 2 ^ 32)
    let (v, s2) := s1.freeWord
    let p := BitVec.ofNat 64 (v.toNat % 2 ^ (s.thr.name n).width)
    (if s.thr.plainName n then { e with result := { e.result with names := e.result.names ++ [(n, p)] } } else e, s2)
  | 1 =>
    let (v, s2) := s1.choose (2 ^ 512)
    let (w, s3) := s2.freeWord
    let t := Sys2Proof.tagOf (bits x.toNat 8 4)
    let r : VRegVal := ⟨maskData t v, maskSide t w.toNat, t⟩
    ({ e with result := { e.result with vregs := e.result.vregs ++ [(Fin.ofNat 32 x.toNat, r)] } }, s3)
  | 2 =>
    let b (i : Nat) : Bool := bit1 x.toNat i
    let f : FlagWrite := ⟨some (b 0), some (b 1), some (b 2), some (b 3), b 4⟩
    ({ e with result := { e.result with flags := f } }, s1)
  | _ =>
    let (v, s2) := s1.choose 256
    ({ e with stores := e.stores ++ [(x, [BitVec.ofNat 8 v])] }, s2)

/-- The stores of an expansion, each checked as one of the thread's: where all of them lie, or the first failure. -/
def State.storesAt (s : State) : List (Word × List Byte) → Except Fail (List (List Piece × List Byte)) × State
  | [] => (.ok [], s)
  | (p, bs) :: rest =>
    match s.access s.thr s.cur.1 .write p.toNat bs.length 1 with
    | (.error f, s1) => (.error f, s1)
    | (.ok ps, s1) =>
      match s1.storesAt rest with
      | (.error f, s2) => (.error f, s2)
      | (.ok l, s2) => (.ok ((ps, bs) :: l), s2)

/-- An expansion ends: everything that it has gathered takes place at once, and the thread goes on, or, outside a repeat, goes
where the expansion sends it (R87). -/
def State.endExpansion (s : State) (e : Expansion) : Out :=
  match s.storesAt e.stores with
  | (.error f, s1) => s1.fail f
  | (.ok l, s1) =>
    let s2 := (l.foldl (fun s p => s.storePieces s.cur.1 p.1 p.2) s1).apply e.result
    let (k, s3) := s2.choose 2
    if k = 1 ∧ s3.thr.rep.isNone then
      let (pc, s4) := s3.freeWord
      .next (s4.modThr (fun t => t.jumpTo (evenPc pc)))
    else s3.done

/-- A fault inside an expansion: cause, address and words are firmware's, free values; the record has its step (R333). -/
def State.failExpansion (s : State) : Out :=
  let (k, s1) := s.choose 20
  let (a, s2) := s1.freeWord
  let (x0, s3) := s2.freeWord
  let (x1, s4) := s3.freeWord
  s4.trap ⟨causeOf k, a, x0, x1, false, false⟩

/-- A step of an installed expansion: it ends, it fails, or it gathers an effect (R87, R333). -/
def State.expansionStep (s : State) (e : Expansion) : Out :=
  let (k, s1) := s.choose 6
  match k with
  | 0 => s1.endExpansion e
  | 1 => s1.failExpansion
  | k =>
    let (e1, s2) := s1.gatherEffect e (k - 2)
    (s2.modThr (fun t => { t with exp := some { e1 with step := e1.step + 1 } })).again

/-- A word of major 0x3E or 0x3F (R87, R333): ILLEGAL_INSTRUCTION where the die's decode table installs nothing for the major; else
the next step of its expansion, which begins afresh after a trap, a drain or an asynchronous error. What an expansion does is
firmware's: each step is a free value (log 52). -/
def execFirmwareExpansion (major3F : Bool) (_operand : Nat) (s : State) : Out :=
  if s.expansionOn major3F then
    let e := s.thr.exp.getD ⟨0, Pending.none, []⟩
    (s.modThr (fun t => { t with exp := some e })).expansionStep e
  else s.trap illegal

end Sys2Proof.Machine
end

