-- ==== Sys2Proof/Machine/Events.lean ====
section
/-! DEFINITION. Events: the steps that engines take beside the instruction stream: completions, placements, spills,
transfers, evictions, flume requests from outside, errors (R17, R45, R61, R139, R141, R143, R160, R205, R225, R230, R231,
R316, R317, R334, R356). An event that names nothing that can happen leaves the machine as it is. -/

namespace Sys2Proof.Machine
open Sys2Proof

/-! ## Long-latency completion (R17) -/

/-- LONG_LATENCY_COMPLETION (R17): the k-th open window of a slot's thread completes, unless it awaits an answer. -/
def execLongLatencyCompletion (core slot k : Nat) (s : State) : Out :=
  match s.threadAt core slot with
  | none => .next s
  | some t =>
    match t.inflight[k]? with
    | none => .next s
    | some e =>
      if e.awaiting then .next s
      else
        let (s1, t1) := s.landOne t e
        .next (s1.putThread core slot t1)

/-! ## Repacking, placement, spilling (R45, R139, R141, R143) -/

/-- REPACK_OPERATION (R45, R46): the oldest operation of a core's queue. -/
def execRepackOperation (core : Nat) (s : State) : Out := .next (s.repackOne core)

/-- The slot into which a core may take a record: free and unreserved, or for a tailwater handler that returns, one of its
registration's (R141, R293, R330). -/
def State.slotFor (s : State) (core ctx k : Nat) : Option Nat :=
  if (s.recInfo ctx k).handler.isSome then
    match (s.core core).handler with
    | some h =>
      if h.ctx = ctx ∧ k ∈ h.recs then h.slots.find? (fun i => decide (((s.core core).slot i).occ = .free)) else none
    | none => none
  else s.freeSlotOf core

/-- The contexts in a core's turn order: ascending from the one after the last, wrapping (R143). Contexts that are draining,
or whose quad state waits there, take no part (R328, R330). -/
def State.placementOrder (s : State) (core : Nat) : List Nat :=
  let ids := ((s.ctxs.filter (fun x => decide (x.rstate = 1) && !s.waitsFor x core)).map (fun x => x.id)).foldr insertN []
  let last := (s.core core).lastCtx
  ids.filter (fun c => decide (last < c)) ++ ids.filter (fun c => decide (c ≤ last))

/-- What a core would take next: the context, whether from its own ready flume, the record, the slot (R141, R143). -/
def State.nextTake (s : State) (core : Nat) : Option (Nat × Bool × Nat × Nat) :=
  (s.placementOrder core).findSome? (fun c =>
    let pick (own : Bool) : Option (Nat × Bool × Nat × Nat) :=
      match (s.readyRecs c (if own then some core else none) (s.dev.dieOf core)).head? with
      | some k => (s.slotFor core c k).map (fun i => (c, own, k, i))
      | none => none
    match pick true with
    | some r => some r
    | none => pick false)

/-- The core to which the head of a die's ready flume goes: the first that may take it, after the one that took the last (R143);
while none has, the search begins at core 0 (log 105). -/
def State.dieTaker (s : State) (ctx die : Nat) : Option Nat :=
  let n := 4 * s.dev.quadCount
  let from_ := match s.diePos.find? (fun p => decide (p.1 = 16 * ctx + die)) with
    | some p => p.2 + 1
    | none => 0
  ((List.range n).map (fun i => (from_ + i) % max 1 n)).find? (fun c => decide (s.dev.dieOf c = die) &&
    (match s.nextTake c with | some (x, own, _, _) => decide (x = ctx) && !own | none => false))

/-- RECORD_PLACEMENT (R141, R143). -/
def execRecordPlacement (core : Nat) (s : State) : Out :=
  if s.dev.isCore core then
    match s.nextTake core with
    | none => .next s
    | some (c, own, k, i) =>
      if own || decide (s.dieTaker c (s.dev.dieOf core) = some core) then .next (s.takeReady core i c own k) else .next s
  else .next s

/-- Whether a ready flume of a core or of its die holds a record, of whatever context (R139). -/
def State.readyWaits (s : State) (core : Nat) : Bool :=
  s.ready.any (fun f => !f.recs.isEmpty && (match f.core with
    | some c => decide (c = core)
    | none => decide (f.die = s.dev.dieOf core)))

/-- The spillable thread of a core that parked earliest, and its slot (R138, R139). -/
def State.earliestParked (s : State) (core : Nat) : Option (Nat × Thread) :=
  s.parkOrder.findSome? (fun p =>
    if p.1 ≠ core then none
    else
      match s.threadAt core p.2 with
      | some t => if s.spillable core t then some (p.2, t) else none
      | none => none)

/-- PARKED_THREAD_SPILL (R46, R139): the spill is queued at the repack engine. A thread with a window that awaits an answer
is spilled after the answer (log 91). -/
def execParkedThreadSpill (core : Nat) (s : State) : Out :=
  if s.readyWaits core && (s.freeSlotOf core).isNone then
    match s.earliestParked core with
    | some (i, t) =>
      let c := s.core core
      let op := RepackOp.spill i t.ctx t.recIx
      if t.quiet && decide (op ∉ c.repackq) then .next (s.setCore core { c with repackq := c.repackq ++ [op] })
      else .next s
    | none => .next s
  else .next s

/-! ## Runnels (R160) -/

/-- The state as seen from a thread in its slot. -/
def State.seenFrom (s : State) (core slot : Nat) (t : Thread) : State := { s with cur := (core, slot), thr := t }

/-- RUNNEL_TRANSFER (R160, R162): once every runnel that a parked instruction pops holds an entry of its context, entries of others
at their heads discarded, and every runnel that it pushes has room, the thread is parked no longer; its pops and pushes take
place together in its slot's next turn (log 53). -/
def execRunnelTransfer (core slot : Nat) (s : State) : Out :=
  match s.threadAt core slot with
  | some t =>
    match t.wait with
    | some (.runnel rs ws) =>
      let v := (s.seenFrom core slot t).clearForeign rs
      let s1 := { v with cur := s.cur, thr := s.thr }
      if v.runnelsReady rs ws then .next ((s1.putThread core slot { t with wait := none }).unparkOrder core slot) else .next s1
    | _ => .next s
  | none => .next s

/-! ## Evictions (R205, R317) -/

/-- L1_EVICTION (R205, R221). -/
def execL1Eviction (core line : Nat) (s : State) : Out := .next (s.evictLine core line)

/-- L2_SECTOR_EVICTION (R196, R317): dirty bytes go home, words that are poisoned reach memory so and leave a record charged
to the sector's owner. Which context's access caused the eviction is a free value (log 5). -/
def execL2SectorEviction (die block : Nat) (s : State) : Out :=
  match s.mem.sector die block with
  | none => .next s
  | some x =>
    let (other, s0) := if x.badWords.isEmpty then (0, s) else s.choose 4096
    .next ((s0.cleanSector x other).modMem (fun m =>
      { m with l2 := m.l2.filter (fun y => decide (¬(y.die = die ∧ y.block = block))) }))

/-! ## Reservations (R225) -/

/-- RESERVATION_ADMISSION (R225). -/
def execReservationAdmission (home : ResHome) (s : State) : Out := .next (s.admitNext home)

/-! ## Limits (R231) -/

/-- FLUME_WAIT_EXPIRY (R231): the limit of the k-th limited waiter of a flume. -/
def execFlumeWaitExpiry (fcb k : Nat) (s : State) : Out :=
  match (s.flumeWaits.filter (fun w => decide (w.fcb = fcb) && w.limited))[k]? with
  | some w => .next (s.flumeExpire w)
  | none => .next s

/-! ## Errors (R61, R316, R334) -/

/-- Whether a thread can take a held asynchronous error now (R316). -/
def Thread.deliverable (t : Thread) : Bool :=
  !t.privl.tact && t.frozen.isNone && t.pendTrap.isNone && t.quiet && !t.placing && !t.out &&
  !t.wait.any Wait.answer

/-- ASYNC_ERROR_DELIVERY (R316): a parked thread is withdrawn from its wait first. A thread whose context drains takes its error
after the restore (R328, R344). -/
def execAsyncErrorDelivery (core slot : Nat) (s : State) : Out :=
  match s.threadAt core slot with
  | none => .next s
  | some t =>
    match t.asyncErr with
    | none => .next s
    | some x =>
      if t.deliverable && s.ctxRuns t.ctx then
        let (s0, t0) := if t.wait.isSome then s.withdrawSlot core slot t else (s, t)
        let (s1, t1) := ((s0.landSlotStores core slot).vectorDone core slot).landAll { t0 with asyncErr := none }
        let (s2, t2) := s1.trapEntry core slot t1 (t1.held { x with fetch := true })
        .next (s2.putThread core slot t2)
      else .next s

/-- CODE_PAGE_CHECK (R334): the first check of a page of code decides about its object. -/
def execCodePageCheck (page object : Nat) (good : Bool) (s : State) : Out :=
  if page % 65536 ≠ 0 ∨ s.dev.poisonedObjects.any (fun x => decide (x.1 = page)) then .next s
  else .next (s.pageChecked page object good)

/-- A quad's noise source, failed or not. -/
def State.setNoise (s : State) (quad : Nat) (failed : Bool) : State := s.setQuad quad { s.quad quad with noiseFailed := failed }

/-- NOISE_HEALTH_FAILURE (R61): test 0 is repetition, 1 proportion (R321). -/
def execNoiseHealthFailure (quad : Nat) (test : Bool) (s : State) : Out :=
  if quad < s.dev.quadCount && !(s.quad quad).noiseFailed then
    .next ((s.setNoise quad true).errRecord { kind := 0x06, x0 := quad, x1 := test.toNat })
  else .next s

/-- NOISE_FAULT_CLEARED (R61). -/
def execNoiseFaultCleared (quad : Nat) (s : State) : Out := .next (s.setNoise quad false)

end Sys2Proof.Machine
end

