-- ==== Sys2Proof/Machine/Devices.lean ====
section
/-! DEFINITION. Devices: bring-up, minimal mode, clock steps, shutdown, and writes of the device registers (R200, R375 to
R379, R381, R383, R385). An event that cannot happen now leaves the machine as it is. -/

namespace Sys2Proof.Machine
open Sys2Proof

/-! ## Starts (R375 to R379, R383) -/

/-- The part after a reset or a power cycle: what lies in non-volatile storage is kept (R377, R383, R385). -/
def State.restart (s : State) : State :=
  { State.reset with
    dev := { Device.reset with
      bootLast := s.dev.bootLast, bootFails := s.dev.bootFails, bootMin := s.dev.bootMin
      weakQuads := s.dev.weakQuads, regs := s.dev.regs.filter (fun r => decide (r.1 = 0x68)) }
    agenda := s.agenda, freeCtr := s.freeCtr, serial := s.serial }

/-- Why an image is rejected, if it is (R376, R378). -/
def ImageReport.reason (r : ImageReport) : Option Nat :=
  if !r.present then some 3 else if !r.ecdsaOk then some 1 else if !r.lmsOk then some 2
  else if r.version < r.minimum then some 4 else none

/-- The start has failed (R377, R378). -/
def Device.failStart (d : Device) (reason : Nat) : Device := { d with bootState := 2, bootLast := reason }

/-- The columns that failed the self-test count against their quads (R383). -/
def Device.countColumns (d : Device) (fails : List (Nat × Nat)) : Device :=
  fails.foldl (fun d p => if p.1 < 65536 ∧ p.2 < 64 then d.modWeak p.1 (fun w => (w.1, w.2.modify p.2 (· + 1))) else d) d

/-- The quads with a counter at the threshold leave the logical core map (R383). -/
def Device.removeWeak (d : Device) : Device :=
  let th := d.reg 0x68
  { d with removedQuads :=
      ((d.weakQuads.filter (fun p => (p.2.1 ++ p.2.2).any (fun n => decide (th ≤ n)))).map Prod.fst).foldr insertN [] }

/-- Stage 2 (R375, R376, R378, R379): its images, its dies, its stacks. -/
def Device.stage2 (d : Device) (r : BootReport) : Device :=
  let dies := (List.range 16).filter (fun i => decide (i ∉ r.deadDies))
  let ups := (List.range 12).filter (fun i => decide (i ∉ r.deadStacks))
  let ready := ups.filter (fun i => decide (i ∉ r.deadBaseDies))
  match r.stage2.findSome? ImageReport.reason with
  | some e => d.failStart e
  | none =>
    let d1 := { d.countColumns r.columnFails with expansions := r.expansions.filter (fun x => decide (x < 32)) }
    if d.minimal then
      match dies.head?, ups.head? with
      | some i, some j => Device.removeWeak { d1 with diesUp := [i], stacksUp := ready.filter (fun x => decide (x = j)) }
      | none, _ => d1.failStart 5
      | _, none => d1.failStart 6
    else if dies.length < 16 then d1.failStart 5
    else if ups.length < 12 then d1.failStart 6
    else Device.removeWeak { d1 with stacksUp := ready }

/-- BOOT_START (R375 to R379): the start is counted, stages 1 and 2 run; minimal mode after three failed starts. The decode tables
and the map change, so no context is resident (R87, R383, R386). -/
def execBootStart (report : BootReport) (s : State) : Out :=
  if s.dev.bootState ≠ 0 ∨ s.dev.bootStage ≠ 0 ∨ !s.ctxs.isEmpty then .next s
  else
    .next (s.modDev (fun d =>
      let min' := d.bootMin || decide (3 ≤ d.bootFails)
      let d1 := { d with bootFails := min 255 (d.bootFails + 1), bootMin := min', minimal := min', bootStage := 1 }
      match ImageReport.reason report.stage1 with
      | some e => d1.failStart e
      | none => Device.stage2 { d1 with bootStage := 2 } report))

/-- BOOT_READY (R375, R377): every die and stack of the start has reported. -/
def execBootReady (s : State) : Out :=
  let d := s.dev
  if d.bootState = 0 ∧ d.bootStage = 2 ∧ d.stacksUp.length = (if d.minimal then 1 else 12) then
    .next (s.modDev (fun d => { d with bootState := 1, bootStage := 3, bootFails := 0 }))
  else .next s

/-- BOOT_TIMEOUT (R378): stage 3 is not reached within 30 s. -/
def execBootTimeout (s : State) : Out :=
  if s.dev.bootState = 0 ∧ 1 ≤ s.dev.bootStage then .next (s.modDev (fun d => d.failStart 7)) else .next s

/-- A start that power loss or a reset ends before it is ready has failed (R377, R378). -/
def Device.cutStart (d : Device) : Device := if d.bootState = 0 ∧ 1 ≤ d.bootStage then { d with bootLast := 0x0A } else d

/-- POWER_LOSS (R377). -/
def execPowerLoss (s : State) : Out := .next (s.modDev Device.cutStart).restart

/-- BOOTCMD_RESET (R379). -/
def execBootcmdReset (s : State) : Out := .next (s.modDev Device.cutStart).restart

/-- BOOTCMD_CLEAR_MINIMAL (R379): the next start is full. -/
def execBootcmdClearMinimal (s : State) : Out := .next (s.modDev (fun d => { d with bootFails := 0, bootMin := false }))

/-! ## Clock steps and shutdown (R381) -/

/-- What the hottest sensor of a die shows, in sixteenths of a degree, where one has been read. -/
def Device.dieTemp (d : Device) (die : Nat) : Option Int := (d.sensors.find? (fun x => decide (x.die = die))).map (fun x => x.max.toInt)

/-- Whether a die is to step up: the hottest at 105 °C or more, or one that draws noria and vector work together above 5,200 W
(R4, R381). -/
def Device.stepsUp (d : Device) (die : Nat) : Bool :=
  decide (die ∈ d.diesUp) &&
    ((decide (5200 < d.power) && decide (die ∈ d.powerDies)) ||
     (d.dieTemp die).any (fun t => decide (1680 ≤ t) && d.sensors.all (fun x => decide (x.max.toInt ≤ t))))

/-- What the sensors show, in sixteenths of a degree: the hottest of each die, and the hottest of each stack (R380, R381, R385). -/
def Device.sensorTemps (d : Device) : List Int :=
  d.sensors.map (fun x => x.max.toInt) ++
    (d.stkmon.filter (fun p => decide (p.1 % 2 = 1))).map (fun p => (p.2.setWidth 16).toInt)

/-- Whether a die is to step down: below 5,000 W, with every sensor below 100 °C (R381). -/
def Device.stepsDown (d : Device) (die : Nat) : Bool :=
  decide (die ∈ d.diesUp) && decide (d.power < 5000) && d.sensorTemps.all (fun x => decide (x < 1600))

/-- Whether the part is to shut down: for a rail that has left its bounds, or for a sensor at 120 °C or more (R381). -/
def Device.shutsDown (d : Device) (voltage : Bool) : Bool :=
  if voltage then !d.rails.isEmpty else d.sensorTemps.any (fun x => decide (1920 ≤ x))

/-- CLOCK_STEP_UP (R4, R381). -/
def execClockStepUp (die : Nat) (s : State) : Out :=
  if s.dev.stepsUp die then
    .next (s.modDev (fun d => { d with clockStep := setK die (min 8 (getK 0 die d.clockStep + 1)) d.clockStep }))
  else .next s

/-- CLOCK_STEP_DOWN (R4, R381). -/
def execClockStepDown (die : Nat) (s : State) : Out :=
  if s.dev.stepsDown die then
    .next (s.modDev (fun d => { d with clockStep := setK die (getK 0 die d.clockStep - 1) d.clockStep }))
  else .next s

/-- PROTECTIVE_SHUTDOWN (R381): every clock stops. -/
def execProtectiveShutdown (voltage : Bool) (s : State) : Out :=
  if s.dev.shutsDown voltage then
    .next (s.modDev (fun d =>
      { d with bootState := 3, bootLast := if voltage then 9 else 8, clocksStopped := true }))
  else .next s

/-! ## The invalidate command (R200, R385) -/

/-- An invalidate command starts, with the page that TLBINVA then holds, unless one is under way (R385). -/
def State.startInvalidate (s : State) (cmd : Nat) : State :=
  if s.dev.tlbBusy then s else s.modDev (fun d => { d with tlbBusy := true, tlbCmd := BitVec.ofNat 64 cmd, tlbPage := d.reg 0x28 })

/-- TLBINV_ALL (R200, R385): KIND 0. -/
def execTlbinvAll (s : State) : Out := .next (s.startInvalidate 0)

/-- TLBINV_CONTEXT (R200, R385): KIND 1. -/
def execTlbinvContext (ctx : Nat) (s : State) : Out := .next (s.startInvalidate (1 + ctx % 4096 * 65536))

/-- TLBINV_PAGE (R200, R385): TLBINVA, then KIND 2. -/
def execTlbinvPage (ctx va : Nat) (s : State) : Out :=
  .next ((s.setReg 0x28 (pageBits va)).startInvalidate (2 + ctx % 4096 * 65536))

/-- Whether an invalidate command names a TLB entry; a larger page is named by any address inside it (R385). -/
def Device.invalidates (d : Device) (e : TlbEntry) : Bool :=
  let c := d.tlbCmd.toNat
  match bits c 0 2 with
  | 0 => true
  | 1 => decide (e.ctx = bits c 16 12)
  | _ => decide (e.ctx = bits c 16 12 ∧ e.page * 65536 / 2 ^ pageShift e.level = d.tlbPage / 2 ^ pageShift e.level)

/-- TLBINV_COMPLETE (R200, R385): no TLB holds an entry that the command names. -/
def execTlbinvComplete (s : State) : Out :=
  if s.dev.tlbBusy then
    let s1 := s.modMem (fun m => { m with tlb := m.tlb.filter (fun e => !s.dev.invalidates e) })
    .next (s1.modDev (fun d => { d with tlbBusy := false }))
  else .next s

/-! ## Other device registers (R385) -/

/-- WQCLR (R383, R385). -/
def execWqclr (s : State) : Out := .next (s.modDev (fun d => { d with weakQuads := [] }))

/-- DEVICE_REGISTER_WRITE (R323, R385). -/
def execDeviceRegisterWrite (reg : AgentReg) (val : BitVec 64) (s : State) : Out :=
  .next (s.agentWrite reg.agent reg.off val)

end Sys2Proof.Machine
end

