-- ==== Sys2Proof/Machine/Dispatch.lean ====
section
/-! DEFINITION. Dispatch: the meaning of every instruction, one arm per constructor. -/

namespace Sys2Proof.Machine
open Sys2Proof

def exec (i : Instr) (s : State) : Host.Outcome State Fault Refusal :=
  match i with
  | .add d a b => Sys2Proof.Machine.execAdd d a b s
  | .sub d a b => Sys2Proof.Machine.execSub d a b s
  | .mul d a b => Sys2Proof.Machine.execMul d a b s
  | .mulh d a b => Sys2Proof.Machine.execMulh d a b s
  | .div d a b => Sys2Proof.Machine.execDiv d a b s
  | .divu d a b => Sys2Proof.Machine.execDivu d a b s
  | .rem d a b => Sys2Proof.Machine.execRem d a b s
  | .remu d a b => Sys2Proof.Machine.execRemu d a b s
  | .and d a b => Sys2Proof.Machine.execAnd d a b s
  | .or d a b => Sys2Proof.Machine.execOr d a b s
  | .xor d a b => Sys2Proof.Machine.execXor d a b s
  | .andn d a b => Sys2Proof.Machine.execAndn d a b s
  | .shl d a b => Sys2Proof.Machine.execShl d a b s
  | .shr d a b => Sys2Proof.Machine.execShr d a b s
  | .sra d a b => Sys2Proof.Machine.execSra d a b s
  | .rol d a b => Sys2Proof.Machine.execRol d a b s
  | .min d a b => Sys2Proof.Machine.execMin d a b s
  | .minu d a b => Sys2Proof.Machine.execMinu d a b s
  | .max d a b => Sys2Proof.Machine.execMax d a b s
  | .maxu d a b => Sys2Proof.Machine.execMaxu d a b s
  | .ceq d a b => Sys2Proof.Machine.execCeq d a b s
  | .cne d a b => Sys2Proof.Machine.execCne d a b s
  | .clt d a b => Sys2Proof.Machine.execClt d a b s
  | .cltu d a b => Sys2Proof.Machine.execCltu d a b s
  | .cle d a b => Sys2Proof.Machine.execCle d a b s
  | .cleu d a b => Sys2Proof.Machine.execCleu d a b s
  | .sel d a b => Sys2Proof.Machine.execSel d a b s
  | .bfx d a b => Sys2Proof.Machine.execBfx d a b s
  | .bfi d a b => Sys2Proof.Machine.execBfi d a b s
  | .clz d a => Sys2Proof.Machine.execClz d a s
  | .popc d a => Sys2Proof.Machine.execPopc d a s
  | .abs d a => Sys2Proof.Machine.execAbs d a s
  | .neg d a => Sys2Proof.Machine.execNeg d a s
  | .not d a => Sys2Proof.Machine.execNot d a s
  | .mov d a => Sys2Proof.Machine.execMov d a s
  | .addi d a imm => Sys2Proof.Machine.execAddi d a imm s
  | .andi d a imm => Sys2Proof.Machine.execAndi d a imm s
  | .ori d a imm => Sys2Proof.Machine.execOri d a imm s
  | .xori d a imm => Sys2Proof.Machine.execXori d a imm s
  | .shli d a imm => Sys2Proof.Machine.execShli d a imm s
  | .shri d a imm => Sys2Proof.Machine.execShri d a imm s
  | .srai d a imm => Sys2Proof.Machine.execSrai d a imm s
  | .clti d a imm => Sys2Proof.Machine.execClti d a imm s
  | .ldk d imm => Sys2Proof.Machine.execLdk d imm s
  | .ldks d imm => Sys2Proof.Machine.execLdks d imm s
  | .resize d wid => Sys2Proof.Machine.execResize d wid s
  | .mode d md => Sys2Proof.Machine.execMode d md s
  | .width d a => Sys2Proof.Machine.execWidth d a s
  | .mff d => Sys2Proof.Machine.execMff d s
  | .mtf a => Sys2Proof.Machine.execMtf a s
  | .sfclr => Sys2Proof.Machine.execSfclr s
  | .beq a b off => Sys2Proof.Machine.execBeq a b off s
  | .bne a b off => Sys2Proof.Machine.execBne a b off s
  | .blt a b off => Sys2Proof.Machine.execBlt a b off s
  | .bge a b off => Sys2Proof.Machine.execBge a b off s
  | .bltu a b off => Sys2Proof.Machine.execBltu a b off s
  | .bgeu a b off => Sys2Proof.Machine.execBgeu a b off s
  | .bsf off => Sys2Proof.Machine.execBsf off s
  | .jmp off => Sys2Proof.Machine.execJmp off s
  | .call off => Sys2Proof.Machine.execCall off s
  | .jmpr a imm => Sys2Proof.Machine.execJmpr a imm s
  | .callr a imm => Sys2Proof.Machine.execCallr a imm s
  | .fadd d a b => Sys2Proof.Machine.execFadd d a b s
  | .fsub d a b => Sys2Proof.Machine.execFsub d a b s
  | .fmul d a b => Sys2Proof.Machine.execFmul d a b s
  | .fdiv d a b => Sys2Proof.Machine.execFdiv d a b s
  | .fsqrt d a => Sys2Proof.Machine.execFsqrt d a s
  | .fmin d a b => Sys2Proof.Machine.execFmin d a b s
  | .fmax d a b => Sys2Proof.Machine.execFmax d a b s
  | .fceq d a b => Sys2Proof.Machine.execFceq d a b s
  | .fclt d a b => Sys2Proof.Machine.execFclt d a b s
  | .fcle d a b => Sys2Proof.Machine.execFcle d a b s
  | .fclass d a => Sys2Proof.Machine.execFclass d a s
  | .fneg d a => Sys2Proof.Machine.execFneg d a s
  | .fabs d a => Sys2Proof.Machine.execFabs d a s
  | .fcvt d a rm => Sys2Proof.Machine.execFcvt d a rm s
  | .fcvti d a rm => Sys2Proof.Machine.execFcvti d a rm s
  | .fcvtf d a rm => Sys2Proof.Machine.execFcvtf d a rm s
  | .fma d a b look => Sys2Proof.Machine.execFma d a b look s
  | .fms d a b look => Sys2Proof.Machine.execFms d a b look s
  | .fnma d a b look => Sys2Proof.Machine.execFnma d a b look s
  | .bmov d a b => Sys2Proof.Machine.execBmov d a b s
  | .bset d a b => Sys2Proof.Machine.execBset d a b s
  | .trap imm => Sys2Proof.Machine.execTrap imm s
  | .eret => Sys2Proof.Machine.execEret s
  | .csrr d csr => Sys2Proof.Machine.execCsrr d csr s
  | .csrw d csr => Sys2Proof.Machine.execCsrw d csr s
  | .brk => Sys2Proof.Machine.execBrk s
  | .fencei => Sys2Proof.Machine.execFencei s
  | .ldb d a imm look => Sys2Proof.Machine.execLdb d a imm look s
  | .ldh d a imm look => Sys2Proof.Machine.execLdh d a imm look s
  | .ldw d a imm look => Sys2Proof.Machine.execLdw d a imm look s
  | .ldd d a imm look => Sys2Proof.Machine.execLdd d a imm look s
  | .ldbu d a imm look => Sys2Proof.Machine.execLdbu d a imm look s
  | .ldhu d a imm look => Sys2Proof.Machine.execLdhu d a imm look s
  | .ldwu d a imm look => Sys2Proof.Machine.execLdwu d a imm look s
  | .ldff d a imm => Sys2Proof.Machine.execLdff d a imm s
  | .stb d a imm look => Sys2Proof.Machine.execStb d a imm look s
  | .sth d a imm look => Sys2Proof.Machine.execSth d a imm look s
  | .stw d a imm look => Sys2Proof.Machine.execStw d a imm look s
  | .std d a imm look => Sys2Proof.Machine.execStd d a imm look s
  | .vld d a tag look => Sys2Proof.Machine.execVld d a tag look s
  | .vst d a tag look => Sys2Proof.Machine.execVst d a tag look s
  | .vldx d a fmt look => Sys2Proof.Machine.execVldx d a fmt look s
  | .vstx d a fmt look => Sys2Proof.Machine.execVstx d a fmt look s
  | .vldb d a tag look => Sys2Proof.Machine.execVldb d a tag look s
  | .vgath d a tag look => Sys2Proof.Machine.execVgath d a tag look s
  | .vscat d a tag look => Sys2Proof.Machine.execVscat d a tag look s
  | .lde d a imm => Sys2Proof.Machine.execLde d a imm s
  | .stf d a imm => Sys2Proof.Machine.execStf d a imm s
  | .stff d a imm look => Sys2Proof.Machine.execStff d a imm look s
  | .feq d a imm look => Sys2Proof.Machine.execFeq d a imm look s
  | .fempty a imm look => Sys2Proof.Machine.execFempty a imm look s
  | .fefill a imm look => Sys2Proof.Machine.execFefill a imm look s
  | .aadd d a b scope => Sys2Proof.Machine.execAadd d a b scope s
  | .amin d a b scope => Sys2Proof.Machine.execAmin d a b scope s
  | .aminu d a b scope => Sys2Proof.Machine.execAminu d a b scope s
  | .amax d a b scope => Sys2Proof.Machine.execAmax d a b scope s
  | .amaxu d a b scope => Sys2Proof.Machine.execAmaxu d a b scope s
  | .aand d a b scope => Sys2Proof.Machine.execAand d a b scope s
  | .aor d a b scope => Sys2Proof.Machine.execAor d a b scope s
  | .axor d a b scope => Sys2Proof.Machine.execAxor d a b scope s
  | .aswp d a b scope => Sys2Proof.Machine.execAswp d a b scope s
  | .acas d a b scope => Sys2Proof.Machine.execAcas d a b scope s
  | .radd a b scope => Sys2Proof.Machine.execRadd a b scope s
  | .rmin a b scope => Sys2Proof.Machine.execRmin a b scope s
  | .rmax a b scope => Sys2Proof.Machine.execRmax a b scope s
  | .ror a b scope => Sys2Proof.Machine.execRor a b scope s
  | .rfadd a b scope => Sys2Proof.Machine.execRfadd a b scope s
  | .lrw d a scope => Sys2Proof.Machine.execLrw d a scope s
  | .sch a b scope => Sys2Proof.Machine.execSch a b scope s
  | .lrx a scope => Sys2Proof.Machine.execLrx a scope s
  | .phaseRel scope => Sys2Proof.Machine.execPhaseRel scope s
  | .phaseAcq scope => Sys2Proof.Machine.execPhaseAcq scope s
  | .phaseAr scope => Sys2Proof.Machine.execPhaseAr scope s
  | .enq a b => Sys2Proof.Machine.execEnq a b s
  | .deq d a => Sys2Proof.Machine.execDeq d a s
  | .enqn d a b look => Sys2Proof.Machine.execEnqn d a b look s
  | .deqn d a look => Sys2Proof.Machine.execDeqn d a look s
  | .enqw d a b => Sys2Proof.Machine.execEnqw d a b s
  | .deqw d a b => Sys2Proof.Machine.execDeqw d a b s
  | .qstat d a item look => Sys2Proof.Machine.execQstat d a item look s
  | .qbind d a => Sys2Proof.Machine.execQbind d a s
  | .sptest d a => Sys2Proof.Machine.execSptest d a s
  | .spcast d a => Sys2Proof.Machine.execSpcast d a s
  | .spmake d a => Sys2Proof.Machine.execSpmake d a s
  | .spcore d a => Sys2Proof.Machine.execSpcore d a s
  | .split units => Sys2Proof.Machine.execSplit units s
  | .spawn d a b => Sys2Proof.Machine.execSpawn d a b s
  | .quit => Sys2Proof.Machine.execQuit s
  | .yield => Sys2Proof.Machine.execYield s
  | .tid d item => Sys2Proof.Machine.execTid d item s
  | .join g a scope => Sys2Proof.Machine.execJoin g a scope s
  | .leave g => Sys2Proof.Machine.execLeave g s
  | .gbar g => Sys2Proof.Machine.execGbar g s
  | .gcnt d g item => Sys2Proof.Machine.execGcnt d g item s
  | .rotr d => Sys2Proof.Machine.execRotr d s
  | .rotw a => Sys2Proof.Machine.execRotw a s
  | .link d dir => Sys2Proof.Machine.execLink d dir s
  | .unlink d => Sys2Proof.Machine.execUnlink d s
  | .ldir a => Sys2Proof.Machine.execLdir a s
  | .ldirr d => Sys2Proof.Machine.execLdirr d s
  | .vadd d a b => Sys2Proof.Machine.execVadd d a b s
  | .vsub d a b => Sys2Proof.Machine.execVsub d a b s
  | .vmul d a b => Sys2Proof.Machine.execVmul d a b s
  | .vmin d a b => Sys2Proof.Machine.execVmin d a b s
  | .vmax d a b => Sys2Proof.Machine.execVmax d a b s
  | .vminu d a b => Sys2Proof.Machine.execVminu d a b s
  | .vmaxu d a b => Sys2Proof.Machine.execVmaxu d a b s
  | .vand d a b => Sys2Proof.Machine.execVand d a b s
  | .vor d a b => Sys2Proof.Machine.execVor d a b s
  | .vxor d a b => Sys2Proof.Machine.execVxor d a b s
  | .vshl d a b => Sys2Proof.Machine.execVshl d a b s
  | .vshr d a b => Sys2Proof.Machine.execVshr d a b s
  | .vsra d a b => Sys2Proof.Machine.execVsra d a b s
  | .vabs d a => Sys2Proof.Machine.execVabs d a s
  | .vneg d a => Sys2Proof.Machine.execVneg d a s
  | .vceq d a b => Sys2Proof.Machine.execVceq d a b s
  | .vclt d a b => Sys2Proof.Machine.execVclt d a b s
  | .vcle d a b => Sys2Proof.Machine.execVcle d a b s
  | .vsel d a b => Sys2Proof.Machine.execVsel d a b s
  | .vmov d a => Sys2Proof.Machine.execVmov d a s
  | .vbcast d a tag => Sys2Proof.Machine.execVbcast d a tag s
  | .vext d a b => Sys2Proof.Machine.execVext d a b s
  | .vins d a b => Sys2Proof.Machine.execVins d a b s
  | .vperm d a b => Sys2Proof.Machine.execVperm d a b s
  | .vradd d a => Sys2Proof.Machine.execVradd d a s
  | .vrmax d a => Sys2Proof.Machine.execVrmax d a s
  | .vrmin d a => Sys2Proof.Machine.execVrmin d a s
  | .vfma d a b look => Sys2Proof.Machine.execVfma d a b look s
  | .vfms d a b look => Sys2Proof.Machine.execVfms d a b look s
  | .vdiv d a b look => Sys2Proof.Machine.execVdiv d a b look s
  | .vsqrt d a look => Sys2Proof.Machine.execVsqrt d a look s
  | .vcvt d a tag rm => Sys2Proof.Machine.execVcvt d a tag rm s
  | .vdxq d a tag rm => Sys2Proof.Machine.execVdxq d a tag rm s
  | .vtag d a => Sys2Proof.Machine.execVtag d a s
  | .vretag d a tag => Sys2Proof.Machine.execVretag d a tag s
  | .vsexr d a item => Sys2Proof.Machine.execVsexr d a item s
  | .vsexw d a item => Sys2Proof.Machine.execVsexw d a item s
  | .cpy k a b => Sys2Proof.Machine.execCpy k a b s
  | .toks d look => Sys2Proof.Machine.execToks d look s
  | .barm d a b look => Sys2Proof.Machine.execBarm d a b look s
  | .bwait d a b => Sys2Proof.Machine.execBwait d a b s
  | .bpoll d a b look => Sys2Proof.Machine.execBpoll d a b look s
  | .berr d a look => Sys2Proof.Machine.execBerr d a look s
  | .bclr d a look => Sys2Proof.Machine.execBclr d a look s
  | .lpatch d item b look => Sys2Proof.Machine.execLpatch d item b look s
  | .larm d look => Sys2Proof.Machine.execLarm d look s
  | .lfire d look => Sys2Proof.Machine.execLfire d look s
  | .lstat d a look => Sys2Proof.Machine.execLstat d a look s
  | .mldb a look => Sys2Proof.Machine.execMldb a look s
  | .mmac k a b look => Sys2Proof.Machine.execMmac k a b look s
  | .mrun d a b => Sys2Proof.Machine.execMrun d a b s
  | .mdrn a b look => Sys2Proof.Machine.execMdrn a b look s
  | .mhnd a b => Sys2Proof.Machine.execMhnd a b s
  | .mchk d a look => Sys2Proof.Machine.execMchk d a look s
  | .macq a => Sys2Proof.Machine.execMacq a s
  | .mrel a => Sys2Proof.Machine.execMrel a s
  | .srng d a md => Sys2Proof.Machine.execSrng d a md s
  | .commit => Sys2Proof.Machine.execCommit s
  | .ctxsv d a => Sys2Proof.Machine.execCtxsv d a s
  | .ctxld d a => Sys2Proof.Machine.execCtxld d a s
  | .preempt d a md => Sys2Proof.Machine.execPreempt d a md s
  | .unfreeze d a action => Sys2Proof.Machine.execUnfreeze d a action s
  | .errpop d b => Sys2Proof.Machine.execErrpop d b s
  | .dtset d a md => Sys2Proof.Machine.execDtset d a md s
  | .dtget d item => Sys2Proof.Machine.execDtget d item s
  | .spill d a => Sys2Proof.Machine.execSpill d a s
  | .rinv d a b look => Sys2Proof.Machine.execRinv d a b look s
  | .rinvw d a b => Sys2Proof.Machine.execRinvw d a b s
  | .rstat d a item look => Sys2Proof.Machine.execRstat d a item look s
  | .tbr d look => Sys2Proof.Machine.execTbr d look s
  | .waitt d a => Sys2Proof.Machine.execWaitt d a s
  | .coll k a b => Sys2Proof.Machine.execColl k a b s
  | .add16 d b => Sys2Proof.Machine.execAdd16 d b s
  | .sub16 d b => Sys2Proof.Machine.execSub16 d b s
  | .mul16 d b => Sys2Proof.Machine.execMul16 d b s
  | .and16 d b => Sys2Proof.Machine.execAnd16 d b s
  | .or16 d b => Sys2Proof.Machine.execOr16 d b s
  | .xor16 d b => Sys2Proof.Machine.execXor16 d b s
  | .shl16 d b => Sys2Proof.Machine.execShl16 d b s
  | .shr16 d b => Sys2Proof.Machine.execShr16 d b s
  | .sra16 d b => Sys2Proof.Machine.execSra16 d b s
  | .min16 d b => Sys2Proof.Machine.execMin16 d b s
  | .max16 d b => Sys2Proof.Machine.execMax16 d b s
  | .mov16 d b => Sys2Proof.Machine.execMov16 d b s
  | .neg16 d b => Sys2Proof.Machine.execNeg16 d b s
  | .not16 d b => Sys2Proof.Machine.execNot16 d b s
  | .abs16 d b => Sys2Proof.Machine.execAbs16 d b s
  | .clt16 d b => Sys2Proof.Machine.execClt16 d b s
  | .vadd16 d b => Sys2Proof.Machine.execVadd16 d b s
  | .vsub16 d b => Sys2Proof.Machine.execVsub16 d b s
  | .vmul16 d b => Sys2Proof.Machine.execVmul16 d b s
  | .vand16 d b => Sys2Proof.Machine.execVand16 d b s
  | .vor16 d b => Sys2Proof.Machine.execVor16 d b s
  | .vxor16 d b => Sys2Proof.Machine.execVxor16 d b s
  | .vshl16 d b => Sys2Proof.Machine.execVshl16 d b s
  | .vshr16 d b => Sys2Proof.Machine.execVshr16 d b s
  | .vsra16 d b => Sys2Proof.Machine.execVsra16 d b s
  | .vmin16 d b => Sys2Proof.Machine.execVmin16 d b s
  | .vmax16 d b => Sys2Proof.Machine.execVmax16 d b s
  | .vmov16 d b => Sys2Proof.Machine.execVmov16 d b s
  | .vneg16 d b => Sys2Proof.Machine.execVneg16 d b s
  | .vabs16 d b => Sys2Proof.Machine.execVabs16 d b s
  | .vclt16 d b => Sys2Proof.Machine.execVclt16 d b s
  | .rep count incD incA incB => Sys2Proof.Machine.execRep count incD incA incB s
  | .waitk mask kind => Sys2Proof.Machine.execWaitk mask kind s
  | .movis d imm => Sys2Proof.Machine.execMovis d imm s
  | .nop => Sys2Proof.Machine.execNop s
  | .yield16 => Sys2Proof.Machine.execYield16 s
  | .quit16 => Sys2Proof.Machine.execQuit16 s
  | .rdone => Sys2Proof.Machine.execRdone s
  | .fencei16 => Sys2Proof.Machine.execFencei16 s
  | .firmwareExpansion major3F operand => Sys2Proof.Machine.execFirmwareExpansion major3F operand s
  | .longLatencyCompletion core slot k => Sys2Proof.Machine.execLongLatencyCompletion core slot k s
  | .repackOperation core => Sys2Proof.Machine.execRepackOperation core s
  | .recordPlacement core => Sys2Proof.Machine.execRecordPlacement core s
  | .parkedThreadSpill core => Sys2Proof.Machine.execParkedThreadSpill core s
  | .vectorUnitTake quad => Sys2Proof.Machine.execVectorUnitTake quad s
  | .runnelTransfer core slot => Sys2Proof.Machine.execRunnelTransfer core slot s
  | .l1Eviction core line => Sys2Proof.Machine.execL1Eviction core line s
  | .reservationAdmission home => Sys2Proof.Machine.execReservationAdmission home s
  | .flumeEnqueueOperation fcb req => Sys2Proof.Machine.execFlumeEnqueueOperation fcb req s
  | .flumeDequeueOperation fcb req => Sys2Proof.Machine.execFlumeDequeueOperation fcb req s
  | .flumeWaitExpiry fcb k => Sys2Proof.Machine.execFlumeWaitExpiry fcb k s
  | .copyPacketDequeue baseDie entry => Sys2Proof.Machine.execCopyPacketDequeue baseDie entry s
  | .copyPacketNotBefore id => Sys2Proof.Machine.execCopyPacketNotBefore id s
  | .copyPacketExecute id => Sys2Proof.Machine.execCopyPacketExecute id s
  | .heldSeqUpdate id => Sys2Proof.Machine.execHeldSeqUpdate id s
  | .srcEvent id => Sys2Proof.Machine.execSrcEvent id s
  | .visEvent id => Sys2Proof.Machine.execVisEvent id s
  | .launchDecrement k => Sys2Proof.Machine.execLaunchDecrement k s
  | .nbtReached ctx j => Sys2Proof.Machine.execNbtReached ctx j s
  | .launchTake die => Sys2Proof.Machine.execLaunchTake die s
  | .noriaTake quad => Sys2Proof.Machine.execNoriaTake quad s
  | .rowWritten quad => Sys2Proof.Machine.execRowWritten quad s
  | .slotLoaded quad slot => Sys2Proof.Machine.execSlotLoaded quad slot s
  | .rowDrain quad k => Sys2Proof.Machine.execRowDrain quad k s
  | .handlerDispatch core => Sys2Proof.Machine.execHandlerDispatch core s
  | .asyncErrorDelivery core slot => Sys2Proof.Machine.execAsyncErrorDelivery core slot s
  | .contextDrained ctx => Sys2Proof.Machine.execContextDrained ctx s
  | .quadStateRestore ctx k => Sys2Proof.Machine.execQuadStateRestore ctx k s
  | .codePageCheck page object good => Sys2Proof.Machine.execCodePageCheck page object good s
  | .schedulerTakeOver die => Sys2Proof.Machine.execSchedulerTakeOver die s
  | .noiseHealthFailure quad test => Sys2Proof.Machine.execNoiseHealthFailure quad test s
  | .fabricRequest port req => Sys2Proof.Machine.execFabricRequest port req s
  | .hostPortRequest req => Sys2Proof.Machine.execHostPortRequest req s
  | .linkMarkedDown port => Sys2Proof.Machine.execLinkMarkedDown port s
  | .offtakeArrival arr => Sys2Proof.Machine.execOfftakeArrival arr s
  | .offtakeStatusTimeout id => Sys2Proof.Machine.execOfftakeStatusTimeout id s
  | .rinvwRetry core slot expired => Sys2Proof.Machine.execRinvwRetry core slot expired s
  | .offtakeDispatch => Sys2Proof.Machine.execOfftakeDispatch s
  | .collectiveExecute tag remote => Sys2Proof.Machine.execCollectiveExecute tag remote s
  | .collectiveTimeout tag => Sys2Proof.Machine.execCollectiveTimeout tag s
  | .waittWake core slot => Sys2Proof.Machine.execWaittWake core slot s
  | .timeSyncSend port => Sys2Proof.Machine.execTimeSyncSend port s
  | .timeSyncFlit time stepped => Sys2Proof.Machine.execTimeSyncFlit time stepped s
  | .timeSyncLoss => Sys2Proof.Machine.execTimeSyncLoss s
  | .bootStart report => Sys2Proof.Machine.execBootStart report s
  | .bootReady => Sys2Proof.Machine.execBootReady s
  | .bootTimeout => Sys2Proof.Machine.execBootTimeout s
  | .powerLoss => Sys2Proof.Machine.execPowerLoss s
  | .clockStepUp die => Sys2Proof.Machine.execClockStepUp die s
  | .clockStepDown die => Sys2Proof.Machine.execClockStepDown die s
  | .protectiveShutdown voltage => Sys2Proof.Machine.execProtectiveShutdown voltage s
  | .bootcmdClearMinimal => Sys2Proof.Machine.execBootcmdClearMinimal s
  | .bootcmdReset => Sys2Proof.Machine.execBootcmdReset s
  | .tlbinvAll => Sys2Proof.Machine.execTlbinvAll s
  | .tlbinvContext ctx => Sys2Proof.Machine.execTlbinvContext ctx s
  | .tlbinvPage ctx va => Sys2Proof.Machine.execTlbinvPage ctx va s
  | .tlbinvComplete => Sys2Proof.Machine.execTlbinvComplete s
  | .wqclr => Sys2Proof.Machine.execWqclr s
  | .deviceRegisterWrite reg val => Sys2Proof.Machine.execDeviceRegisterWrite reg val s
  | .noiseFaultCleared quad => Sys2Proof.Machine.execNoiseFaultCleared quad s
  | .applicationCoreContextCommand cmd ctx => Sys2Proof.Machine.execApplicationCoreContextCommand cmd ctx s
  | .l2SectorEviction die block => Sys2Proof.Machine.execL2SectorEviction die block s
  | .standbySchedulerFailure die => Sys2Proof.Machine.execStandbySchedulerFailure die s
  | .linkRestored port => Sys2Proof.Machine.execLinkRestored port s

end Sys2Proof.Machine
end

