-- ==== Sys2Proof/Machine/Issue.lean ====
section
/-! DEFINITION. Issue: which thread issues, and what a thread does in its turn: held traps and errors, windows that must
close, fetch, decode, the iterations of a repeat (R13, R17, R20, R22, R85, R128 to R131, R316). The meaning of an
instruction is an argument. Lean compiles no function that builds an instruction (see Decode), so these are marked
noncomputable. -/

namespace Sys2Proof.Machine
open Sys2Proof

/-- What an instruction does. -/
abbrev Exec := Instr → State → Out

/-- The running thread goes back into its slot. -/
def State.checkIn (s : State) : State :=
  if s.hasRunning then s.setOcc s.cur.1 s.cur.2 (.thread s.thr) else s

/-- The thread of a slot becomes the running one; none where no thread stands there. -/
def State.switchTo (s : State) (c i : Nat) : Option State :=
  if s.cur = (c, i) ∧ s.hasRunning then some s
  else
    match ((s.core c).slot i).occ with
    | .thread t => some { (s.checkIn).setOcc c i .running with thr := t, cur := (c, i) }
    | _ => none

/-- Whether a thread may take a turn (R128): resident, not parked, not frozen, not out, its placement done. -/
def Thread.canMove (t : Thread) : Bool := !t.placing && !t.out && t.frozen.isNone && t.wait.isNone

/-- The windows whose count has run out complete; none while one of them awaits an answer (R17). -/
def State.landDue (s : State) : Option State :=
  let due := s.thr.inflight.filter (fun e => decide (e.left = 0))
  if due.isEmpty then some s
  else if due.any (fun e => e.awaiting) then none
  else
    let (s1, t) := due.foldl (fun p e => p.1.landOne p.2 e) (s, s.thr)
    some { s1 with thr := t }

/-- STEPOV covers the instruction that the thread comes to (R20). -/
def Thread.cover (t : Thread) : Thread := { t with stepover := t.dbgctl.stepov && !t.privl.tact }

/-- An instruction counts in every open window, and STEPOV covers it (R17, R20). -/
def Thread.startInstr (t : Thread) : Thread :=
  { t.cover with inflight := t.inflight.map (fun e => { e with left := e.left - 1 }) }

/-- An instruction match (R20). -/
def Thread.instrMatch (t : Thread) : Bool :=
  t.dbgctl.ien && !t.privl.tact && !t.dbgctl.stepov && decide ((t.pc ^^^ t.dbga) &&& t.dbgm = 0)

/-- Whether a slot is named in ROTTAB (R129). -/
def CoreSt.named (c : CoreSt) (i : Nat) : Bool := (List.range 16).any (fun k => decide (bits c.rottab.toNat (4 * k) 4 = i))

/-- The slot that an entry of ROTTAB names (R129). -/
def CoreSt.entry (c : CoreSt) (p : Nat) : Nat := bits c.rottab.toNat (4 * (p % 16)) 4

/-- The slot whose own turn the core's cycle in hand is; the pointer has advanced past it (R129, R130). -/
def CoreSt.ownSlot (c : CoreSt) : Nat := c.entry (c.ptr + 15)

/-- Whether a 32-bit word is of major 0x1F, a noria step (R131). -/
def isNoriaWord (w : Nat) : Bool := decide (w % 2 = 1) && decide (bits w 1 6 = 0x1F)

/-- Whether a word is one of MMAC, whose hand-off takes an entry of the vector queue as well (R153, R156). -/
def isMmacWord (w : Nat) : Bool := decide (w &&& 0xE0041C7F = 0x2000003F)

/-- Whether a word executes in the quad vector unit: majors 0x1A to 0x1C and the short lane operations with V = 1 (R153). -/
def isVectorWord (w : Nat) : Bool :=
  if w % 2 = 1 then decide (0x1A ≤ bits w 1 6 ∧ bits w 1 6 ≤ 0x1C) else isShort w && bit1 w 15

/-- A noria step issues only in its slot's own turn (R130, R131). -/
def State.noTurn (s : State) (w : Nat) : Bool := isNoriaWord w && decide ((s.core s.cur.1).ownSlot ≠ s.cur.2)

noncomputable section

/-- The repeated instruction of a REP, fetched and decoded (R22). -/
def State.fetchInner (s : State) (pc : Nat) : Inner × State :=
  match s.fetchWord s.thr s.cur.1 pc with
  | (.error x, s1, t) => (.trap x, { s1 with thr := t })
  | (.ok (w, len), s1, t) =>
    (match decodeWord w with
      | .ok i => .ok i w len
      | .error _ => .illegal w len, { s1 with thr := t })

/-- An iteration of the running thread's repeat (R22). -/
def State.iterate (s : State) (ex : Exec) (r : RepCtx) : Out :=
  if s.noTurn r.inner then .next s
  else
    match decodeWord r.inner with
    | .error _ => s.trap illegal
    | .ok base =>
      let (w, _) := iterWord base r.rword r.inner r.ilen r.iter
      match decodeWord w with
      | .error _ => s.trap illegal
      | .ok i => ex i (s.modThr (fun t => { t.startInstr with ir := ⟨r.inner, r.ilen, .absent⟩ }))

/-- What follows a REP: it takes no issue of its own, so an iteration issues in the same turn (R103). -/
def State.afterRep (ex : Exec) : Out → Out
  | .next t =>
    match t.thr.rep, t.thr.pendTrap with
    | some r, none => t.iterate ex r
    | _, _ => .next t
  | x => x

/-- Executes a decoded instruction that stands at the PC. -/
def State.runDecoded (s : State) (ex : Exec) (w len : Nat) (i : Instr) : Out :=
  match i with
  | .rep c d a b =>
    let (inner, s1) := s.fetchInner ((s.thr.pc.toNat + 2) % 2 ^ 64)
    State.afterRep ex (ex (.rep c d a b) (s1.modThr (fun t => { t with ir := ⟨w, len, inner⟩ })))
  | i => ex i (s.modThr (fun t => { t.startInstr with ir := ⟨w, len, .absent⟩ }))

/-- The next instruction of the running thread: an iteration of its repeat, or the instruction at its PC (R13, R22). DESIGN
CHOICE: an instruction match at a REP is reported as one of the REP alone, ILEN 1 and INREP 0 (R20, R27, log 86). -/
def State.issueNext (s : State) (ex : Exec) : Out :=
  match s.thr.rep with
  | some r => s.iterate ex r
  | none =>
    let c := s.modThr Thread.cover
    match c.fetchWord c.thr c.cur.1 c.thr.pc.toNat with
    | (.error x, s1, t) => ({ s1 with thr := t }).trap x
    | (.ok (w, len), s1, t) =>
      let s2 := { s1 with thr := t }
      let s3 := s2.modThr (fun t => { t with ir := ⟨w, len, .absent⟩ })
      if s2.noTurn w then .next s
      else if s2.thr.instrMatch then s3.trap (mkTrap .breakpoint 0 1 0)
      else
        match decodeWord w with
        | .error _ => s3.trap illegal
        | .ok i => s2.runDecoded ex w len i

/-- A turn of the running thread: late words of its last store, a trap that its woken wait or its placement holds, a held asynchronous error, the acquire
that its start or its wait implies, the windows that must close, then its next instruction (R21, R31, R140, R142, R240, R316). -/
def State.issue (s : State) (ex : Exec) : Out :=
  if !s.hasRunning || !s.thr.canMove || !s.ctxRuns s.thr.ctx then .next s
  else
    let s := s.landSlotStores s.cur.1 s.cur.2
    match s.thr.pendTrap with
    | some x => if s.thr.quiet then (s.modThr (fun t => { t with pendTrap := none })).trap x else .next s
    | none =>
      match s.thr.asyncErr, s.thr.privl.tact with
      | some x, false =>
        if s.thr.quiet then (s.modThr (fun t => { t with asyncErr := none })).trap { x with fetch := true } else .next s
      | _, _ =>
        let s1 := match s.thr.acq with
          | some sc => (s.acquire s.cur.1 sc).modThr (fun t => { t with acq := none })
          | none => s
        match s1.landDue with
        | none => .next s1
        | some s2 => s2.issueNext ex

end

end Sys2Proof.Machine
end

