-- ==== Sys2Proof/Machine/Turns.lean ====
section
/-! DEFINITION. Turns: what one step does: the environment's next turn, or with none a core's cycle by R130 and the engines' own
progress; and an instruction placed where the next step fetches it. -/

namespace Sys2Proof.Machine
open Sys2Proof

/-- Whether a row of the opcode table has no word: a step of an engine or of an outside party. -/
def isEvent : Instr → Bool
  | .longLatencyCompletion .. | .repackOperation .. | .recordPlacement .. | .parkedThreadSpill ..
  | .vectorUnitTake .. | .runnelTransfer .. | .l1Eviction .. | .reservationAdmission .. | .flumeEnqueueOperation ..
  | .flumeDequeueOperation .. | .flumeWaitExpiry .. | .copyPacketDequeue .. | .copyPacketNotBefore ..
  | .copyPacketExecute .. | .heldSeqUpdate .. | .srcEvent .. | .visEvent .. | .launchDecrement .. | .nbtReached ..
  | .launchTake .. | .noriaTake .. | .rowWritten .. | .slotLoaded .. | .rowDrain .. | .handlerDispatch ..
  | .asyncErrorDelivery .. | .contextDrained .. | .quadStateRestore .. | .codePageCheck .. | .schedulerTakeOver ..
  | .noiseHealthFailure .. | .fabricRequest .. | .hostPortRequest .. | .linkMarkedDown .. | .offtakeArrival ..
  | .offtakeStatusTimeout .. | .rinvwRetry .. | .offtakeDispatch .. | .collectiveExecute .. | .collectiveTimeout ..
  | .waittWake .. | .timeSyncSend .. | .timeSyncFlit .. | .timeSyncLoss .. | .bootStart .. | .bootReady ..
  | .bootTimeout .. | .powerLoss .. | .clockStepUp .. | .clockStepDown .. | .protectiveShutdown ..
  | .bootcmdClearMinimal .. | .bootcmdReset .. | .tlbinvAll .. | .tlbinvContext .. | .tlbinvPage ..
  | .tlbinvComplete .. | .wqclr .. | .deviceRegisterWrite .. | .noiseFaultCleared ..
  | .applicationCoreContextCommand .. | .l2SectorEviction .. | .standbySchedulerFailure .. | .linkRestored .. => true
  | _ => false

/-! ## Inputs and time (R205, R232, R289, R315, R321, R346, R356, R366, R380, R381, R385) -/

/-- Time passes: `ns` nanoseconds of the reference oscillator, with the trim and the slew (R346, R366). -/
def Device.tick (d : Device) (ns : Nat) : Device :=
  let t := (ns : Int) * (1000000000 + d.trim + d.slew) + d.subNs
  { d with timebase := d.timebase + toWord (t / 1000000000), subNs := t % 1000000000 }

/-- A word of the device's memory becomes poisoned where it lives (R315). -/
def State.poisonWord (s : State) (w : WordLoc) : State :=
  match w with
  | .global pa => s.modMem (fun m => { m with poison := insertN (pa / 8) m.poison })
  | .sram c off => s.modMem (fun m => m.putSram { m.sram c with poison := insertN (off / 8) (m.sram c).poison })

/-- An element of a B slot changes by an upset of its macro (R295). -/
def BSlot.upset (b : BSlot) (column k code : Nat) : BSlot :=
  { b with elems := b.elems.modify column (fun l => l.set k code) }

/-- Dirty words of an L1 line are written back, the others stay dirty (R205, R232). -/
def State.writeBackWords (s : State) (core line : Nat) (mask : BitVec 8) : State :=
  match s.mem.line core line with
  | some x =>
    if x.dirty &&& mask = 0 then s
    else (s.writeBackLine { x with dirty := x.dirty &&& mask }).modMem (fun m => m.putLine { x with dirty := x.dirty &&& ~~~mask })
  | none => s

/-- Whether an offtake goes to another device, so that its status arrives from outside (R360). -/
def State.sentAway (s : State) (id : Nat) : Bool := s.offtakes.any (fun o => decide (o.id = id) && !s.dev.isSelf o.dev)

/-- An input from outside the instruction stream. -/
def State.input (s : State) : Turn → State
  | .tick ns => s.modDev (fun d => d.tick ns)
  | .poison w => s.poisonWord w
  | .poisonL1 core line word =>
    match s.mem.line core line with
    | some x => s.modMem (fun m => m.putLine { x with poison := x.poison ||| BitVec.ofNat 8 (2 ^ (word % 8)) })
    | none => s
  | .poisonL2 die word => s.modMem (fun m => m.poisonSector die (word / 128) [word])
  | .rowFileError core slot addr =>
    match s.threadAt core slot with
    | some t => (s.noteUncorrectable core slot t addr.toNat 0x102 t.pc.toNat).asyncError t.ctx t.recIx
        { uncorrectable 0x102 0 with addr := addr }
    | none => s
  | .corrected pa unit syndrome => s.errRecord { kind := 0x01, addr := pa, x0 := unit, x1 := syndrome }
  | .offtakeStatus id code => if code < 4 && s.sentAway id then s.answerOfftake id code else s
  | .sensors v => s.modDev (fun d => { d with sensors := v :: d.sensors.filter (fun x => decide (x.die ≠ v.die)) })
  | .power watts dies => s.modDev (fun d => { d with power := watts, powerDies := dies })
  | .rails dies => s.modDev (fun d => { d with rails := dies })
  | .stackMonitor i v => s.modDev (fun d => { d with stkmon := setK i (BitVec.ofNat 64 (monitorBits i v.toNat)) d.stkmon })
  | .flushBuffer core line =>
    s.modMem (fun m => { m with hwbuf := m.hwbuf.filter (fun b => decide (¬(b.core = core ∧ b.line = line))) })
  | .writeBack core line mask => s.writeBackWords core line mask
  | .rowBroadcast quad => s.setQuad quad { s.quad quad with abuf := none }
  | .remoteReply k r => s.remoteReply k r
  | .readRegister agent off => s.agentRead agent off
  | .macroUpset quad slot column k code =>
    s.setQuad quad ((s.quad quad).modBslot slot (fun b => b.upset column k code))
  | .run _ | .split _ _ | .event _ => s

/-! ## The turn rule (R128 to R131) -/

/-- Whether a thread's turn is a trap that it holds (R21, R316). -/
def Thread.trapNext (t : Thread) : Bool := t.pendTrap.isSome || (t.asyncErr.isSome && !t.privl.tact)

/-- Whether the open windows of a thread let it issue (R17, R21). -/
def Thread.windowsLet (t : Thread) : Bool :=
  if t.trapNext then t.quiet
  else t.inflight.all (fun e => decide (e.left ≠ 0) || !e.awaiting)

/-- The word of a thread's next instruction: the one that its repeat executes, or that stands at its PC, which for a REP prefix is the
word after it (R22, R103), and whether it is repeated; none where the fetch fails. -/
def State.nextWord (s : State) (core : Nat) (t : Thread) : Option (Nat × Bool) :=
  match t.rep with
  | some r => some (r.inner, true)
  | none =>
    match s.fetchWord t core t.pc.toNat with
    | (.error _, _, _) => none
    | (.ok (w, len), s1, t1) =>
      if isRep w len then
        match (s1.fetchWord t1 core ((t.pc.toNat + 2) % 2 ^ 64)).1 with
        | .ok (v, _) => some (v, true)
        | .error _ => none
      else some (w, false)

/-- Whether a word needs an entry of a queue of the core that is full: the slot is WAITING (R153, R289). -/
def CoreSt.queueFull (c : CoreSt) (w : Nat) : Bool :=
  ((isVectorWord w || isMmacWord w) && decide (4 ≤ c.vq.length)) || (isNoriaWord w && decide (2 ≤ c.nq.length))

/-- Whether the scheduler to which a launch instruction with these uses would go is dead, so that the instruction waits (R335); one
that traps at issue waits for nothing (R102, R128). -/
def State.launchWaits (s : State) (u : Use) (n : Name) : Bool :=
  (s.useFail u).isNone && s.unbound u && (s.launchIndex n).any (fun j => decide (s.dev.recordDie j ∈ s.dev.deadSched))

/-- What SPILL and UNFREEZE use (R344, R349). -/
def sysUse (d a : Name) : Use := { sys := true, reads := ints [a], writes := ints [d] }

/-- Whether a SPILL waits for its slot's thread to stand at a boundary (R349). -/
def State.spillWaits (s : State) (d a : Name) : Bool :=
  (s.useFail (sysUse d a)).isNone && s.unbound (sysUse d a) && !s.spillRefused (s.val a) &&
    (s.threadAt s.cur.1 (s.val a).toNat).any (fun t => t.placing || !t.quiet || t.wait.any Wait.answer)

/-- Whether an UNFREEZE waits: for the windows of a thread that is to enter its handler, or for the noria resources of one that is to
end (R21, R280, R324). -/
def State.unfreezeWaits (s : State) (d a : Name) (action : Nat) : Bool :=
  (s.useFail (sysUse d a)).isNone && s.unbound (sysUse d a) && (match s.masterNamed (s.ext a) with
    | .slot c i => (s.threadAt c i).any (fun t => t.frozen.isSome && (match action with
      | 0 => false
      | 1 => decide (s.rstate t.ctx ≠ 2) && !t.quiet
      | _ => s.quitWaits c { t with inflight := [] }))
    | _ => false)

/-- Whether the next instruction of the running thread awaits something beside its operands and can do nothing until then: its slot is
WAITING (R128). `plain` says that it is not repeated. -/
noncomputable def State.instrWaits (s : State) (plain : Bool) (w : Nat) : Bool :=
  match decodeWord w with
  | .ok .quit | .ok .quit16 => s.quitWaits s.cur.1 s.thr
  | .ok .yield | .ok .yield16 => (s.yieldsTo s.cur.1 s.thr).isSome && !s.thr.quiet
  | .ok .commit | .ok (.resize _ _) | .ok (.unlink _) => !s.thr.quiet
  | .ok (.lpatch d item b _) => plain && !lpatchIllegal item b && s.launchWaits (lpatchUse d item b) d
  | .ok (.larm d _) | .ok (.lfire d _) => plain && s.launchWaits { reads := ints [d] } d
  | .ok (.lstat d a _) => plain && s.launchWaits (use2 d a) a
  | .ok (.spill d a) => plain && s.spillWaits d a
  | .ok (.unfreeze d a n) => plain && s.unfreezeWaits d a n.val
  | _ => false

/-- Whether the next instruction of a slot's thread waits: for a queue of its core, or for something else (R128). -/
noncomputable def State.slotWaits (s : State) (core slot : Nat) (t : Thread) : Bool :=
  (s.nextWord core t).any (fun w =>
    (s.core core).queueFull w.1 || (s.switchTo core slot).any (fun s1 => s1.instrWaits (!w.2) w.1))

/-- Whether the thread of a slot is READY (R128). -/
noncomputable def State.slotReady (s : State) (core slot : Nat) : Bool :=
  match s.threadAt core slot with
  | some t => t.canMove && s.ctxRuns t.ctx && t.windowsLet && (t.trapNext || !s.slotWaits core slot t)
  | none => false

/-- Whether the next instruction of a slot is a noria step (R131). -/
def State.noriaNext (s : State) (core slot : Nat) : Bool :=
  match s.threadAt core slot with
  | some t => !t.trapNext && (s.nextWord core t).any (fun w => isNoriaWord w.1)
  | none => false

/-- Whether the thread of a slot forgoes its own turn (R136). -/
def State.forgoes (s : State) (core slot : Nat) : Bool := (s.threadAt core slot).any (fun t => t.forgo)

/-- The slot that issues in a core's cycle (R130). -/
noncomputable def State.pick (s : State) (core : Nat) : Option Nat :=
  let c := s.core core
  let own := c.entry c.ptr
  if s.slotReady core own && !s.forgoes core own then some own
  else
    let named := (List.range 15).map (fun i => c.entry (c.ptr + 1 + i))
    let rest := (List.range 16).filter (fun i => !c.named i)
    (named ++ rest).find? (fun i => s.slotReady core i && !s.noriaNext core i && !(decide (i = own) && s.forgoes core own))

/-- A core's cycle passes: the pointer advances, the turn that its slot forwent has passed (R129, R136). -/
def State.cycleEnd (s : State) (core : Nat) : State :=
  let c := s.core core
  let s1 := s.setCore core { c with ptr := (c.ptr + 1) % 16 }
  if s.forgoes core (c.entry c.ptr) then s1.modThread core (c.entry c.ptr) (fun t => { t with forgo := false }) else s1

/-- The core whose cycle passes next with nothing on the agenda: the running thread's, else the first that has a slot to issue. -/
noncomputable def State.nextCore (s : State) : Option Nat := (s.cur.1 :: s.cores.map Prod.fst).find? (fun c => (s.pick c).isSome)

/-- The thread of a slot issues. -/
noncomputable def State.runSlot (s : State) (ex : Exec) (core slot : Nat) : Out :=
  match s.switchTo core slot with
  | some s1 => s1.issue ex
  | none => .next s

/-- A core's cycle: the slot of R130 issues, if there is one. -/
noncomputable def State.cycle (s : State) (ex : Exec) (core : Nat) : Out :=
  match s.pick core with
  | some i => (s.cycleEnd core).runSlot ex core i
  | none => .next (s.cycleEnd core)

/-- A core's cycle in which words of the vector store that issues are kept back (R217, R240). -/
noncomputable def State.cycleSplit (s : State) (ex : Exec) (core : Nat) (late : List Nat) : Out :=
  match ({ s with keep := late }).cycle ex core with
  | .next t => .next { t with keep := [] }
  | x => x

/-! ## The engines' own progress -/

/-- The number of threads' slots at which something holds, as (core, slot). -/
def State.slotsWhere (s : State) (p : Thread → Bool) : List (Nat × Nat) :=
  s.cores.flatMap (fun c => (List.range 16).filterMap (fun i =>
    if (s.threadAt c.1 i).any p then some (c.1, i) else none))

noncomputable section

/-- The steps that a quad's engines may take. -/
def State.quadEvents (s : State) : List Instr :=
  s.cores.flatMap (fun c =>
    (if c.2.repackq.isEmpty then [] else [.repackOperation c.1]) ++
    (if c.2.vq.isEmpty then [] else [.vectorUnitTake (c.1 / 4)]) ++ (if c.2.nq.isEmpty then [] else [.noriaTake (c.1 / 4)])) ++
  s.quads.flatMap (fun q =>
    (if q.2.rowsIn.isEmpty then [] else [Instr.rowWritten q.1]) ++
    q.2.loads.filterMap (fun l => l.entry.op.loadDesc.map (fun d => Instr.slotLoaded q.1 d.slot)) ++
    (List.range q.2.drains.length).map (fun k => Instr.rowDrain q.1 k) ++
    q.2.drained.map (fun r => Instr.handlerDispatch r.core))

/-- The steps that the scheduler complexes and the cores may take with records. -/
def State.threadEvents (s : State) : List Instr :=
  s.ready.filterMap (fun f => match f.core with
    | some c => some (.recordPlacement c)
    | none => (s.dieTaker f.ctx f.die).map Instr.recordPlacement) ++
  (s.cores.map (fun c => Instr.parkedThreadSpill c.1)) ++
  (s.resvs.filter (fun e => !e.admitted)).map (fun e => Instr.reservationAdmission e.home) ++
  (s.slotsWhere (fun t => t.asyncErr.isSome && t.wait.isSome)).map (fun p => Instr.asyncErrorDelivery p.1 p.2) ++
  (s.slotsWhere (fun t => match t.wait with | some (.time _ _) => true | _ => false)).map (fun p => Instr.waittWake p.1 p.2)

/-- The steps that the copy, launch, offtake and context engines may take. -/
def State.engineEvents (s : State) : List Instr :=
  s.packets.flatMap (fun p =>
    [.copyPacketNotBefore p.id, .copyPacketExecute p.id, .heldSeqUpdate p.id, .srcEvent p.id, .visEvent p.id] ++
    (if p.collective then [.collectiveExecute (CollPkt.ofNat p.data.toNat).tag []] else [])) ++
  (s.dev.stacksUp.filter (fun b => bit1 (s.dev.reg (0x100 + 8 * b)) 0)).flatMap (fun b =>
    (List.range 256).map (fun e => Instr.copyPacketDequeue b e)) ++
  (List.range s.decrements.length).map Instr.launchDecrement ++
  s.pending.map (fun p => Instr.launchTake p.die) ++
  (s.offtakes.filter (fun o => s.dev.isSelf o.dev)).map (fun o => Instr.offtakeArrival ⟨none, o.packet, o.id⟩) ++
  [.offtakeDispatch, .tlbinvComplete] ++
  s.ctxs.flatMap (fun x => .contextDrained x.id :: (List.range x.sections.length).map (fun k => Instr.quadStateRestore x.id k))

/-- The runnels that parked threads may meet again. -/
def State.runnelEvents (s : State) : List Instr :=
  (s.slotsWhere (fun t => match t.wait with | some (.runnel _ _) => true | _ => false)).map (fun p => Instr.runnelTransfer p.1 p.2)

/-- The first event of a list that changes the machine. -/
def State.firstProgress (s : State) (ex : Exec) : List Instr → Option State
  | [] => none
  | i :: rest =>
    match ex i s with
    | .next s1 => if s1 = s then s.firstProgress ex rest else some s1
    | _ => s.firstProgress ex rest

/-! ## A step -/

/-- A core with a READY thread that waits for its own turn: for a noria step, or after a YIELD (R131, R136). -/
def State.turnAwaited (s : State) : Option Nat :=
  (s.cores.map Prod.fst).find? (fun c => (List.range 16).any (fun i => s.slotReady c i && (s.core c).named i))

/-- The engines' own progress with nothing on the agenda: the first event that changes the machine, if there is one. -/
def State.engineTurn (s : State) (ex : Exec) : State :=
  (s.firstProgress ex (s.quadEvents ++ s.threadEvents ++ s.engineEvents ++ s.runnelEvents)).getD s

/-- A step with nothing on the agenda (log 3): a core's cycle by R130, and once in sixteen cycles an engine's progress before
it; where no slot can issue, an engine's progress and the end of a cycle in which a thread waits for its own turn. -/
def State.unscheduled (s : State) (ex : Exec) : Out :=
  match s.nextCore with
  | some c => (if (s.core c).ptr = 0 then s.engineTurn ex else s).cycle ex c
  | none =>
    let s1 := s.engineTurn ex
    match s1.turnAwaited with
    | some c => .next (s1.cycleEnd c)
    | none => .next s1

/-- A turn that the agenda names. -/
def State.turn (s : State) (ex : Exec) (t : Turn) : Out :=
  match t with
  | .run c => s.cycle ex c
  | .split c late => s.cycleSplit ex c late
  | .event i => if isEvent i then ex i s else .next s
  | x => .next (s.input x)

/-- What restarts a part whose clocks have stopped (R381). -/
def restarts : Instr → Bool
  | .powerLoss | .bootcmdReset => true
  | _ => false

/-- Whether a turn can be taken with stopped clocks: what restarts the part, the write of BOOTCMD that ends minimal mode, and a read of
BOOTST from outside (R377, R379, R381). -/
def runsStopped : Turn → Bool
  | .event .bootcmdClearMinimal => true
  | .event i => restarts i
  | .readRegister .host 0 | .readRegister .management 0 => true
  | _ => false

/-- The records of the poisoned words that a step has written back to HBM: charged to the sector's owner, naming the context whose
access caused it, that of the running thread after a core's cycle, any for an event (R317, R321, log 5). -/
def State.noteLost (s : State) (cycle : Bool) : State :=
  if s.mem.lost.isEmpty then s
  else
    let (other, s1) := if cycle then (s.thr.ctx, s) else s.choose 4096
    s.mem.lost.foldl (fun t w => t.notePoisoned w.1 other [w.2]) (s1.modMem (fun m => { m with lost := [] }))

/-- Ends a step. -/
def State.endStep (cycle : Bool) : Out → Out
  | .next s => .next (s.noteLost cycle)
  | x => x

/-- Whether a turn is a core's cycle. -/
def Turn.isCycle : Turn → Bool
  | .run _ | .split _ _ => true
  | _ => false

/-- One step: with stopped clocks, only what restarts the part (R381); else the agenda's next turn, else an unscheduled one. -/
def State.advance (s : State) (ex : Exec) : Out :=
  match s.agenda with
  | t :: rest =>
    if s.dev.clocksStopped && !runsStopped t then .fault .clocksStopped
    else State.endStep t.isCycle (({ s with agenda := rest }).turn ex t)
  | [] => if s.dev.clocksStopped then .fault .clocksStopped else State.endStep true (s.unscheduled ex)

end

/-! ## An instruction placed for the next step -/

/-- The bytes stored where pieces lie, in memory itself: no cache holds another copy, nothing there is poisoned. -/
def Mem.placePieces (m : Mem) (core : Nat) : List Piece → List Byte → Mem
  | [], _ => m
  | x :: rest, bs =>
    let m1 := match x.loc with
      | .global pa _ _ =>
        let m0 := (m.homeWrite (bytesAt pa (bs.take x.n))).dropLine core (pa / 64)
        { m0 with poison := m0.poison.filter (fun w => decide (w ∉ wordsOf pa x.n)) }
      | .sram c off =>
        let m0 := m.sramWrite c (bytesAt off (bs.take x.n))
        m0.putSram { m0.sram c with poison := (m0.sram c).poison.filter (fun w => decide (w ∉ wordsOf off x.n)) }
    m1.placePieces core rest (bs.drop x.n)

/-- Where the running thread's next instruction would be fetched, if it would: nothing stands between it and the fetch. -/
def State.fetchPieces (s : State) : Option (List Piece) :=
  let t := s.thr
  let c := s.core s.cur.1
  if s.hasRunning && t.canMove && s.ctxRuns t.ctx && t.pendTrap.isNone && t.asyncErr.isNone && t.rep.isNone &&
      t.inflight.isEmpty && !t.instrMatch && s.late.isEmpty && s.keep.isEmpty && s.mem.lost.isEmpty &&
      decide (c.vq.length < 4) && decide (c.nq.length < 2) && decide (s.cur.2 < 16) then
    match (s.access t s.cur.1 .fetch t.pc.toNat 6 2).1 with
    | .ok ps =>
      if ps.all (fun x => match x.loc with
        | .global pa _ _ => decide (s.dev.paKind pa = .hbm) && (s.dev.poisonedObject (pa / 65536 * 65536)).isNone
        | .sram _ _ => true) then some ps
      else none
    | .error _ => none
  else none

/-- The context of the loader that stands for the loading of a program (log 1): its global window maps the first GiB of
memory onto itself with every right, its private segments lie in the second. -/
def loaderContext : Ctx where
  id := 1
  root := 0x10000
  prvbase := 0x4000
  prvsz := 16
  cpool := 0x40000
  cpsz := 2
  lpool := 0x50000
  save := 0x200000
  secsize := 0x100000
  rstate := 1
  recs := [RecInfo.new 0 none 0]
  sections := []

/-- The loader's thread: at system privilege, every name unsigned, 64 bits, in wrap mode. -/
def loaderThread : Thread :=
  { Thread.empty with
    ctx := 1
    pc := 0x10000
    names := Vector.ofFn (fun i : Fin 64 =>
      if i.val < 63 then { NameCell.undeclared with width := 64 } else NameCell.undeclared)
    privl := ⟨true, false, false, false⟩
    trapv := 0x20000
    traprec := 0x30000 }

/-- The loader's page tables: a root, a second table, a third with two leaves (R199). -/
def loaderTables : List Host.Cell :=
  bytesAt 0x10000000 (leBytes 8 0x10001001) ++ bytesAt 0x10001000 (leBytes 8 0x10002001) ++
    bytesAt 0x10002000 (leBytes 8 0x1F) ++ bytesAt 0x10002008 (leBytes 8 0x4000003F)

/-- The state with the loader's thread running in slot 0 of core 0. -/
def State.withLoader (s : State) : State :=
  let s1 := s.checkIn
  let c := s1.core 0
  let s2 := s1.setCore 0 (CoreSt.setSlot { c with vq := [], nq := [] } 0 ⟨false, .running⟩)
  { s2 with
    late := []
    keep := []
    thr := loaderThread
    cur := (0, 0)
    ctxs := loaderContext :: s2.ctxs.filter (fun x => decide (x.id ≠ 1))
    mem := { s2.mem.homeWrite loaderTables with lost := [] }
    dev := { s2.dev with clocksStopped := false, bootState := 1, bootStage := 4 } }

/-- The pages of code that pieces lie in. -/
def codePages (ps : List Piece) : List Nat :=
  (ps.filterMap (fun x => match x.loc with | .global pa _ _ => some (pa / 65536 * 65536) | _ => none)).eraseDups

/-- The device with pages of code listed as checked and good (R334). -/
def Device.pagesGood (d : Device) (pages : List Nat) : Device :=
  let new := (pages.filter (fun p => !d.poisonedObjects.any (fun x => decide (x.1 = p)))).map (fun p => (p, Config.codeObject p, 1))
  { d with poisonedObjects := new ++ d.poisonedObjects }

/-- The state with a word placed where the running thread fetches next: its code page checked, its core's cycle next on the agenda
and its slot's own. -/
def State.placeAt (s : State) (ps : List Piece) (nbits w : Nat) : State :=
  let m := { s.mem with tlb := s.mem.tlb.filter (fun e => decide (e.ctx ≠ s.thr.ctx)) }
  let m1 := Mem.placePieces m s.cur.1 ps (wordBytes (w % 2 ^ nbits) ++ [0, 0])
  { s.setCore s.cur.1 { s.core s.cur.1 with rottab := CoreSt.reset.rottab, ptr := s.cur.2 } with
    mem := { m1 with lost := [] }
    thr := { s.thr with code := [], codeView := ⟨s.cur.1, m1⟩, forgo := false }
    agenda := [.run s.cur.1]
    dev := { s.dev.pagesGood (codePages ps) with clocksStopped := false } }

/-- The state with a word placed where the next step fetches: at the running thread's PC, or at the PC of the loader's thread
where no thread would fetch (log 1). -/
def State.placeWord (s : State) (nbits w : Nat) : State :=
  match s.fetchPieces with
  | some ps => s.placeAt ps nbits w
  | none =>
    let s1 := s.withLoader
    match s1.fetchPieces with
    | some ps => s1.placeAt ps nbits w
    | none => s1

end Sys2Proof.Machine
end

