-- ==== Sys2Proof/Machine/Step.lean ====
section
/-! DEFINITION. Step: one step of the machine, and an instruction placed where the next step fetches. -/

namespace Sys2Proof.Machine
open Sys2Proof

/-- One step: the turn that the machine takes next, its instruction's meaning given by `exec`. -/
noncomputable def step (s : State) : Host.Outcome State Fault Refusal := s.advance exec

/-- The state with an instruction placed where the next step fetches it. -/
def State.withFetchWord (s : State) (nbits w : Nat) : State := s.placeWord nbits w

end Sys2Proof.Machine
end

