-- ==== Sys2Proof/Safety.lean ====
section
/-! DEFINITION. Safety: what a run is called safe for, in the terms that claims use. -/

namespace Sys2Proof.Machine
open Sys2Proof

/-- A step that goes on. -/
def State.StepsTo (s t : State) : Prop := step s = .next t

/-- A step is safe when the machine goes on: the only stop is that of stopped clocks (R381). -/
def State.Safe (s : State) : Prop := ∃ t, s.StepsTo t

/-- Memory in its one form: every list of bytes ascends by address and lists no byte that is 0 (log 4). -/
def Mem.wf (m : Mem) : Bool := cellsWf m.hbm && m.l2.all (fun x => cellsWf x.cells) && m.srams.all (fun x => cellsWf x.cells)

/-- The threads of the machine that stand in slots, the running one among them. -/
def State.slotThreads (s : State) : List Thread :=
  s.thr :: s.cores.flatMap (fun c => c.2.slots.toList.filterMap (fun x => match x.occ with
    | .thread t => some t
    | _ => none))

end Sys2Proof.Machine
end

