-- ==== Sys2Proof/Certificates/Slice0/Obligations.lean ====
section
/-! DEFINITION. Obligations: what is claimed of the machine, for the provers. -/

namespace Sys2Proof.Claims
open Sys2Proof Sys2Proof.Machine

/-! ## Words in which the claims are made -/

/-- An instruction that uses `u` may execute: the checks of R29 pass (privilege, map, lookahead) and what its bound names
bring is at hand (R160, R254), in the state `s1`. With no operand bound, `s1` is `s`. -/
def Ready (s : State) (u : Use) (s1 : State) : Prop := s.useFail u = none ∧ s.gather u = .ready s1

/-- The state after an instruction that has completed: what it read is consumed, its result is written, the PC or the
repeat moves on. -/
def After (s : State) (reads : List Name) (r : Pending) : State := ((s.consume reads).apply r).retire

/-- The state after a long-latency instruction has issued: complete with look 0, else with its window open (R17). -/
def AfterLong (s : State) (look : Nat) (reads : List Name) (r : Pending) : State :=
  if look = 0 then After s reads r else ((s.consume reads).openWindow look r .nothing).retire

/-- The result that writes one name and flags. -/
def put1 (d : Name) (p : Word) (f : FlagWrite) : Pending := { Pending.none with names := [(d, p)], flags := f }

/-- The result that writes one vector register. -/
def putV (d : VReg) (x : VRegVal) : Pending := { Pending.none with vregs := [(d, x)] }

/-- The noise words of a conversion: one in mode SR, none in another mode (R55, R58). -/
def Drawn (s : State) (rm : RMode) (ws : List Nat) (s1 : State) : Prop :=
  (rm = .sr ∧ s.draws 1 = (.ok ws, s1)) ∨ (rm ≠ .sr ∧ ws = [] ∧ s1 = s)

/-- An instruction of the common form: what it uses, its destination, its exact result. -/
structure IntRow where
  use : Use
  d : Name
  value : State → Int

/-- A row with these sources. -/
def row (reads : List Name) (d : Name) (value : State → Int) : Option IntRow :=
  some ⟨{ reads := ints reads, writes := ints [d] }, d, value⟩

/-- The instructions that narrow an exact result into a name and write the flags of the narrowing (R37, R104 to R110, R115,
R165, R168, R169, R255, R256, R348), with the exact result that the spec gives each. -/
def intRow : Instr → Option IntRow
  | .add d a b => row [a, b] d (fun s => s.val a + s.val b)
  | .sub d a b => row [a, b] d (fun s => s.val a - s.val b)
  | .mul d a b => row [a, b] d (fun s => s.val a * s.val b)
  | .mulh d a b => row [a, b] d (fun s => s.val a * s.val b / 2 ^ (s.thr.name d).width)
  | .and d a b => row [a, b] d (fun s => andInt (s.val a) (s.val b))
  | .or d a b => row [a, b] d (fun s => orInt (s.val a) (s.val b))
  | .xor d a b => row [a, b] d (fun s => xorInt (s.val a) (s.val b))
  | .andn d a b => row [a, b] d (fun s => andInt (s.val a) (-s.val b - 1))
  | .shl d a b => row [a, b] d (fun s => shlInt (s.val a) (shiftAmount (s.val b)))
  | .shr d a b => row [a, b] d (fun s => shrInt (s.upat a) (shiftAmount (s.val b)))
  | .sra d a b => row [a, b] d (fun s => sraInt (s.val a) (shiftAmount (s.val b)))
  | .rol d a b => row [a, b] d (fun s => s.rolVal a (shiftAmount (s.val b)))
  | .min d a b => row [a, b] d (fun s => if s.val a ≤ s.val b then s.val a else s.val b)
  | .minu d a b => row [a, b] d (fun s => if s.upat a ≤ s.upat b then s.upat a else s.upat b)
  | .max d a b => row [a, b] d (fun s => if s.val a ≤ s.val b then s.val b else s.val a)
  | .maxu d a b => row [a, b] d (fun s => if s.upat a ≤ s.upat b then s.upat b else s.upat a)
  | .ceq d a b => row [a, b] d (fun s => if s.val a = s.val b then 1 else 0)
  | .cne d a b => row [a, b] d (fun s => if s.val a = s.val b then 0 else 1)
  | .clt d a b => row [a, b] d (fun s => if s.val a < s.val b then 1 else 0)
  | .cltu d a b => row [a, b] d (fun s => if s.upat a < s.upat b then 1 else 0)
  | .cle d a b => row [a, b] d (fun s => if s.val a ≤ s.val b then 1 else 0)
  | .cleu d a b => row [a, b] d (fun s => if s.upat a ≤ s.upat b then 1 else 0)
  | .sel d a b => some ⟨{ reads := ints [a, b], writes := ints [d], flags := .z }, d,
      fun s => if s.thr.flags.z then s.val b else s.val a⟩
  | .bfx d a b => row [a, b] d (fun s => bfxVal (s.upat a) (fieldOf (s.upat b)))
  | .clz d a => row [a] d (fun s => ((s.thr.name a).width : Int) - bitLength (s.upat a))
  | .popc d a => row [a] d (fun s => (popCount 64 (s.upat a) : Int))
  | .abs d a => row [a] d (fun s => if s.val a < 0 then -s.val a else s.val a)
  | .neg d a => row [a] d (fun s => -s.val a)
  | .not d a => row [a] d (fun s => -s.val a - 1)
  | .addi d a i => row [a] d (fun s => s.val a + i)
  | .andi d a i => row [a] d (fun s => andInt (s.val a) i)
  | .ori d a i => row [a] d (fun s => orInt (s.val a) i)
  | .xori d a i => row [a] d (fun s => xorInt (s.val a) i)
  | .shli d a i => row [a] d (fun s => shlInt (s.val a) i)
  | .shri d a i => row [a] d (fun s => shrInt (s.upat a) i)
  | .srai d a i => row [a] d (fun s => sraInt (s.val a) i)
  | .clti d a i => row [a] d (fun s => if s.val a < i then 1 else 0)
  | .ldk d i => row [] d (fun _ => i)
  | .ldks d i => row [d] d (fun s => s.val d * 524288 + i)
  | .width d a => some ⟨{ decls := [(a, .any)], writes := ints [d] }, d,
      fun s => if a = 63 then 0 else (s.thr.name a).entry⟩
  | .movis d i => row [63] (n16 d) (fun s => s.val 63 + i)
  | .add16 d b => row [n16 d, n16 b] (n16 d) (fun s => s.val (n16 d) + s.val (n16 b))
  | .sub16 d b => row [n16 d, n16 b] (n16 d) (fun s => s.val (n16 d) - s.val (n16 b))
  | .mul16 d b => row [n16 d, n16 b] (n16 d) (fun s => s.val (n16 d) * s.val (n16 b))
  | .and16 d b => row [n16 d, n16 b] (n16 d) (fun s => andInt (s.val (n16 d)) (s.val (n16 b)))
  | .or16 d b => row [n16 d, n16 b] (n16 d) (fun s => orInt (s.val (n16 d)) (s.val (n16 b)))
  | .xor16 d b => row [n16 d, n16 b] (n16 d) (fun s => xorInt (s.val (n16 d)) (s.val (n16 b)))
  | .shl16 d b => row [n16 d, n16 b] (n16 d) (fun s => shlInt (s.val (n16 d)) (shiftAmount (s.val (n16 b))))
  | .shr16 d b => row [n16 d, n16 b] (n16 d) (fun s => shrInt (s.upat (n16 d)) (shiftAmount (s.val (n16 b))))
  | .sra16 d b => row [n16 d, n16 b] (n16 d) (fun s => sraInt (s.val (n16 d)) (shiftAmount (s.val (n16 b))))
  | .min16 d b => row [n16 d, n16 b] (n16 d) (fun s => if s.val (n16 d) ≤ s.val (n16 b) then s.val (n16 d) else s.val (n16 b))
  | .max16 d b => row [n16 d, n16 b] (n16 d) (fun s => if s.val (n16 d) ≤ s.val (n16 b) then s.val (n16 b) else s.val (n16 d))
  | .neg16 d b => row [n16 b] (n16 d) (fun s => -s.val (n16 b))
  | .not16 d b => row [n16 b] (n16 d) (fun s => -s.val (n16 b) - 1)
  | .abs16 d b => row [n16 b] (n16 d) (fun s => if s.val (n16 b) < 0 then -s.val (n16 b) else s.val (n16 b))
  | .clt16 d b => row [n16 d, n16 b] (n16 d) (fun s => if s.val (n16 d) < s.val (n16 b) then 1 else 0)
  | .fceq d a b => some ⟨{ reads := floats [a, b], writes := ints [d] }, d, fun s => truth ((s.fval a).eq (s.fval b))⟩
  | .fclt d a b => some ⟨{ reads := floats [a, b], writes := ints [d] }, d, fun s => truth ((s.fval a).lt (s.fval b))⟩
  | .fcle d a b => some ⟨{ reads := floats [a, b], writes := ints [d] }, d,
      fun s => truth ((s.fval a).lt (s.fval b) || (s.fval a).eq (s.fval b))⟩
  | .fclass d a => some ⟨{ reads := floats [a], writes := ints [d] }, d, fun s => ipow ((s.fmtOf a).classOf (s.upat a))⟩
  | .csrr d c => some ⟨{ sys := !userCsr c, writes := ints [d] }, d, fun s => s.csrRead c⟩
  | .tid d i => row [] d (fun s => s.identity i.val)
  | .rotr d => row [] d (fun s => (s.core s.cur.1).rottab.toNat)
  | .ldirr d => row [] d (fun s => (s.core s.cur.1).ldir.toNat)
  | .sptest d a => row [a] d (fun s => ptrTag (s.ext a))
  | .spcast d a => row [a] d (fun s => castPtr s.cur.1 (s.ext a))
  | .spmake d a => row [a] d (fun s => makePtr s.cur.1 (s.val a))
  | .spcore d a => row [a] d (fun s => ptrCoreVal (s.ext a))
  | .dtget d i => row [] d (fun s => s.dev.timeItem i.val)
  | _ => none

/-- The scalar float instructions whose exact result is rounded once into the destination's format (R115, R116). -/
def floatRow : Instr → Option (List Name × Name × (State → FVal))
  | .fadd d a b => some ([a, b], d, fun s => (s.fval a).add (s.fval b))
  | .fsub d a b => some ([a, b], d, fun s => (s.fval a).add (s.fval b).neg)
  | .fmul d a b => some ([a, b], d, fun s => (s.fval a).mul (s.fval b))
  | .fdiv d a b => some ([a, b], d, fun s => (s.fval a).div (s.fval b))
  | .fsqrt d a => some ([a], d, fun s => (s.fval a).sqrt)
  | .fmin d a b => some ([a, b], d, fun s => (s.fval a).minNum (s.fval b))
  | .fmax d a b => some ([a, b], d, fun s => (s.fval a).maxNum (s.fval b))
  | .fneg d a => some ([a], d, fun s => (s.fval a).neg)
  | .fabs d a => some ([a], d, fun s => (s.fval a).abs)
  | _ => none

/-- The fused instructions: what is made of the exact product and of the destination's value (R118). -/
def fusedRow : Instr → Option (Name × Name × Name × Look × (FVal → FVal → FVal))
  | .fma d a b l => some (d, a, b, l, fun p x => p.add x)
  | .fms d a b l => some (d, a, b, l, fun p x => p.add x.neg)
  | .fnma d a b l => some (d, a, b, l, fun p x => x.add p.neg)
  | _ => none

/-- The divisions and their quotients or remainders for a divisor that is not 0 (R37, R104). -/
def divRow : Instr → Option (Name × Name × Name × (State → Int))
  | .div d a b => some (d, a, b, fun s => (s.val a).tdiv (s.val b))
  | .divu d a b => some (d, a, b, fun s => (s.upat a / s.upat b : Nat))
  | .rem d a b => some (d, a, b, fun s => (s.val a).tmod (s.val b))
  | .remu d a b => some (d, a, b, fun s => (s.upat a % s.upat b : Nat))
  | _ => none

/-- MOV in both its lengths (R80, R107). -/
def moveRow : Instr → Option (Name × Name)
  | .mov d a => some (d, a)
  | .mov16 d b => some (n16 d, n16 b)
  | _ => none

/-- The branches: what they read, their offset, their condition (R112). -/
def branchRow : Instr → Option (Use × Int × (State → Bool))
  | .beq a b o => some ({ reads := ints [a, b] }, o, fun s => decide (s.val a = s.val b))
  | .bne a b o => some ({ reads := ints [a, b] }, o, fun s => decide (s.val a ≠ s.val b))
  | .blt a b o => some ({ reads := ints [a, b] }, o, fun s => decide (s.val a < s.val b))
  | .bge a b o => some ({ reads := ints [a, b] }, o, fun s => decide (s.val b ≤ s.val a))
  | .bltu a b o => some ({ reads := ints [a, b] }, o, fun s => decide (s.upat a < s.upat b))
  | .bgeu a b o => some ({ reads := ints [a, b] }, o, fun s => decide (s.upat b ≤ s.upat a))
  | .bsf o => some ({ flags := .sf }, o, fun s => s.thr.flags.sf)
  | _ => none

end Sys2Proof.Claims

open Sys2Proof Sys2Proof.Machine Sys2Proof.Claims

/-! ## Integer and float arithmetic -/

/-- R35, R104 to R110, R115, R122, R165, R168, R169, R255, R348: an integer result is the exact one, narrowed, with the
flags of the narrowing. -/
def Sys2Proof.Claims.IntegerResult : Prop :=
  ∀ (i : Instr) (w : IntRow) (s s1 : State) (r : Narrowed), intRow i = some w → Ready s w.use s1 →
    s1.thr.narrow w.d (w.value s1) = some r →
    exec i s = .next (After s1 w.use.names (put1 w.d r.pat r.flags))

/-- R29, R35: where a trap-mode name cannot hold the result, WIDTH_OVERFLOW is taken with the name's index and the low 64
bits of the exact result, and nothing is written. -/
def Sys2Proof.Claims.IntegerOverflow : Prop :=
  ∀ (i : Instr) (w : IntRow) (s s1 : State), intRow i = some w → Ready s w.use s1 →
    s1.thr.narrow w.d (w.value s1) = none →
    exec i s = .next (s1.takeTrap (mkTrap .widthOverflow 0 w.d.val (lowBits 64 (w.value s1))))

/-- R37, R104: a division by a pattern that is not 0: its exact quotient or remainder is narrowed like any other result. -/
def Sys2Proof.Claims.DivisionResult : Prop :=
  ∀ (i : Instr) (d a b : Name) (f : State → Int) (s s1 : State) (r : Narrowed), divRow i = some (d, a, b, f) →
    Ready s (use3 d a b) s1 → s1.upat b ≠ 0 →
    (s1.thr.narrow d (f s1) = some r → exec i s = .next (After s1 [a, b] (put1 d r.pat r.flags))) ∧
    (s1.thr.narrow d (f s1) = none →
      exec i s = .next (s1.takeTrap (mkTrap .widthOverflow 0 d.val (lowBits 64 (f s1)))))

/-- R37: a zero divisor raises DIVIDE_BY_ZERO with ext64 of the dividend in X0, in every mode. -/
def Sys2Proof.Claims.DivisionByZero : Prop :=
  ∀ (i : Instr) (d a b : Name) (f : State → Int) (s s1 : State), divRow i = some (d, a, b, f) →
    Ready s (use3 d a b) s1 → s1.upat b = 0 →
    exec i s = .next (s1.takeTrap (mkTrap .divideByZero 0 (s1.ext a) 0))

/-- R115, R116, R118: a float result is the exact one rounded once to nearest even into the destination's format; no flag is
written; a fused operation rounds once, in its window. -/
def Obligations.FloatResult : Prop :=
  (∀ (i : Instr) (srcs : List Name) (d : Name) (f : State → FVal) (s s1 : State), floatRow i = some (srcs, d, f) →
    Ready s { reads := floats srcs, writes := floats [d] } s1 →
    exec i s = .next (After s1 srcs (put1 d (BitVec.ofNat 64 ((s1.fmtOf d).rne (f s1))) FlagWrite.none))) ∧
  (∀ (i : Instr) (d a b : Name) (l : Look) (f : FVal → FVal → FVal) (s s1 : State), fusedRow i = some (d, a, b, l, f) →
    Ready s { reads := floats [d, a, b], writes := floats [d] } s1 →
    exec i s = .next (AfterLong s1 l.val [d, a, b] (put1 d
      (BitVec.ofNat 64 ((s1.fmtOf d).rne (f ((s1.fval a).mul (s1.fval b)) (s1.fval d)))) FlagWrite.none)))

/-- R55, R71, R115, R117: a conversion between float formats, or from an integer, rounds the exact value in its mode; into an
integer it rounds and narrows. With mode SR it draws one noise word; where SR would be exact the word is illegal. -/
def Obligations.ConversionResult : Prop :=
  ∀ (d a : Name) (rm : RMode) (s s1 s2 : State) (ws : List Nat), Drawn s1 rm ws s2 →
    (Ready s { reads := floats [a], writes := floats [d] } s1 → srRefused rm ((s.fmtOf a).within (s.fmtOf d)) = none →
      exec (.fcvt d a rm) s = .next (After s2 [a] (put1 d
        (BitVec.ofNat 64 ((s2.fmtOf d).round rm (ws.headD 0) (s2.fval a))) FlagWrite.none))) ∧
    (Ready s { reads := ints [a], writes := floats [d] } s1 →
      srRefused rm ((s.fmtOf d).holdsInt (s.thr.name a).kind (s.thr.name a).width) = none →
      exec (.fcvtf d a rm) s = .next (After s2 [a] (put1 d
        (BitVec.ofNat 64 ((s2.fmtOf d).round rm (ws.headD 0) (FVal.ofInt (s2.val a)))) FlagWrite.none))) ∧
    (∀ r : Narrowed, Ready s { reads := floats [a], writes := ints [d] } s1 →
      convertInt d (s1.thr.name d) (s1.fval a) rm (ws.headD 0) = .ok r →
      exec (.fcvti d a rm) s = .next (After s2 [a] (put1 d r.pat r.flags))) ∧
    (∀ x : Trap, Ready s { reads := floats [a], writes := ints [d] } s1 →
      convertInt d (s1.thr.name d) (s1.fval a) rm (ws.headD 0) = .error x →
      exec (.fcvti d a rm) s = .next (s1.takeTrap x)) ∧
    (s.useFail { reads := floats [a], writes := floats [d] } = none → (s.fmtOf a).within (s.fmtOf d) = true →
      exec (.fcvt d a .sr) s = .next (s.takeTrap (mkTrap .illegalInstruction 0 0 0))) ∧
    (s.useFail { reads := ints [a], writes := floats [d] } = none →
      (s.fmtOf d).holdsInt (s.thr.name a).kind (s.thr.name a).width = true →
      exec (.fcvtf d a .sr) s = .next (s.takeTrap (mkTrap .illegalInstruction 0 0 0)))

/-- R107: MOV narrows a value with its flags, or between names of one float kind copies the pattern with no flag. -/
def Sys2Proof.Claims.MoveResult : Prop :=
  ∀ (i : Instr) (d a : Name) (s s1 : State), moveRow i = some (d, a) → Ready s (s.movUse d a) s1 →
    ((s1.thr.name a).kind.isFloat = true → exec i s = .next (After s1 [a] (put1 d (s1.pat a) FlagWrite.none))) ∧
    (∀ r, (s1.thr.name a).kind.isFloat = false → s1.thr.narrow d (s1.val a) = some r →
      exec i s = .next (After s1 [a] (put1 d r.pat r.flags))) ∧
    ((s1.thr.name a).kind.isFloat = false → s1.thr.narrow d (s1.val a) = none →
      exec i s = .next (s1.takeTrap (mkTrap .widthOverflow 0 d.val (lowBits 64 (s1.val a)))))

/-- R106: BFI writes the field into the destination's pattern, with the flags of the pattern's value; nothing is narrowed. -/
def Sys2Proof.Claims.FieldInsert : Prop :=
  ∀ (d a b : Name) (s s1 : State), Ready s { reads := ints [d, a, b], writes := ints [d] } s1 →
    let q := bfiPat (s1.thr.name d).width (s1.upat d) (s1.upat a) (fieldOf (s1.upat b))
    let x := patVal (s1.thr.name d).kind (s1.thr.name d).width q
    exec (.bfi d a b) s = .next (After s1 [d, a, b] (put1 d (BitVec.ofNat 64 q)
      ⟨some (decide (x = 0)), some (decide (x < 0)), some false, some false, false⟩))

/-- R43, R111: MODE sets a name's mode, MFF copies the flags word or overflows, MTF writes the five flags, SFCLR clears SF;
none of them writes a flag beside those. MODE raises MAP_FAULT for n63, an undeclared name and a float name; of a bound name it does
so only for MODE to trap on a flume binding, which is the model's reading (log 14, DEDUCED: R159 and R254 against R43). -/
def Sys2Proof.Claims.MapAndFlags : Prop :=
  ∀ (d : Name) (s s1 : State),
    (∀ md, Ready s { decls := ints [d] } s1 → d ≠ 63 → (∀ h q, (s1.thr.name d).bind = .flume h q → md ≠ .trap) →
      exec (.mode d md) s = .next (s1.modThr (fun t => t.setName d { t.name d with mode := md })).retire) ∧
    (∀ h q, Ready s { decls := ints [d] } s1 → (d = 63 ∨ (s1.thr.name d).bind = .flume h q) →
      exec (.mode d .trap) s = .next (s1.takeTrap (mapFault d.val))) ∧
    (∀ md, ((s.thr.name d).width = 0 ∨ (s.thr.name d).kind.isFloat = true ∨ (d = 63 ∧ Ready s { decls := ints [d] } s)) →
      exec (.mode d md) s = .next (s.takeTrap (mapFault d.val))) ∧
    (∀ r, Ready s { writes := ints [d], flags := .all } s1 → s1.thr.narrow d s1.thr.flags.word = some r →
      exec (.mff d) s = .next (After s1 [] (put1 d r.pat FlagWrite.none))) ∧
    (Ready s { writes := ints [d], flags := .all } s1 → s1.thr.narrow d s1.thr.flags.word = none →
      exec (.mff d) s = .next (s1.takeTrap (mkTrap .widthOverflow 0 d.val s1.thr.flags.word))) ∧
    (Ready s { reads := ints [d] } s1 →
      exec (.mtf d) s = .next ((s1.consume [d]).modThr (fun t => t.setFlags (Flags.ofNat (s1.upat d)))).retire) ∧
    (Ready s {} s1 → ∃ t, exec .sfclr s = .next t ∧
      t.thr.flags = { s1.thr.flags with sf := false } ∧ t = { s1 with thr := t.thr })

/-- R42, R49: a RESIZE with no window open writes the narrowed pattern and the new width, and its flags. It raises MAP_FAULT for n63,
an undeclared name, a float name and a bound name, and WIDTH_OVERFLOW with the value of the name where a name in trap mode does not
hold it in the new width; then nothing else has changed. -/
def Sys2Proof.Claims.ResizeResult : Prop :=
  ∀ (d : Name) (wid : Nat) (s s1 : State), s.quieted = some s1 →
    let c := s1.thr.name d
    let x := patVal c.kind c.width c.pat.toNat
    (∀ r, Ready s1 { decls := ints [d] } s1 → d ≠ 63 → c.bind = .none → narrow c.kind wid c.mode x = some r →
      (s1.core s1.cur.1).repackq = [] → s1.thr.rep = none →
      ∃ t, exec (.resize d wid) s = .next t ∧ (t.thr.name d).width = wid ∧ (t.thr.name d).pat = r.pat ∧
        t.thr.flags = s1.thr.flags.put r.flags ∧ t.mem = s1.mem) ∧
    (Ready s1 { decls := ints [d] } s1 → d ≠ 63 → c.bind = .none → narrow c.kind wid c.mode x = none →
      exec (.resize d wid) s = .next (s1.takeTrap (mkTrap .widthOverflow 0 d.val (lowBits 64 x)))) ∧
    (Ready s1 { decls := ints [d] } s1 → (d = 63 ∨ c.bind ≠ .none) →
      exec (.resize d wid) s = .next (s1.takeTrap (mapFault d.val))) ∧
    ((c.width = 0 ∨ c.kind.isFloat = true) → exec (.resize d wid) s = .next (s1.takeTrap (mapFault d.val)))

/-! ## Control -/

/-- R13, R112: a branch goes to the PC plus twice its offset when its condition holds, else past the instruction; it writes no
flag and no name. -/
def Sys2Proof.Claims.BranchResult : Prop :=
  ∀ (i : Instr) (u : Use) (off : Int) (c : State → Bool) (s s1 : State), branchRow i = some (u, off, c) → Ready s u s1 →
    exec i s = .next (if c s1 then (s1.consume u.names).modThr (fun t => t.jumpTo (t.pc + BitVec.ofInt 64 (2 * off)))
      else (s1.consume u.names).retire)

/-- R113, R114: JMP and CALL go to the PC plus twice the offset, JMPR and CALLR to a name's value plus the offset, which must
be even; CALL and CALLR write PC + 4 to lk. -/
def Sys2Proof.Claims.JumpResult : Prop :=
  ∀ (a : Name) (off : Int) (s s1 : State),
    (Ready s {} s1 → exec (.jmp off) s = .next (s1.modThr (fun t => t.jumpTo (t.pc + BitVec.ofInt 64 (2 * off))))) ∧
    (Ready s { writes := [(62, .u64)] } s1 → exec (.call off) s =
      .next (s1.modThr (fun t => (t.setPat 62 (t.pc + 4)).jumpTo (t.pc + BitVec.ofInt 64 (2 * off))))) ∧
    (Ready s { reads := ints [a] } s1 → lowBits 64 (s1.val a + off) % 2 = 0 → exec (.jmpr a off) s =
      .next ((s1.consume [a]).modThr (fun t => t.jumpTo (BitVec.ofNat 64 (lowBits 64 (s1.val a + off)))))) ∧
    (Ready s { reads := ints [a], writes := [(62, .u64)] } s1 → lowBits 64 (s1.val a + off) % 2 = 0 →
      exec (.callr a off) s = .next ((s1.consume [a]).modThr (fun t =>
        (t.setPat 62 (t.pc + 4)).jumpTo (BitVec.ofNat 64 (lowBits 64 (s1.val a + off)))))) ∧
    (Ready s { reads := ints [a] } s1 → lowBits 64 (s1.val a + off) % 2 = 1 →
      exec (.jmpr a off) s = .next (s1.takeTrap (mkTrap .align (lowBits 64 (s1.val a + off)) 0 0))) ∧
    (Ready s { reads := ints [a], writes := [(62, .u64)] } s1 → lowBits 64 (s1.val a + off) % 2 = 1 →
      exec (.callr a off) s = .next (s1.takeTrap (mkTrap .align (lowBits 64 (s1.val a + off)) 0 0)))

/-- R88, R124, R125, R209 to R211: NOP changes nothing but the PC; FENCEI drops what the thread holds of code, whose later
fetches find code at least as new as memory then has it; PHASE releases, acquires, or both at its scope. -/
def Sys2Proof.Claims.NopFencePhase : Prop :=
  ∀ (s : State) (sc : Scope),
    exec .nop s = .next s.retire ∧
    exec .fencei s = .next (s.modThr (fun t => { t with code := [], codeView := ⟨s.cur.1, s.mem⟩ })).retire ∧
    exec .fencei16 s = .next (s.modThr (fun t => { t with code := [], codeView := ⟨s.cur.1, s.mem⟩ })).retire ∧
    exec (.phaseRel sc) s = .next (s.release s.cur.1 sc).retire ∧
    exec (.phaseAcq sc) s = .next (s.acquire s.cur.1 sc).retire ∧
    exec (.phaseAr sc) s = .next ((s.release s.cur.1 sc).acquire s.cur.1 sc).retire

/-! ## Exceptions -/

/-- R25, R27, R155, R333: a thread outside a handler whose record can be written enters its handler: its entries at the vector
unit are done, TRAPC, TRAPPC, TRAPA, TRAPX are saved (inside a firmware expansion TRAPX is 2^63 and the step), PRIV and TACT
set, PPRIV takes the old privilege, the PC goes to TRAPV with bits [5:0] taken as 0; flags, names, vector registers and the
registers TRAPV and TRAPREC stay. -/
def Sys2Proof.Claims.TrapEntry : Prop :=
  ∀ (s : State) (x : Trap) (s1 : State), s.thr.inflight = [] → s.thr.privl.tact = false →
    (s.thr.launch = none ∨ x.cause ≠ .codeIntegrity) →
    let v := s.vectorDone s.cur.1 s.cur.2
    v.writeTrapRecord s.cur.1 s.cur.2 v.thr (v.thr.held x) = some s1 →
    (∀ e ∈ (v.core s.cur.1).vq, e ≠ .op s.cur.2) ∧
    ∃ t, s.takeTrap x = t ∧ t.thr.trapc = BitVec.ofNat 64 x.cause.code ∧ t.thr.trappc = s.thr.pc ∧ t.thr.trapa = x.addr ∧
      (s.thr.exp = none → t.thr.trapx = x.x0) ∧
      (∀ e, s.thr.exp = some e → x.fetch = false → t.thr.trapx = BitVec.ofNat 64 (2 ^ 63 + e.step)) ∧
      t.thr.privl = ⟨true, true, s.thr.privl.priv, false⟩ ∧
      t.thr.pc = s.thr.trapv &&& ~~~(63 : Word) ∧ t.thr.rep = none ∧ t.thr.names = s.thr.names ∧
      t.thr.vregs = s.thr.vregs ∧ t.thr.flags = s.thr.flags ∧ t.thr.trapv = s.thr.trapv ∧ t.thr.traprec = s.thr.traprec ∧
      t = { s1 with thr := t.thr }

/-- R26, R323: a trap while TACT = 1 freezes the slot with its state intact, under cause 2. -/
def Sys2Proof.Claims.TrapFreezes : Prop :=
  ∀ (s : State) (x : Trap), s.thr.inflight = [] → s.thr.privl.tact = true →
    (s.thr.launch = none ∨ x.cause ≠ .codeIntegrity) →
    ∃ t, s.takeTrap x = t ∧ t.thr.frozen = some (s.thr.held x) ∧ t.thr.pc = s.thr.pc ∧ t.thr.names = s.thr.names ∧
      t.thr.privl = s.thr.privl ∧ t.thr.trapc = s.thr.trapc ∧ t.thr.trappc = s.thr.trappc ∧
      t.thr.canMove = false

/-- R122: TRAP raises TRAP_INSTR with its immediate in X0; BRK raises BREAKPOINT with X0 = 0. -/
def Sys2Proof.Claims.TrapInstructions : Prop :=
  ∀ (s : State) (imm : Nat),
    exec (.trap imm) s = .next (s.takeTrap (mkTrap .trapInstr 0 imm 0)) ∧
    exec .brk s = .next (s.takeTrap (mkTrap .breakpoint 0 0 0))

/-- R28: ERET with SKIP = 0 returns to TRAPPC, with SKIP = 1 past the instruction there, by ILEN; the flags are those of the
record, PRIV and PPRIV are taken from PPRIV, TACT and SKIP cleared; names and vector registers stay, but rp is 0 past a REP.
The PC takes bit 0 as 0 (R9; log 81, DEDUCED: the model's choice). -/
def Obligations.TrapReturn : Prop :=
  ∀ (s s1 s2 s3 : State) (ps : List Piece) (bs : List Byte), Ready s { sys := true } s1 →
    s1.access s1.thr s1.cur.1 .read (s1.thr.traprec.toNat / 64 * 64) 64 64 = (.ok ps, s2) →
    s2.loadBytes ps = (.ok bs, s3) →
    (s3.thr.privl.skip = false →
      ∃ t, exec .eret s = .next t ∧ t.thr.pc = evenPc s3.thr.trappc ∧ t.thr.flags = Flags.ofNat (bits (leNat (bs.take 8)) 8 5) ∧
        t.thr.privl = ⟨s3.thr.privl.ppriv, false, s3.thr.privl.ppriv, false⟩ ∧ t.thr.names = s3.thr.names ∧
        t.thr.vregs = s3.thr.vregs ∧ t = { s3 with thr := t.thr }) ∧
    (s3.thr.privl.skip = true → ∀ q s4, s3.skipLength
        { s3.thr with privl := { s3.thr.privl with priv := s3.thr.privl.ppriv } } s1.cur.1 (bits (leNat (bs.take 8)) 16 3) =
          (q, s4) →
      (∀ k, k = bits (leNat (bs.take 8)) 16 3 → 1 ≤ k → k ≤ 4 →
        q = some (if k = 1 then 2 else if k = 4 then 6 else 4, decide (3 ≤ k)) ∧ s4 = s3) ∧
      ∃ t, exec .eret s = .next t ∧ t.thr.flags = Flags.ofNat (bits (leNat (bs.take 8)) 8 5) ∧
        t.thr.pc = evenPc (match q with | some (n, _) => s3.thr.trappc + BitVec.ofNat 64 n | none => s3.thr.trappc) ∧
        t.thr.privl = ⟨s4.thr.privl.ppriv, false, s4.thr.privl.ppriv, false⟩ ∧ t.thr.vregs = s4.thr.vregs ∧
        t.thr.names = (match q with | some (_, true) => s4.thr.setRp 0 | _ => s4.thr).names ∧ t = { s4 with thr := t.thr })

/-- R12, R29, R122: at user privilege each instruction marked system, CSRW of a register that takes writes, and CSRR of any register but
TBASE, TEMPS, VOLTS and PROCM raise PRIVILEGE, whatever their operands. -/
def Obligations.PrivilegeRefused : Prop :=
  ∀ (s : State) (d a : Name) (x : Fin 3) (md : Bool) (c : Csr), s.thr.privl.priv = false →
    (readOnlyCsr c = false →
      ∀ i ∈ [Instr.eret, .csrw d c, .ctxsv d a, .ctxld d a, .preempt d a md, .unfreeze d a x, .dtset d a x, .spill d a],
        exec i s = .next (s.takeTrap (mkTrap .privilege 0 0 0))) ∧
    (c ∉ [Csr.tbase, .temps, .volts, .procm] → exec (.csrr d c) s = .next (s.takeTrap (mkTrap .privilege 0 0 0)))

/-- The fields that a CSRW leaves in the registers of a thread (R12, R20, R59, R78): the reserved bits read 0, PRIV stays, a DKIND of 3
is ignored. -/
def Sys2Proof.Claims.ThreadRegisters : Prop :=
  ∀ (s : State) (v : Nat),
    let w := BitVec.ofNat 64 v
    (s.csrWrite .trapc v).thr = { s.thr with trapc := w } ∧ (s.csrWrite .trappc v).thr = { s.thr with trappc := w } ∧
    (s.csrWrite .trapx v).thr = { s.thr with trapx := w } ∧ (s.csrWrite .trapa v).thr = { s.thr with trapa := w } ∧
    (s.csrWrite .trapv v).thr = { s.thr with trapv := w } ∧ (s.csrWrite .traprec v).thr = { s.thr with traprec := w } ∧
    (s.csrWrite .dbga v).thr = { s.thr with dbga := w } ∧ (s.csrWrite .dbgm v).thr = { s.thr with dbgm := w } ∧
    (s.csrWrite .privl v).csrRead .privl = s.thr.privl.priv.toNat + 2 * bits v 1 3 ∧
    (s.csrWrite .dbgctl v).csrRead .dbgctl = bits v 0 3 +
      2 ^ 4 * (if bits v 4 2 = 3 then s.thr.dbgctl.dkind.toNat else bits v 4 2) + 2 ^ 6 * bits v 6 1 ∧
    (s.csrWrite .srngc v).csrRead .srngc = bits v 0 5 + 2 ^ 12 * bits v 12 45

/-- The fields that a CSRW leaves in the registers of the core and of the device (R168, R190, R318, R327): an SPS of 5 to 7, a LOGN
outside 6 to 20 and a set OVF leave these fields, OWN reads 0 while SPS is 0, and a split that the save charge does not allow changes
nothing. -/
def Sys2Proof.Claims.SharedRegisters : Prop :=
  ∀ (s : State) (v : Nat),
    let sps := if bits v 0 3 ≤ 4 then bits v 0 3 else (s.core s.cur.1).sps
    let e := s.dev
    (s.csrWrite .rottab v).core s.cur.1 = { s.core s.cur.1 with rottab := BitVec.ofNat 64 v } ∧
    (s.splitFits s.cur.1 sps (bits v 4 12) = true → ((s.csrWrite .splitc v).core s.cur.1).sps = sps ∧
      ((s.csrWrite .splitc v).core s.cur.1).own = if sps = 0 then 0 else bits v 4 12) ∧
    (s.splitFits s.cur.1 sps (bits v 4 12) = false → s.csrWrite .splitc v = s) ∧
    (s.csrWrite .errhead v).dev = { e with errHead := BitVec.ofNat 32 v } ∧
    (s.csrWrite .errstat v).csrRead .errstat =
      (if 6 ≤ bits v 0 5 ∧ bits v 0 5 ≤ 20 then bits v 0 5 else e.errLogn) + (if bit1 v 8 then 2 ^ 8 * e.errOvf.toNat else 0) +
        2 ^ 9 * bits v 9 1 + 2 ^ 12 * bits v 12 36

/-- R78, R123: CSRW writes the register from ext64 of the name; a register that takes no write is illegal. -/
def Sys2Proof.Claims.CsrWriteResult : Prop :=
  ∀ (s s1 : State) (d : Name) (c : Csr),
    (readOnlyCsr c = true → exec (.csrw d c) s = .next (s.takeTrap (mkTrap .illegalInstruction 0 0 0))) ∧
    (readOnlyCsr c = false → Ready s { sys := true, reads := ints [d] } s1 →
      exec (.csrw d c) s = .next ((s1.csrWrite c (s1.ext d)).consume [d]).retire)

/-! ## Frames -/

/-- No operand of an instruction is bound to a link or a flume. -/
def Sys2Proof.Claims.Free (s : State) (u : Use) : Prop := s.unbound u = true

/-- What an instruction that writes the names `ds` leaves alone: every other name (rp moves while a repeat runs), every
vector register, the registers of traps and modes, the groups and tokens, and everything outside the running thread. -/
def Sys2Proof.Claims.Keeps (s t : State) (ds : List Name) : Prop :=
  t = { s with thr := t.thr } ∧
  (∀ n, n ∉ ds → (s.thr.rep = none ∨ n ≠ 61) → t.thr.name n = s.thr.name n) ∧
  t.thr.vregs = s.thr.vregs ∧ t.thr.privl = s.thr.privl ∧ t.thr.trapc = s.thr.trapc ∧ t.thr.trappc = s.thr.trappc ∧
  t.thr.trapa = s.thr.trapa ∧ t.thr.trapx = s.thr.trapx ∧ t.thr.trapv = s.thr.trapv ∧ t.thr.traprec = s.thr.traprec ∧
  t.thr.maph = s.thr.maph ∧ t.thr.srngc = s.thr.srngc ∧ t.thr.groups = s.thr.groups ∧ t.thr.toks = s.thr.toks ∧
  t.thr.wait = s.thr.wait ∧ t.thr.frozen = s.thr.frozen

/-- R35, R103 to R110: an integer instruction on names that are not bound writes its destination and its flags and keeps all
else: every byte of memory with it. A name d keeps its width, kind and mode. -/
def Sys2Proof.Claims.IntegerFrame : Prop :=
  ∀ (i : Instr) (w : IntRow) (s s1 : State) (r : Narrowed), intRow i = some w → Ready s w.use s1 → Free s w.use →
    s1.thr.narrow w.d (w.value s1) = some r →
    ∃ t, exec i s = .next t ∧ Keeps s t [w.d] ∧ t.mem = s.mem ∧ t.thr.flags = s.thr.flags.put r.flags ∧
      (w.d ≠ 63 → w.d ≠ 61 → t.thr.name w.d = { s.thr.name w.d with pat := r.pat })

/-- R32, R36: n63 reads as 0; as a destination it is a 64-bit signed wrap name: the flags are computed, the value is
discarded, WIDTH_OVERFLOW never occurs. -/
def Obligations.ZeroName : Prop :=
  ∀ (s : State) (p : Word) (x : Int),
    s.val 63 = 0 ∧ s.writeName 63 p = s ∧ s.thr.narrow 63 x = narrow .signed 64 .wrap x ∧
    (s.thr.narrow 63 x).isSome = true ∧ (∀ f, s.apply (put1 63 p f) = s.modThr (fun t => t.putFlags f))

/-- R35: narrow keeps a value that fits, with V = 0; else it wraps modulo 2^w, saturates to the nearer end and reports SF, or
traps; Z and N tell of the value stored, C is bit w of the exact result. -/
def Obligations.NarrowingRule : Prop :=
  ∀ (k : Kind) (w : Nat) (m : OvMode) (x : Int), 1 ≤ w → w ≤ 64 →
    (rangeLo k w ≤ x → x ≤ rangeHi k w → ∃ r, narrow k w m x = some r ∧ patVal k w r.pat.toNat = x ∧ r.v = false ∧
      r.sat = false) ∧
    (x < rangeLo k w ∨ rangeHi k w < x → (m = .trap → narrow k w m x = none) ∧
      (m = .wrap → ∃ r, narrow k w m x = some r ∧ (r.pat.toNat : Int) = x % 2 ^ w ∧ r.v = true ∧ r.sat = false) ∧
      (m = .sat → ∃ r, narrow k w m x = some r ∧ r.v = true ∧ r.sat = true ∧
        patVal k w r.pat.toNat = if x < rangeLo k w then rangeLo k w else rangeHi k w)) ∧
    (∀ r, narrow k w m x = some r → r.pat.toNat < 2 ^ w ∧ (r.z = true ↔ patVal k w r.pat.toNat = 0) ∧
      (r.n = true ↔ patVal k w r.pat.toNat < 0) ∧ (r.c = true ↔ x / 2 ^ w % 2 = 1))

/-- R115, R118: a float instruction on names that are not bound writes its destination alone: no flag, no other name, no
memory. -/
def Sys2Proof.Claims.FloatFrame : Prop :=
  ∀ (i : Instr) (srcs : List Name) (d : Name) (f : State → FVal) (s s1 : State), floatRow i = some (srcs, d, f) →
    Ready s { reads := floats srcs, writes := floats [d] } s1 → Free s { reads := floats srcs, writes := floats [d] } →
    ∃ t, exec i s = .next t ∧ Keeps s t [d] ∧ t.mem = s.mem ∧ t.thr.flags = s.thr.flags

/-- R11, R16, R35, R170: a result of one name, and one of one vector register, on names that are not bound: what the
instructions of the claims below write is all that they change. Every other name, register, flag and byte is as before. -/
def Sys2Proof.Claims.ResultFrame : Prop :=
  ∀ (s : State) (rd : List Name), (∀ n ∈ rd, (s.thr.name n).bind = .none) →
    (∀ d p f, (s.thr.name d).bind = .none → Keeps s (After s rd (put1 d p f)) [d] ∧
      (After s rd (put1 d p f)).thr.flags = s.thr.flags.put f) ∧
    (∀ d x, let t := After s rd (putV d x)
      t = { s with thr := t.thr } ∧ (∀ v, t.thr.vreg v = if v = d then x else s.thr.vreg v) ∧ t.thr.flags = s.thr.flags ∧
      (∀ n, s.thr.rep = none ∨ n ≠ 61 → t.thr.name n = s.thr.name n) ∧ t.thr.privl = s.thr.privl ∧
      t.thr.trapc = s.thr.trapc ∧ t.thr.trappc = s.thr.trappc ∧ t.thr.trapa = s.thr.trapa ∧ t.thr.trapx = s.thr.trapx ∧
      t.thr.trapv = s.thr.trapv ∧ t.thr.traprec = s.thr.traprec ∧ t.thr.toks = s.thr.toks ∧ t.thr.groups = s.thr.groups)

/-! ## Loads and stores -/

/-- An access of the running thread that passes every check, with the pieces that it touches. -/
def Sys2Proof.Claims.Hit (s : State) (k : AccKind) (p n al : Nat) (ps : List Piece) (s1 : State) : Prop :=
  s.access s.thr s.cur.1 k p n al = (.ok ps, s1)

/-- An access in parts that passes every check. -/
def Sys2Proof.Claims.HitAll (s : State) (k : AccKind) (parts : List (Nat × Nat × Nat)) (ps : List Piece) (s1 : State) : Prop :=
  s.accessAll k parts = (.ok ps, s1)

/-- The bytes of a read in which no poisoned word lies. -/
def Sys2Proof.Claims.Got (s : State) (ps : List Piece) (bs : List Byte) (s1 : State) : Prop :=
  s.piecesPoison s.cur.1 ps = none ∧ s.loadPieces s.cur.1 ps = (bs, s1)

/-- A scalar load: destination, base, scaled offset, window, size in bytes, whether it extends the sign. -/
structure Sys2Proof.Claims.LoadRow where
  d : Name
  a : Name
  imm : Int
  look : Look
  size : Nat
  kinds : List Kind
  signed : State → Bool

/-- The scalar loads (R237). -/
def Sys2Proof.Claims.loadRow : Instr → Option LoadRow
  | .ldb d a i l => some ⟨d, a, i, l, 1, [], fun _ => true⟩
  | .ldh d a i l => some ⟨d, a, i, l, 2, [.f16, .bf16], fun _ => true⟩
  | .ldw d a i l => some ⟨d, a, i, l, 4, [.f32], fun _ => true⟩
  | .ldd d a i l => some ⟨d, a, i, l, 8, [.f64], fun s => decide ((s.thr.name d).kind = .signed)⟩
  | .ldbu d a i l => some ⟨d, a, i, l, 1, [], fun _ => false⟩
  | .ldhu d a i l => some ⟨d, a, i, l, 2, [.f16, .bf16], fun _ => false⟩
  | .ldwu d a i l => some ⟨d, a, i, l, 4, [.f32], fun _ => false⟩
  | _ => none

/-- R21, R236, R237: a scalar load reads its bytes at the base plus the scaled offset, little-endian, and narrows the number
into its destination (the pattern as it is for a float name); in trap mode its window is 0. -/
def Sys2Proof.Claims.LoadResult : Prop :=
  ∀ (i : Instr) (w : LoadRow) (s s1 s2 s3 : State) (ps : List Piece) (bs : List Byte), loadRow i = some w →
    Ready s { reads := ints [w.a], writes := [(w.d, .intOr w.kinds)] } s1 →
    Hit s1 .read (lowBits 64 (s1.val w.a + w.imm * w.size)) w.size w.size ps s2 → Got s2 ps bs s3 →
    ((s3.thr.name w.d).kind.isFloat = true →
      exec i s = .next (AfterLong s3 w.look.val [w.a] (put1 w.d (BitVec.ofNat 64 (leNat bs)) FlagWrite.none))) ∧
    (∀ r, (s3.thr.name w.d).kind.isFloat = false →
      s3.thr.narrow w.d (if w.signed s3 then patVal .signed (8 * w.size) (leNat bs) else leNat bs) = some r →
      exec i s = .next (AfterLong s3 (if (s3.thr.name w.d).mode = .trap then 0 else w.look.val) [w.a]
        (put1 w.d r.pat r.flags))) ∧
    (∀ x : Int, x = (if w.signed s3 then patVal .signed (8 * w.size) (leNat bs) else leNat bs) →
      (s3.thr.name w.d).kind.isFloat = false → s3.thr.narrow w.d x = none →
      exec i s = .next (s3.takeTrap (mkTrap .widthOverflow 0 w.d.val (lowBits 64 x))))

/-- The scalar stores: source, base, scaled offset, window, size in bytes, float kinds (R239). -/
def Sys2Proof.Claims.storeRow : Instr → Option (Name × Name × Int × Look × Nat × List Kind)
  | .stb d a i l => some (d, a, i, l, 1, [])
  | .sth d a i l => some (d, a, i, l, 2, [.f16, .bf16])
  | .stw d a i l => some (d, a, i, l, 4, [.f32])
  | .std d a i l => some (d, a, i, l, 8, [.f64])
  | _ => none

/-- R236, R239: a scalar store writes the low bytes of ext64 of its source, little-endian, at the base plus the scaled
offset, in its window. -/
def Sys2Proof.Claims.StoreResult : Prop :=
  ∀ (i : Instr) (d a : Name) (imm : Int) (l : Look) (n : Nat) (ks : List Kind) (s s1 s2 : State) (ps : List Piece),
    storeRow i = some (d, a, imm, l, n, ks) → Ready s { reads := [(d, .intOr ks), (a, .int)] } s1 →
    Hit s1 .write (lowBits 64 (s1.val a + imm * n)) n n ps s2 →
    exec i s = .next (AfterLong (s2.storePieces s2.cur.1 ps (leBytes n (s1.ext d % 2 ^ (8 * n)))) l.val [d, a] Pending.none)

/-- R190, R239: a scalar store through a scratchpad pointer of the core writes exactly its bytes: each byte of every
scratchpad outside them reads as before, and so does all of HBM, every die L2 and every L1. -/
def Obligations.ScratchStoreFrame : Prop :=
  ∀ (i : Instr) (d a : Name) (imm : Int) (l : Look) (n : Nat) (ks : List Kind) (s : State),
    storeRow i = some (d, a, imm, l, n, ks) → Ready s { reads := [(d, .intOr ks), (a, .int)] } s →
    Free s { reads := [(d, .intOr ks), (a, .int)] } →
    let p := lowBits 64 (s.val a + imm * n)
    ptrTag p = 2 → ptrCore p = s.cur.1 → ptrMbz p = false → p % n = 0 → ptrOff p + n ≤ 16384 * (s.core s.cur.1).sps →
    (s.core s.cur.1).own = s.thr.ctx → s.thr.dbgctl.den = false → s.thr.rep = none → s.mem.wf = true →
    ∃ t, exec i s = .next t ∧ t.mem.sramRead s.cur.1 (ptrOff p) n = leBytes n (s.ext d % 2 ^ (8 * n)) ∧
      (∀ c off, (c ≠ s.cur.1 ∨ off < ptrOff p ∨ ptrOff p + n ≤ off) → t.mem.sramRead c off 1 = s.mem.sramRead c off 1) ∧
      t.mem.hbm = s.mem.hbm ∧ t.mem.l2 = s.mem.l2 ∧ t.mem.l1 = s.mem.l1 ∧ t.thr.names = s.thr.names ∧
      t.thr.flags = s.thr.flags

/-- The byte that an ordinary load of a core under policy 0 finds at a physical address of HBM. -/
def Sys2Proof.Claims.seen (s : State) (core pa : Nat) : Byte :=
  match s.mem.line core (pa / 64) with
  | some x => if x.valid.getLsbD (pa % 64) then x.byte (pa % 64) else (s.mem.peek (s.dev.dieOf core) pa 1).headD 0
  | none => (s.mem.peek (s.dev.dieOf core) pa 1).headD 0

/-- R194, R204: a store under policy 0 that needs no line evicted and meets no marked slot or pending partial lands in the
core's L1: the core then finds its bytes there and every other byte as before; no other core's line, no die L2 and no byte of
HBM changes. -/
def Sys2Proof.Claims.CachedStoreFrame : Prop :=
  ∀ (s : State) (core owner pa : Nat) (bs : List Byte), pa % 64 + bs.length ≤ 64 → pa / 64 ∉ s.mem.marks →
    s.mem.partials = [] → s.mem.rfPartials = [] → (s.mem.line core (pa / 64)).isSome = true →
    let t := s.store core 0 owner pa bs
    (∀ j, j < bs.length → seen t core (pa + j) = bs.getD j 0) ∧
    (∀ a, (a < pa ∨ pa + bs.length ≤ a) → seen t core a = seen s core a) ∧
    (∀ c line, c ≠ core → t.mem.line c line = s.mem.line c line) ∧ t.mem.l2 = s.mem.l2 ∧ t.mem.hbm = s.mem.hbm

/-- R195, R196, R202, R204: a store under policy 1 writes the die's L2, under policy 2 the home: there its bytes read as stored
and every other byte of the block as before. It reaches no L1, no scratchpad and no other block's sector; under policy 1 the
other dies drop the block, and no byte of HBM changes but those that a die held dirty; under policy 2 the dies' sectors keep
their bytes, and no byte of HBM changes but those stored and those that a die held dirty. Where the die's L2 has no free sector
for the block, another block leaves it (log 94, the model's choice of which), so the clause on sectors and HBM is for a die
that has room. -/
def Sys2Proof.Claims.DeepStoreFrame : Prop :=
  ∀ (s : State) (core owner pa : Nat) (bs : List Byte), bs ≠ [] → pa % 64 + bs.length ≤ 64 → pa / 64 ∉ s.mem.marks →
    s.mem.partials = [] → s.mem.rfPartials = [] → s.dev.paKind pa = .hbm → s.mem.wf = true →
    let die := s.dev.dieOf core
    let t := s.store core 1 owner pa bs
    let h := s.store core 2 owner pa bs
    let wasDirty := fun a => ∃ x ∈ s.mem.l2, x.block = blockOf pa ∧ a ∈ x.dirty
    (t.mem.peek die pa bs.length = bs ∧
     (∀ a, blockOf a = blockOf pa → (a < pa ∨ pa + bs.length ≤ a) → t.mem.peek die a 1 = s.mem.peek die a 1) ∧
     t.mem.l1 = s.mem.l1 ∧ t.mem.srams = s.mem.srams ∧ (∀ d, d ≠ die → t.mem.sector d (blockOf pa) = none) ∧
     ((s.mem.l2Copies die < 98304 ∨ ∃ x, s.mem.sector die (blockOf pa) = some x ∧ x.rowCopy = true) →
       (∀ d b, b ≠ blockOf pa → t.mem.sector d b = s.mem.sector d b) ∧
       (∀ a, ¬wasDirty a → cellGet t.mem.hbm a = cellGet s.mem.hbm a))) ∧
    (h.mem.homePeek pa bs.length = bs ∧
     (∀ a, blockOf a = blockOf pa → (a < pa ∨ pa + bs.length ≤ a) → h.mem.homePeek a 1 = s.mem.homePeek a 1) ∧
     h.mem.l1 = s.mem.l1 ∧ h.mem.srams = s.mem.srams ∧ (∀ d b, b ≠ blockOf pa → h.mem.sector d b = s.mem.sector d b) ∧
     (∀ d, (h.mem.sector d (blockOf pa)).map (fun x => x.cells) = (s.mem.sector d (blockOf pa)).map (fun x => x.cells)) ∧
     (∀ a, (a < pa ∨ pa + bs.length ≤ a) → ¬wasDirty a → cellGet h.mem.hbm a = cellGet s.mem.hbm a))

/-- R185, R186: the checks of a pointer in their order: a window tag of 4 or more, then bits that must be 0, then another
core's window, then alignment; each trap reports the pointer. -/
def Sys2Proof.Claims.PointerChecks : Prop :=
  ∀ (s : State) (k : AccKind) (p n al : Nat), p < 2 ^ 64 →
    (4 ≤ ptrTag p → s.access s.thr s.cur.1 k p n al = (.error ⟨1, mkTrap .spaceReserved p 0 0⟩, s)) ∧
    (ptrTag p < 4 → ptrMbz p = true → s.access s.thr s.cur.1 k p n al = (.error ⟨2, mkTrap .protection p k.code 0⟩, s)) ∧
    (ptrTag p = 2 → ptrMbz p = false → bits p 42 18 ≠ s.cur.1 →
      s.access s.thr s.cur.1 k p n al = (.error ⟨3, mkTrap .spaceForeign p (bits p 42 18) s.cur.1⟩, s)) ∧
    (ptrTag p = 3 → ptrMbz p = false → bits p 44 16 ≠ s.cur.1 / 4 →
      ∃ f, s.access s.thr s.cur.1 k p n al = (.error f, s) ∧ f.trap.cause = .spaceForeign ∧ f.trap.addr = BitVec.ofNat 64 p) ∧
    (ptrTag p = 0 → ptrMbz p = false → 1 < al → p % al ≠ 0 →
      s.access s.thr s.cur.1 k p n al = (.error ⟨4, mkTrap .align p 0 0⟩, s))

/-- R25, R29, R186: an access that fails a check is the instruction's trap; of a load or a store of one part nothing else
happens. -/
def Sys2Proof.Claims.AccessTraps : Prop :=
  (∀ (i : Instr) (w : LoadRow) (s s1 s2 : State) (f : Fail), loadRow i = some w →
    Ready s { reads := ints [w.a], writes := [(w.d, .intOr w.kinds)] } s1 →
    s1.access s1.thr s1.cur.1 .read (lowBits 64 (s1.val w.a + w.imm * w.size)) w.size w.size = (.error f, s2) →
    exec i s = .next (s2.takeTrap f.trap)) ∧
  (∀ (i : Instr) (d a : Name) (imm : Int) (l : Look) (n : Nat) (ks : List Kind) (s s1 s2 : State) (f : Fail),
    storeRow i = some (d, a, imm, l, n, ks) → Ready s { reads := [(d, .intOr ks), (a, .int)] } s1 →
    s1.access s1.thr s1.cur.1 .write (lowBits 64 (s1.val a + imm * n)) n n = (.error f, s2) →
    exec i s = .next (s2.takeTrap f.trap))

/-- R240 to R244: a vector load: what it uses, its parts, and the register that its bytes make. -/
def Sys2Proof.Claims.vloadRow : Instr → Option (VReg × Name × Look × Use × List Name × (State → List (Nat × Nat × Nat)) ×
    (List Byte → VRegVal))
  | .vld d a tag l => some (d, a, l, { reads := ints [a], vwrites := [d] }, [a], fun s => imageParts tag (s.ptrOf a 0),
      fun bs => ⟨maskData tag (leNat (bs.take 64)), if isBlockTag tag then maskSide tag (leNat (bs.drop 64)) else 0, tag⟩)
  | .vldb d a tag l => some (d, a, l, { reads := ints [a], vwrites := [d] }, [a],
      fun s => [(s.ptrOf a 0, tagWidth tag / 8, tagWidth tag / 8)],
      fun bs => regOfLanes tag (List.replicate (tagCount tag) (leNat bs)) 0)
  | .vldx d a fmt l => if fmtIllegal a fmt then none
      else some (d, a, l, { reads := ints (fmtNames a fmt), vwrites := [d] }, fmtNames a fmt, fun s => s.fmtParts a fmt,
        fun bs => loadFmt fmt (leNat (bs.take (fmtElemBytes fmt))) (leNat (bs.drop (fmtElemBytes fmt))))
  | _ => none

/-- R240 to R243: VLD, VLDX and VLDB read their parts and write one register, its tag and side field with it. -/
def Sys2Proof.Claims.VectorLoadResult : Prop :=
  ∀ (i : Instr) (d : VReg) (a : Name) (l : Look) (u : Use) (reads : List Name) (parts : State → List (Nat × Nat × Nat))
    (f : List Byte → VRegVal) (s s1 s2 s3 : State) (ps : List Piece) (bs : List Byte),
    vloadRow i = some (d, a, l, u, reads, parts, f) → Ready s u s1 → HitAll s1 .read (parts s1) ps s2 → Got s2 ps bs s3 →
    exec i s = .next (AfterLong s3 l.val reads (putV d (f bs)))

/-- R170, R217, R240 to R242: VST and VSTX check the register's tag, then write its image, a store for each word, in their
window. A wrong tag is TAG_MISMATCH. Where the agenda keeps no word back (log 3) the words reach memory at once, in order. -/
def Sys2Proof.Claims.VectorStoreResult : Prop :=
  ∀ (d : VReg) (a : Name) (tag : Tag) (fmt : MemFmt) (l : Look) (s s1 s2 : State) (ps : List Piece),
    (Ready s { reads := ints [a], vreads := [d] } s1 → (s.thr.vreg d).tag = tag →
      HitAll s1 .write (imageParts tag (s1.ptrOf a 0)) ps s2 →
      exec (.vst d a tag l) s = .next (AfterLong (s2.storeWords s2.cur.1 ps (leBytes 64 (s1.thr.vreg d).data.toNat ++
        (if isBlockTag tag then leBytes 8 (s1.thr.vreg d).side.toNat else []))) l.val [a] Pending.none)) ∧
    (Ready s { reads := ints (fmtNames a fmt), vreads := [d] } s1 → fmtIllegal a fmt = false →
      (s.thr.vreg d).tag = fmtTag fmt → HitAll s1 .write (s1.fmtParts a fmt) ps s2 →
      exec (.vstx d a fmt l) s = .next (AfterLong (s2.storeWords s2.cur.1 ps
        ((storeFmt fmt (s1.thr.vreg d)).1 ++ (storeFmt fmt (s1.thr.vreg d)).2)) l.val (fmtNames a fmt) Pending.none)) ∧
    (s.useFail { reads := ints [a], vreads := [d] } = none → (s.thr.vreg d).tag ≠ tag →
      exec (.vst d a tag l) s = .next (s.takeTrap (mkTrap .tagMismatch 0 (s.thr.vreg d).tag.code tag.code))) ∧
    (s2.keep = [] → ∀ bs, s2.storeWords s2.cur.1 ps bs = s2.storePieces s2.cur.1 ps bs)

/-- R244: a gather reads one lane at each base plus index times size, a scatter writes the lanes in their order; the next
register holds the indices. -/
def Obligations.GatherScatter : Prop :=
  ∀ (d : VReg) (a : Name) (tag : Tag) (l : Look) (s s1 s2 s3 : State) (ps : List Piece) (bs : List Byte),
    (s.thr.vreg (indexReg d)).tag = intTag (tagWidth tag) →
    (Ready s { reads := ints [a], vreads := [indexReg d], vwrites := [d] } s1 →
      s1.accessLanes .read (s1.laneParts d a tag) = (.ok ps, s2) → Got s2 ps bs s3 →
      exec (.vgath d a tag l) s = .next (AfterLong s3 l.val [a]
        (putV d (regOfLanes tag ((chunks (tagWidth tag / 8) (tagCount tag) bs).map leNat) 0)))) ∧
    (Ready s { reads := ints [a], vreads := [d, indexReg d] } s1 → (s.thr.vreg d).tag = tag →
      s1.accessLanes .write (s1.laneParts d a tag) = (.ok ps, s2) →
      exec (.vscat d a tag l) s = .next (AfterLong (s2.storeWords s2.cur.1 ps
        ((s1.thr.vreg d).lanes.flatMap (leBytes (tagWidth tag / 8)))) l.val [a] Pending.none))

/-- R119 to R121: a step of BMOV or BSET: at most the bytes up to the next 64-byte line of the destination are moved, the
pointers and the count move with them, and the instruction completes when nothing is left; a step that fails a check is the
trap of the instruction. With no name bound its end is that of any instruction; what a bound name would hold between steps is
kept beside it (log 11, the model's choice). -/
def Obligations.BlockStep : Prop :=
  ∀ (mov : Bool) (d a b : Name) (s s0 s1 : State),
    let i := if mov then Instr.bmov d a b else Instr.bset d a b
    let u : Use := { reads := [(d, .u64), (a, if mov then .u64 else .int), (b, .int)],
                     writes := [(d, .any)] ++ (if mov then [(a, .any)] else []) ++ [(b, .any)] }
    blockNames mov d a b = none → Ready s u s0 →
    let n := stepLen (s0.upat d) (s0.val b)
    (s0.val b ≤ 0 → exec i s = .next (s0.consume u.names).retire) ∧
    (0 < s0.val b → s0.blockStep mov (s0.upat d) (s0.upat a) n (BitVec.ofNat 8 (s0.upat a)) = .ok s1 →
      (n < s0.val b → exec i s = .next ((s1.blockNext mov d a b n).modThr Thread.unissue)) ∧
      (s0.val b ≤ n → exec i s = (s1.blockNext mov d a b n).endSteps u.names (u.writes.map Prod.fst)) ∧
      (s0.val b ≤ n → Free s u → exec i s = .next (s1.blockNext mov d a b n).retire)) ∧
    (∀ x, 0 < s0.val b → s0.blockStep mov (s0.upat d) (s0.upat a) n (BitVec.ofNat 8 (s0.upat a)) = .error x →
      x.cause ≠ .uncorrectable → exec i s = .next (s0.takeTrap x))

/-- R22 to R24, R87: a REP whose checks pass starts its repeat: with no count in rp, rp takes the count and the repeat stands at
index 0; with a count that fits the REP's, rp keeps what it holds and the repeat goes on at the index there; the PC stays. The third
clause: a count that does not fit is the MAP_FAULT of the repeated instruction at the index that rp holds, so the trap is taken inside
the repeat, and its record has INREP and REPIX; that is the model's reading (log 58, DEDUCED). -/
def Sys2Proof.Claims.RepeatStart : Prop :=
  ∀ (c : Fin 64) (id ia ib : Fin 4) (i : Instr) (w len : Nat) (s : State) (fs : List (StepKind × Nat × Nat)),
    s.thr.ir.inner = .ok i w len → repFields i w len id.val ia.val ib.val = some fs → repeatable i = true →
    (∀ m x, i = .firmwareExpansion m x → s.expansionOn m = true) →
    14 ≤ (s.thr.name 61).width → (s.thr.name 61).kind.isFloat = false →
    s.lookFail { reads := [(61, .int)], writes := [(61, .int)] } = none →
    let rem := bits (s.thr.name 61).pat.toNat 0 7
    let idx := bits (s.thr.name 61).pat.toNat 7 7
    (rem = 0 → firstBad fs (c.val + 1) 0 = none → exec (.rep c id ia ib) s = .next (s.modThr (fun t =>
      { t.setPat 61 (BitVec.ofNat 64 (c.val + 1)) with rep := some ⟨s.thr.ir.word, w, len, 0⟩ }))) ∧
    (rem ≠ 0 → rem + idx = c.val + 1 → firstBad fs rem idx = none → exec (.rep c id ia ib) s = .next (s.modThr (fun t =>
      { t with rep := some ⟨s.thr.ir.word, w, len, idx⟩ }))) ∧
    (rem ≠ 0 → rem + idx ≠ c.val + 1 → exec (.rep c id ia ib) s = .next ((s.modThr (fun t =>
      { t with rep := some ⟨s.thr.ir.word, w, len, idx⟩ })).takeTrap (mapFault (s.thr.name 61).pat.toNat)))

/-- R22: an iteration that completes moves the index in rp by 1 and its count down by 1; the last one writes 0 and goes on
past both words. -/
def Sys2Proof.Claims.RepeatAdvance : Prop :=
  ∀ (t : Thread) (r : RepCtx), t.rep = some r →
    (bits (t.name 61).pat.toNat 0 7 = 1 → t.retire.rep = none ∧ (t.retire.name 61).pat = 0 ∧
      t.retire.pc = t.pc + BitVec.ofNat 64 (2 + r.ilen)) ∧
    (2 ≤ bits (t.name 61).pat.toNat 0 7 → t.retire.pc = t.pc ∧ t.retire.rep = some { r with iter := (r.iter + 1) % 128 } ∧
      (t.retire.name 61).pat = BitVec.ofNat 64 (bits (t.name 61).pat.toNat 0 7 - 1 + 128 * ((r.iter + 1) % 128)))

/-! ## Words shared between threads -/

/-- The access of an instruction to one aligned word. -/
def Sys2Proof.Claims.WordAt (s : State) (k : AccKind) (p : Nat) (x : Piece) (s1 : State) : Prop :=
  ∃ r, s.access s.thr s.cur.1 k p 8 8 = (.ok (x :: r), s1)

/-- The access of an instruction to one aligned word, which is not poisoned at the level where the instruction works on it (R315). -/
def Sys2Proof.Claims.WordHit (s : State) (k : AccKind) (p : Nat) (lv : Level) (x : Piece) (s1 : State) : Prop :=
  WordAt s k p x s1 ∧ s1.levelPoison lv x = none

/-- What a full/empty store of a word of this device leaves: the value at the level of its page, a marked slot zeroed instead, or in its
SRAM bank; then the bit full and the waiters served (R196, R223, R245, R246). -/
def Sys2Proof.Claims.Filled (s : State) (x : Piece) (v : Nat) (t : State) : Prop :=
  let s0 := s.fePrepare x
  (∀ pa pol ow, x.loc = .global pa pol ow →
    t = (s0.levelStore (atomicLevel .quad pol) (s.dev.dieOf s.cur.1) ow pa (leBytes 8 v)).changeFull x.loc.word true) ∧
  (∀ c off, x.loc = .sram c off →
    t = (s0.modMem (fun m => m.sramWrite c (bytesAt off (leBytes 8 v)))).changeFull x.loc.word true)

/-- R238, R245, R246: on a word of this device, LDFF and LDE read a full word and LDE leaves it empty; STF writes an empty
word and leaves it full; the waiters that the change lets go on are served. -/
def Sys2Proof.Claims.FullEmptyResult : Prop :=
  ∀ (d a : Name) (imm : Int) (s s1 s2 s3 : State) (x : Piece) (v : Nat) (r : Narrowed),
    s2.remotePiece x = false →
    (Ready s (feUse d a) s1 → WordHit s1 .read (s1.ptrOf a (imm * 8)) (x.loc.level .quad) x s2 → s2.isFull x.loc.word = true →
      (s2.fePrepare x).atomicAt s2.cur.1 .quad x (fun _ => none) = (v, s3) →
      s3.thr.narrow d (s3.thr.loadVal d v) = some r → (s3.thr.name d).kind.isFloat = false →
      exec (.ldff d a imm) s = .next (After s3 [a] (put1 d r.pat r.flags))) ∧
    (Ready s (feUse d a) s1 → WordHit s1 .rmw (s1.ptrOf a (imm * 8)) (x.loc.level .quad) x s2 → s2.isFull x.loc.word = true →
      (s2.fePrepare x).atomicAt s2.cur.1 .quad x (fun _ => none) = (v, s3) →
      let s4 := s3.changeFull x.loc.word false
      s4.thr.narrow d (s4.thr.loadVal d v) = some r → (s4.thr.name d).kind.isFloat = false →
      exec (.lde d a imm) s = .next (After s4 [a] (put1 d r.pat r.flags))) ∧
    (Ready s (feStoreUse d a) s1 → WordHit s1 .rmw (s1.ptrOf a (imm * 8)) (x.loc.level .quad) x s2 → s2.isFull x.loc.word = false →
      Filled s2 x (s2.ext d) s3 → exec (.stf d a imm) s = .next (After s3 [d, a] Pending.none))

/-- R196, R246: STFF writes a word and fills it; FEQ reads the bit, the core's own copy of the word first written back and
dropped and the die L2 holding the block alone; FEMPTY and FEFILL set the bit with the value unchanged. -/
def Sys2Proof.Claims.FullEmptyMarks : Prop :=
  ∀ (d a : Name) (imm : Int) (l : Look) (s s1 s2 s3 : State) (x : Piece) (r : Narrowed),
    s2.remotePiece x = false →
    (Ready s (feStoreUse d a) s1 → WordHit s1 .rmw (s1.ptrOf a (imm * 8)) (x.loc.level .quad) x s2 → Filled s2 x (s2.ext d) s3 →
      exec (.stff d a imm l) s = .next (AfterLong s3 l.val [d, a] Pending.none)) ∧
    (Ready s (use2 d a) s1 → WordHit s1 .read (s1.ptrOf a (imm * 8)) (x.loc.level .quad) x s2 →
      let s4 := s2.fePrepare x
      s4.remotePiece x = false → s4.thr.narrow d (if s4.isFull x.loc.word then 1 else 0) = some r →
      exec (.feq d a imm l) s = .next (AfterLong s4 (if (s4.thr.name d).mode = .trap then 0 else l.val) [a]
        (put1 d r.pat r.flags))) ∧
    (Ready s { reads := ints [a] } s1 → WordHit s1 .rmw (s1.ptrOf a (imm * 8)) (x.loc.level .quad) x s2 →
      exec (.fempty a imm l) s = .next (AfterLong ((s2.fePrepare x).changeFull x.loc.word false) l.val [a] Pending.none) ∧
      exec (.fefill a imm l) s = .next (AfterLong ((s2.fePrepare x).changeFull x.loc.word true) l.val [a] Pending.none))

/-- The thread of a state has parked on a word's list, at its tail, and written nothing else. -/
def Sys2Proof.Claims.ParkedAt (s0 : State) (x : Piece) (op : FeOp) (d : Name) (t : State) : Prop :=
  t.thr.wait = some .fullEmpty ∧ t.thr.pc = s0.thr.pc ∧ t.thr.names = s0.thr.names ∧ t.thr.flags = s0.thr.flags ∧ t.mem = s0.mem ∧
  t.feWaits = s0.feWaits ++ [⟨x.loc.word, s0.me, op, d, s0.thr.pc, s0.thr.ir.len, BitVec.ofNat 64 x.addr⟩]

/-- R138, R196, R221, R238, R245, R246: a full/empty operation whose condition does not hold, LDFF and LDE on an empty word and STF on
a full one, has the core's own copy of the word written back and dropped, parks its thread on the word's list, at the tail, and writes
nothing else. STFF, FEQ, FEMPTY and FEFILL have no condition and never park. -/
def Sys2Proof.Claims.FullEmptyWaits : Prop :=
  ∀ (d a : Name) (imm : Int) (s s1 s2 : State) (x : Piece),
    let s0 := s2.fePrepare x
    s2.remotePiece x = false → s0.remotePiece x = false →
    (Ready s (feUse d a) s1 → WordAt s1 .read (s1.ptrOf a (imm * 8)) x s2 → s2.isFull x.loc.word = false →
      ∃ t, exec (.ldff d a imm) s = .next t ∧ ParkedAt s0 x .ldff d t) ∧
    (Ready s (feUse d a) s1 → WordAt s1 .rmw (s1.ptrOf a (imm * 8)) x s2 → s2.isFull x.loc.word = false →
      ∃ t, exec (.lde d a imm) s = .next t ∧ ParkedAt s0 x .lde d t) ∧
    (Ready s (feStoreUse d a) s1 → WordAt s1 .rmw (s1.ptrOf a (imm * 8)) x s2 → s2.isFull x.loc.word = true →
      ∃ t, exec (.stf d a imm) s = .next t ∧ ParkedAt s0 x (.stf (BitVec.ofNat 64 (s2.ext d))) 63 t)

/-- The atomics and what each makes of the word and the operand (R247). -/
def Sys2Proof.Claims.atomicRow : Instr → Option (Name × Name × Name × Scope × (Word → Word → Word))
  | .aadd d a b sc => some (d, a, b, sc, fun w x => w + x)
  | .amin d a b sc => some (d, a, b, sc, fun w x => if w.toInt ≤ x.toInt then w else x)
  | .aminu d a b sc => some (d, a, b, sc, fun w x => if w.toNat ≤ x.toNat then w else x)
  | .amax d a b sc => some (d, a, b, sc, fun w x => if w.toInt ≤ x.toInt then x else w)
  | .amaxu d a b sc => some (d, a, b, sc, fun w x => if w.toNat ≤ x.toNat then x else w)
  | .aand d a b sc => some (d, a, b, sc, fun w x => w &&& x)
  | .aor d a b sc => some (d, a, b, sc, fun w x => w ||| x)
  | .axor d a b sc => some (d, a, b, sc, fun w x => w ^^^ x)
  | .aswp d a b sc => some (d, a, b, sc, fun _ x => x)
  | _ => none

/-- R218, R219, R247: an atomic replaces the word at its scope's level and narrows the prior one into its destination; where
that overflows a trap-mode name the word stays updated and the trap says so (PERF). -/
def Sys2Proof.Claims.AtomicResult : Prop :=
  ∀ (i : Instr) (d a b : Name) (sc : Scope) (f : Word → Word → Word) (s s1 s2 s3 : State) (x : Piece) (v : Nat),
    atomicRow i = some (d, a, b, sc, f) → Ready s (use3 d a b) s1 → WordHit s1 .rmw (s1.ptrOf a 0) (x.loc.level sc) x s2 →
    s2.atomicAt s2.cur.1 sc x (fun w => some (f (BitVec.ofNat 64 w) (BitVec.ofNat 64 (s2.ext b))).toNat) = (v, s3) →
    (∀ r, s3.thr.narrow d (s3.thr.loadVal d v) = some r →
      exec i s = .next (After s3 [a, b] (put1 d r.pat r.flags))) ∧
    (s3.thr.narrow d (s3.thr.loadVal d v) = none → exec i s = .next
      (s3.takeTrap { mkTrap .widthOverflow 0 d.val (lowBits 64 (s3.thr.loadVal d v)) with perf := true }))

/-- R247: ACAS stores its operand where the word equals the destination's value, and Z tells whether it did. -/
def Sys2Proof.Claims.CompareSwapResult : Prop :=
  ∀ (d a b : Name) (sc : Scope) (s s1 s2 s3 : State) (x : Piece) (v : Nat) (r : Narrowed),
    Ready s { reads := ints [d, a, b], writes := ints [d] } s1 → WordHit s1 .rmw (s1.ptrOf a 0) (x.loc.level sc) x s2 →
    s2.atomicAt s2.cur.1 sc x (fun w => if w = s2.ext d then some (s2.ext b) else none) = (v, s3) →
    s3.thr.narrow d (s3.thr.loadVal d v) = some r →
    exec (.acas d a b sc) s = .next (After s3 [d, a, b] (put1 d r.pat { r.flags with z := some (decide (v = s2.ext d)) }))

/-- R219: an atomic on a scratchpad word answers what the word held and leaves the new value there, every other byte of
every scratchpad as it was. -/
def Obligations.AtomicIndivisible : Prop :=
  ∀ (s : State) (core c off p v : Nat) (sc : Scope), v < 2 ^ 64 → s.mem.wf = true →
    let x : Piece := ⟨p, .sram c off, 8⟩
    let t := (s.atomicAt core sc x (fun _ => some v)).2
    (s.atomicAt core sc x (fun _ => some v)).1 = leNat (s.mem.sramRead c off 8) ∧ leNat (t.mem.sramRead c off 8) = v ∧
    (∀ c' o, (c' ≠ c ∨ o < off ∨ off + 8 ≤ o) → t.mem.sramRead c' o 1 = s.mem.sramRead c' o 1)

/-- The reductions on integers (R248). -/
def Sys2Proof.Claims.reduceRow : Instr → Option (Name × Name × Scope × RedOp)
  | .radd a b sc => some (a, b, sc, .add)
  | .rmin a b sc => some (a, b, sc, .min)
  | .rmax a b sc => some (a, b, sc, .max)
  | .ror a b sc => some (a, b, sc, .or)
  | _ => none

/-- R220 to R223, R248, R249: a reduction combines its operand into the word and answers nothing; RFADD adds a float exactly
into a slot of the global window at dev scope or wider, and is illegal at a narrower scope. -/
def Obligations.ReductionResult : Prop :=
  (∀ (i : Instr) (a b : Name) (sc : Scope) (op : RedOp) (s s1 s2 : State) (x : Piece) (r : List Piece),
    reduceRow i = some (a, b, sc, op) → Ready s { reads := ints [a, b] } s1 → Hit s1 .rmw (s1.ptrOf a 0) 8 8 (x :: r) s2 →
    (x.loc.keepsPartial sc = false → s2.levelPoison (x.loc.level sc) x = none) →
    exec i s = .next (After (s2.reduceAt s2.cur.1 x op sc (BitVec.ofNat 64 (s2.ext b))) [a, b] Pending.none)) ∧
  (∀ (a b : Name) (sc : Scope) (s s1 s2 : State) (q pa pol ow n : Nat) (r : List Piece),
    Ready s { reads := [(a, .int), (b, .floatIn [.f32, .f16, .bf16])] } s1 → 3 ≤ scopeRank sc → ptrTag (s1.ptrOf a 0) = 0 →
    Hit s1 .rmw (s1.ptrOf a 0) 64 64 (⟨q, .global pa pol ow, n⟩ :: r) s2 →
    exec (.rfadd a b sc) s = .next (After (s2.addRf s2.cur.1 pa pol sc (s1.fval b)) [a, b] Pending.none)) ∧
  (∀ (a b : Name) (sc : Scope) (s : State), scopeRank sc < 3 →
    exec (.rfadd a b sc) s = .next (s.takeTrap (mkTrap .illegalInstruction 0 0 0)))

/-- R224, R225, R250: LRW by a thread that holds the word reads it with Z = 0 and queues nothing. On a word of this device that nobody
holds, at a home with room, LRW takes it: an acquire, the word narrowed into its destination, Z = 1. On one that another thread holds, or
at a home without room, it queues and parks. On a word of another device that a thread of this one holds or waits for it queues and parks,
and else takes it or parks, as that device's queue has it (R356: a free value here, log 13). -/
def Sys2Proof.Claims.ReservationTake : Prop :=
  ∀ (d a : Name) (sc : Scope) (s s1 s2 : State) (x : Piece), Ready s (use2 d a) s1 →
    WordHit s1 .rmw (s1.ptrOf a 0) (resLevel (s2.resHome s2.cur.1 sc x)) x s2 →
    let s0 := s2.resPrepare s2.cur.1 x
    let h := s0.resHome s0.cur.1 sc x
    let w := x.loc.word
    let room := decide (s0.admitted h < 2048) && !s0.resvs.any (fun e => decide (e.home = h) && !e.admitted)
    let entry (granted : Bool) : ResEntry :=
      ⟨h, w, s0.me, s0.thr.ctx, s0.thr.recIx, granted, room, sc, d, BitVec.ofNat 64 x.addr⟩
    (∀ e v s4 r, s0.holder h w = some e → e.ctx = s0.thr.ctx → e.recIx = s0.thr.recIx → s0.resWord h w = (v, s4) →
      s4.thr.narrow d (s4.thr.loadVal d v) = some r →
      exec (.lrw d a sc) s = .next (After s4 [a] (put1 d r.pat { r.flags with z := some false }))) ∧
    (h ≠ .remote → room = true → s0.holder h w = none → ∀ v s4 r,
      ({ s0 with resvs := s0.resvs ++ [entry true] } : State).resWord h w = (v, s4) →
      (s4.acquire s4.cur.1 sc).thr.narrow d ((s4.acquire s4.cur.1 sc).thr.loadVal d v) = some r →
      exec (.lrw d a sc) s =
        .next (After (s4.acquire s4.cur.1 sc) [a] (put1 d r.pat { r.flags with z := some true }))) ∧
    (h ≠ .remote → s0.holds h w s0.thr.ctx s0.thr.recIx = false → (room = false ∨ (s0.holder h w).isSome = true) →
      ∃ t, exec (.lrw d a sc) s = .next t ∧ t.thr.wait = some .reservation ∧ t.thr.pc = s0.thr.pc ∧ t.mem = s0.mem ∧
        t.resvs = s0.resvs ++ [entry false]) ∧
    (h = .remote → s0.holds h w s0.thr.ctx s0.thr.recIx = false → ∀ k s3, s0.choose 2 = (k, s3) →
      let here := s0.resvs.any (fun e => decide (e.home = .remote ∧ e.loc = w))
      let far (granted : Bool) : ResEntry := { entry granted with admitted := true }
      (k = 0 → here = false → ∀ v s4 r, ({ s3 with resvs := s3.resvs ++ [far true] } : State).resWord .remote w = (v, s4) →
        (s4.acquire s4.cur.1 sc).thr.narrow d ((s4.acquire s4.cur.1 sc).thr.loadVal d v) = some r →
        exec (.lrw d a sc) s =
          .next (After (s4.acquire s4.cur.1 sc) [a] (put1 d r.pat { r.flags with z := some true }))) ∧
      ((k ≠ 0 ∨ here = true) → ∃ t, exec (.lrw d a sc) s = .next t ∧ t.thr.wait = some .reservation ∧
        t.thr.pc = s0.thr.pc ∧ t.mem = s0.mem ∧ t.resvs = s0.resvs ++ [far false]))

/-- R226, R250: SCH and LRX by a thread that does not hold the word, whether nobody or another thread holds it, release, write Z := 0 and
store and hand on nothing; by its holder the word goes to the next waiter with Z := 1, and SCH stores its operand first, at the home of
the word, where it is not poisoned, or in its SRAM bank. -/
def Sys2Proof.Claims.ReservationGive : Prop :=
  ∀ (a b : Name) (sc : Scope) (s s1 s2 : State) (x : Piece), WordAt s1 .rmw (s1.ptrOf a 0) x s2 →
    let h := s2.resHome s2.cur.1 sc x
    let s0 := (s2.release s2.cur.1 sc).resPrepare s2.cur.1 x
    (s2.holds h x.loc.word s2.thr.ctx s2.thr.recIx = false →
      (Ready s { reads := ints [a, b] } s1 →
        exec (.sch a b sc) s = .next (After s0 [a, b] { Pending.none with flags := FlagWrite.onlyZ false })) ∧
      (Ready s { reads := ints [a] } s1 →
        exec (.lrx a sc) s = .next (After s0 [a] { Pending.none with flags := FlagWrite.onlyZ false }))) ∧
    (∀ e, s2.holder h x.loc.word = some e → e.ctx = s2.thr.ctx → e.recIx = s2.thr.recIx →
      (Ready s { reads := ints [a] } s1 →
        exec (.lrx a sc) s = .next (After (s0.handOn e) [a] { Pending.none with flags := FlagWrite.onlyZ true })) ∧
      (∀ pa pol ow, Ready s { reads := ints [a, b] } s1 → x.loc = .global pa pol ow → s2.levelPoison (resLevel h) x = none →
        exec (.sch a b sc) s = .next (After ((s0.levelStore (resLevel h) (resDie h) ow pa
          (leBytes 8 (s2.ext b))).handOn e) [a, b] { Pending.none with flags := FlagWrite.onlyZ true })) ∧
      (∀ c off, Ready s { reads := ints [a, b] } s1 → x.loc = .sram c off → s2.levelPoison (resLevel h) x = none →
        exec (.sch a b sc) s = .next (After ((s0.modMem (fun m => m.sramWrite c
          (bytesAt off (leBytes 8 (s2.ext b))))).handOn e) [a, b] { Pending.none with flags := FlagWrite.onlyZ true })))

/-! ## The vector unit -/

/-- An instruction of the vector unit may issue: its checks pass, its tags are right, its bound operands are at hand, the
dispatch queue has room (R152, R153); `s2` is the state with its entry in the queue. -/
def Sys2Proof.Claims.VReady (s : State) (u : Use) (pre : State → Option Trap) (s2 : State) : Prop :=
  ∃ s1, Ready s u s1 ∧ pre s = none ∧ (s1.core s1.cur.1).vq.length < 4 ∧ s2 = s1.vqPush

/-- A lane instruction of two operands: destination, operands, accepted tags, what it makes of two lanes. -/
structure Sys2Proof.Claims.LaneRow where
  d : VReg
  a : VOp
  b : VOp
  tags : List Tag
  lane : Tag → Nat → Nat → Nat

/-- Bitwise and unsigned lanes as numbers. -/
def Sys2Proof.Claims.natLane (f : Nat → Nat → Nat) : Tag → Nat → Nat → Nat := fun _ => f

/-- The lane instructions whose two operands are read alike, in both lengths (R80, R171, R172). -/
def Sys2Proof.Claims.laneRow : Instr → Option LaneRow
  | .vadd d a b => some ⟨d, a, b, arithTags, fun t => laneOp t (fun x y => x + y) (fun x y => x.add y)⟩
  | .vsub d a b => some ⟨d, a, b, arithTags, fun t => laneOp t (fun x y => x - y) (fun x y => x.add y.neg)⟩
  | .vmul d a b => some ⟨d, a, b, arithTags, fun t => laneOp t (fun x y => x * y) (fun x y => x.mul y)⟩
  | .vmin d a b => some ⟨d, a, b, arithTags, fun t => laneOp t (fun x y => if x ≤ y then x else y) (fun x y => x.minNum y)⟩
  | .vmax d a b => some ⟨d, a, b, arithTags, fun t => laneOp t (fun x y => if x ≤ y then y else x) (fun x y => x.maxNum y)⟩
  | .vminu d a b => some ⟨d, a, b, intTags, natLane (fun x y => if x ≤ y then x else y)⟩
  | .vmaxu d a b => some ⟨d, a, b, intTags, natLane (fun x y => if x ≤ y then y else x)⟩
  | .vand d a b => some ⟨d, a, b, laneTags, natLane (fun x y => x &&& y)⟩
  | .vor d a b => some ⟨d, a, b, laneTags, natLane (fun x y => x ||| y)⟩
  | .vxor d a b => some ⟨d, a, b, laneTags, natLane (fun x y => x ^^^ y)⟩
  | .vadd16 d b => some ⟨v16 d, o16 d, o16 b, arithTags, fun t => laneOp t (fun x y => x + y) (fun x y => x.add y)⟩
  | .vsub16 d b => some ⟨v16 d, o16 d, o16 b, arithTags, fun t => laneOp t (fun x y => x - y) (fun x y => x.add y.neg)⟩
  | .vmul16 d b => some ⟨v16 d, o16 d, o16 b, arithTags, fun t => laneOp t (fun x y => x * y) (fun x y => x.mul y)⟩
  | .vmin16 d b => some ⟨v16 d, o16 d, o16 b, arithTags,
      fun t => laneOp t (fun x y => if x ≤ y then x else y) (fun x y => x.minNum y)⟩
  | .vmax16 d b => some ⟨v16 d, o16 d, o16 b, arithTags,
      fun t => laneOp t (fun x y => if x ≤ y then y else x) (fun x y => x.maxNum y)⟩
  | .vand16 d b => some ⟨v16 d, o16 d, o16 b, laneTags, natLane (fun x y => x &&& y)⟩
  | .vor16 d b => some ⟨v16 d, o16 d, o16 b, laneTags, natLane (fun x y => x ||| y)⟩
  | .vxor16 d b => some ⟨v16 d, o16 d, o16 b, laneTags, natLane (fun x y => x ^^^ y)⟩
  | _ => none

/-- The registers that fix the lane type of two operands (R170). -/
def Sys2Proof.Claims.typeRegs (a b : VOp) : List VReg := opRegs a ++ opRegs b

/-- R80, R171, R172: a lane instruction writes, lane by lane, what its operation makes of the lanes of both operands under
the lane type of its first register, whose side field it keeps. -/
def Sys2Proof.Claims.LaneResult : Prop :=
  ∀ (i : Instr) (w : LaneRow) (s s2 : State), laneRow i = some w →
    VReady s (vuse2 w.d w.a w.b) (fun s => s.laneType (typeRegs w.a w.b) w.tags) s2 →
    let r := s2.firstReg (typeRegs w.a w.b)
    exec i s = .next (After s2 (vuse2 w.d w.a w.b).names
      (putV w.d (regOfLanes r.tag (List.zipWith (w.lane r.tag) (s2.opLanes r.tag w.a) (s2.opLanes r.tag w.b)) r.side)))

/-- The lane shifts (R172). -/
def Sys2Proof.Claims.vshiftRow : Instr → Option (VReg × VOp × VOp × (Nat → Nat → Nat → Nat))
  | .vshl d a b => some (d, a, b, fun w x n => x * 2 ^ n % 2 ^ w)
  | .vshr d a b => some (d, a, b, fun _ x n => x / 2 ^ n)
  | .vsra d a b => some (d, a, b, fun w x n => lowBits w (laneInt w x / ipow n))
  | .vshl16 d b => some (v16 d, o16 d, o16 b, fun w x n => x * 2 ^ n % 2 ^ w)
  | .vshr16 d b => some (v16 d, o16 d, o16 b, fun _ x n => x / 2 ^ n)
  | .vsra16 d b => some (v16 d, o16 d, o16 b, fun w x n => lowBits w (laneInt w x / ipow n))
  | _ => none

/-- The lane comparisons (R173). -/
def Sys2Proof.Claims.vcmpRow : Instr → Option (VReg × VOp × VOp × (Int → Int → Bool) × (FVal → FVal → Bool))
  | .vceq d a b => some (d, a, b, fun x y => decide (x = y), fun x y => x.eq y)
  | .vclt d a b => some (d, a, b, fun x y => decide (x < y), fun x y => x.lt y)
  | .vcle d a b => some (d, a, b, fun x y => decide (x ≤ y), fun x y => x.lt y || x.eq y)
  | .vclt16 d b => some (v16 d, o16 d, o16 b, fun x y => decide (x < y), fun x y => x.lt y)
  | _ => none

/-- The lane instructions of one register (R172). -/
def Sys2Proof.Claims.vunaryRow : Instr → Option (VReg × VReg × (Int → Int) × (FVal → FVal))
  | .vabs d a => some (d, a, fun x => if x < 0 then -x else x, FVal.abs)
  | .vneg d a => some (d, a, fun x => -x, FVal.neg)
  | .vabs16 d b => some (v16 d, v16 b, fun x => if x < 0 then -x else x, FVal.abs)
  | .vneg16 d b => some (v16 d, v16 b, fun x => -x, FVal.neg)
  | _ => none

/-- R172, R173: shifts take amounts of at most the lane width; comparisons answer all ones or 0 under the integer tag of the
width with side field 0; VABS and VNEG keep the tag and the side field. -/
def Sys2Proof.Claims.ShiftCompareResult : Prop :=
  (∀ (i : Instr) (d : VReg) (a b : VOp) (f : Nat → Nat → Nat → Nat) (s s2 : State), vshiftRow i = some (d, a, b, f) →
    VReady s (vuse2 d a b) (fun s => s.laneType (typeRegs a b) intTags) s2 →
    let r := s2.firstReg (typeRegs a b)
    exec i s = .next (After s2 (vuse2 d a b).names (putV d (regOfLanes r.tag
      (List.zipWith (f (tagWidth r.tag)) (s2.opLanes r.tag a) (s2.shiftLanes r.tag b)) r.side)))) ∧
  (∀ (i : Instr) (d : VReg) (a b : VOp) (f : Int → Int → Bool) (g : FVal → FVal → Bool) (s s2 : State),
    vcmpRow i = some (d, a, b, f, g) → VReady s (vuse2 d a b) (fun s => s.laneType (typeRegs a b) arithTags) s2 →
    let t := (s2.firstReg (typeRegs a b)).tag
    exec i s = .next (After s2 (vuse2 d a b).names (putV d (regOfLanes (intTag (tagWidth t))
      (List.zipWith (laneCmp t f g) (s2.opLanes t a) (s2.opLanes t b)) 0)))) ∧
  (∀ (i : Instr) (d a : VReg) (f : Int → Int) (g : FVal → FVal) (s s2 : State), vunaryRow i = some (d, a, f, g) →
    VReady s { vreads := [a], vwrites := [d] } (fun s => s.laneType [a] arithTags) s2 →
    exec i s = .next (After s2 [] (putV d (regOfLanes (s2.thr.vreg a).tag
      ((s2.thr.vreg a).lanes.map (laneOp1 (s2.thr.vreg a).tag f g)) (s2.thr.vreg a).side))))

/-- R174 to R177: VSEL takes bits by the mask in its destination; VMOV copies a whole register; VBCAST fills the lanes of a
tag; VINS sets one lane, its index taken modulo the lane count. -/
def Sys2Proof.Claims.SelectMoveInsert : Prop :=
  ∀ (d a : VReg) (x y : VOp) (n : LowName) (p q : Name) (tag : Tag) (e f : Fin 16) (s s2 : State),
    (VReady s { vuse2 d x y with vreads := opRegs x ++ opRegs y ++ [d] } (fun s => s.laneType (typeRegs x y) laneTags) s2 →
      let r := s2.firstReg (typeRegs x y)
      let m := (s2.thr.vreg d).data
      exec (.vsel d x y) s = .next (After s2 (vuse2 d x y).names
        (putV d ⟨(s2.opImage r.tag x &&& m) ||| (s2.opImage r.tag y &&& ~~~m), r.side, r.tag⟩))) ∧
    (VReady s { vreads := [a], vwrites := [d] } (fun _ => none) s2 →
      exec (.vmov d a) s = .next (After s2 [] (putV d (s2.thr.vreg a)))) ∧
    (VReady s { vreads := [v16 f], vwrites := [v16 e] } (fun _ => none) s2 →
      exec (.vmov16 e f) s = .next (After s2 [] (putV (v16 e) (s2.thr.vreg (v16 f))))) ∧
    (VReady s { reads := ints [lowName n], vwrites := [d] } (fun _ => none) s2 →
      exec (.vbcast d n tag) s = .next (After s2 [lowName n]
        (putV d (regOfLanes tag (List.replicate (tagCount tag) (s2.bcastLane tag (lowName n))) 0)))) ∧
    (VReady s { reads := ints [p, q], vreads := [d], vwrites := [d] } (fun s => s.tagIn d laneTags) s2 →
      let r := s2.thr.vreg d
      exec (.vins d p q) s = .next (After s2 [p, q] (putV d (regOfLanes r.tag
        (r.lanes.set (s2.val q % (tagCount r.tag : Int)).toNat (lowBits (tagWidth r.tag) (s2.val p))) r.side))))

/-- The instructions of the vector unit that write a name: what they use, their tag check, their destination, their value (R177,
R184): VEXT one lane, as an integer under an integer tag and else as its pattern; VTAG the tag's code; VSEXR 16 bits of the side
field, or with item 4 all 64. -/
def Sys2Proof.Claims.vreadRow : Instr → Option (Use × (State → Option Trap) × Name × (State → Int))
  | .vext d a b => some ({ reads := ints [b], writes := ints [d], vreads := [a] }, fun s => s.tagIn a laneTags, d, fun s =>
      let x := s.thr.vreg a
      let p := bits x.data.toNat (tagWidth x.tag * (s.val b % (tagCount x.tag : Int)).toNat) (tagWidth x.tag)
      if isIntTag x.tag then laneInt (tagWidth x.tag) p else p)
  | .vtag d a => some ({ writes := ints [d], vreads := [a] }, fun _ => none, d, fun s => (s.thr.vreg a).tag.code)
  | .vsexr d a item => some ({ writes := ints [d], vreads := [a] }, fun _ => none, d, fun s =>
      ((if item.val = 4 then (s.thr.vreg a).side.toNat else bits (s.thr.vreg a).side.toNat (16 * item.val) 16 : Nat) : Int))
  | _ => none

/-- R152, R177, R184: VEXT, VTAG and VSEXR narrow their value into their name, with an entry in the queue; where a trap-mode
name cannot hold it WIDTH_OVERFLOW is taken at issue and no entry reaches the queue. -/
def Obligations.VectorToName : Prop :=
  ∀ (i : Instr) (u : Use) (pre : State → Option Trap) (d : Name) (x : State → Int) (s s1 : State),
    vreadRow i = some (u, pre, d, x) → Ready s u s1 → pre s = none → (s1.core s1.cur.1).vq.length < 4 →
    (∀ r, s1.thr.narrow d (x s1) = some r → exec i s = .next (After s1.vqPush u.names (put1 d r.pat r.flags))) ∧
    (s1.thr.narrow d (x s1) = none → exec i s = .next (s1.takeTrap (mkTrap .widthOverflow 0 d.val (lowBits 64 (x s1)))))

/-- The reductions of all lanes (R179). -/
def Sys2Proof.Claims.vreduceRow : Instr → Option (VReg × VReg × (Int → Int → Int) × (FVal → FVal → FVal))
  | .vradd d a => some (d, a, fun x y => x + y, FVal.add)
  | .vrmax d a => some (d, a, fun x y => if x ≤ y then y else x, FVal.maxNum)
  | .vrmin d a => some (d, a, fun x y => if x ≤ y then x else y, FVal.minNum)
  | _ => none

/-- R178, R179, R184: VPERM moves lanes by index; a reduction folds all lanes into lane 0, an exact float sum rounded once;
VRETAG changes the tag and no bit that the new tag keeps; VSEXW writes side-field bits that the tag has. -/
def Sys2Proof.Claims.PermuteReduceRetag : Prop :=
  ∀ (d a : VReg) (x : VOp) (n : Name) (tag : Tag) (item : Fin 5) (s s2 : State),
    (VReady s { reads := ints (opNames x), vreads := a :: opRegs x, vwrites := [d] } (fun s => s.permFail a x) s2 →
      let r := s2.thr.vreg a
      exec (.vperm d a x) s = .next (After s2 (opNames x)
        (putV d (regOfLanes r.tag ((s2.permIndex r.tag x).map (fun i => r.lanes.getD i 0)) r.side)))) ∧
    (∀ (i : Instr) (f : Int → Int → Int) (g : FVal → FVal → FVal), vreduceRow i = some (d, a, f, g) →
      VReady s { vreads := [a], vwrites := [d] } (fun s => s.laneType [a] arithTags) s2 →
      let r := s2.thr.vreg a
      (∀ k, tagFmt r.tag = some k → exec i s = .next (After s2 [] (putV d (regOfLanes r.tag
        [k.rne (((r.lanes.map k.value).tail).foldl g ((r.lanes.map k.value).headD .nan))] 0)))) ∧
      (tagFmt r.tag = none → exec i s = .next (After s2 [] (putV d (regOfLanes r.tag
        [lowBits (tagWidth r.tag) (((r.lanes.map (laneInt (tagWidth r.tag))).tail).foldl f
          ((r.lanes.map (laneInt (tagWidth r.tag))).headD 0))] 0))))) ∧
    (VReady s { vreads := [a], vwrites := [d] } (fun _ => none) s2 →
      exec (.vretag d a tag) s = .next (After s2 []
        (putV d ⟨maskData tag (s2.thr.vreg a).data.toNat, maskSide tag (s2.thr.vreg a).side.toNat, tag⟩))) ∧
    (VReady s { reads := ints [n], vreads := [d], vwrites := [d] } (fun _ => none) s2 →
      let x := (s2.thr.vreg d).side.toNat
      let y := if item.val = 4 then s2.ext n
        else x - bits x (16 * item.val) 16 * 2 ^ (16 * item.val) + s2.ext n % 2 ^ 16 * 2 ^ (16 * item.val)
      exec (.vsexw d n item) s =
        .next (After s2 [n] (putV d { s2.thr.vreg d with side := maskSide (s2.thr.vreg d).tag y })))

/-- The long-latency float instructions of two operands: whether they read the destination, and their lanes (R180). -/
def Sys2Proof.Claims.vlongRow : Instr → Option (VReg × VOp × VOp × Bool × Look × (FVal → FVal → FVal → FVal))
  | .vfma d a b l => some (d, a, b, true, l, fun x y z => (x.mul y).add z)
  | .vfms d a b l => some (d, a, b, true, l, fun x y z => (x.mul y).add z.neg)
  | .vdiv d a b l => some (d, a, b, false, l, fun x y _ => x.div y)
  | _ => none

/-- R180: VFMA, VFMS, VDIV and VSQRT round each lane's exact result once, in their window. -/
def Sys2Proof.Claims.VectorFloatResult : Prop :=
  (∀ (i : Instr) (d : VReg) (a b : VOp) (acc : Bool) (l : Look) (f : FVal → FVal → FVal → FVal) (s s2 : State),
    vlongRow i = some (d, a, b, acc, l, f) →
    let srcs := opRegs a ++ opRegs b ++ (if acc then [d] else [])
    let u : Use := { reads := ints (opNames a ++ opNames b), vreads := srcs, vwrites := [d] }
    VReady s u (fun s => s.laneType srcs floatTags) s2 →
    let r := s2.firstReg srcs
    let g := (tagFmt r.tag).getD Fmt.b32
    exec i s = .next (AfterLong s2 l.val u.names (putV d (regOfLanes r.tag
      ((List.zip (s2.opLanes r.tag a) (List.zip (s2.opLanes r.tag b) (s2.opLanes r.tag (.reg d)))).map
        (fun p => g.rne (f (g.value p.1) (g.value p.2.1) (g.value p.2.2)))) r.side)))) ∧
  (∀ (d a : VReg) (l : Look) (s s2 : State), VReady s { vreads := [a], vwrites := [d] } (fun s => s.laneType [a] floatTags) s2 →
    let r := s2.thr.vreg a
    let g := (tagFmt r.tag).getD Fmt.b32
    exec (.vsqrt d a l) s = .next (AfterLong s2 l.val []
      (putV d (regOfLanes r.tag (r.lanes.map (fun x => g.rne (g.value x).sqrt)) r.side))))

/-- R181 to R183: VCVT and VDXQ convert a register group element by element, in one rounding mode each; with mode SR each
element draws its noise word, in ascending order. -/
def Sys2Proof.Claims.GroupConversion : Prop :=
  ∀ (d a : VReg) (tag : Tag) (rm : RMode) (s s1 s2 : State) (ws : List Nat),
    let p := groupSize (s.tagOf a) tag
    let srcs := vregRun a (p / tagCount (s.tagOf a))
    let dsts := vregRun d (p / tagCount tag)
    Ready s { vreads := srcs, vwrites := dsts } s1 → (s1.core s1.cur.1).vq.length < 4 →
    ((rm = .sr ∧ s1.draws p = (.ok ws, s2)) ∨ (rm ≠ .sr ∧ ws = [] ∧ s2 = s1)) →
    let out := convertGroup tag (convMode (s.tagOf a) tag rm) (srcs.flatMap (fun v => (s1.thr.vreg v).elems)) ws
    (s.groupFail d a tag rm vcvtSources (tagExact (s.tagOf a) tag) = none →
      exec (.vcvt d a tag rm) s = .next (After s2.vqPush [] { Pending.none with vregs := List.zip dsts out })) ∧
    (s.groupFail d a tag rm [.fp32, .bf16, .fp16] false = none →
      exec (.vdxq d a tag rm) s = .next (After s2.vqPush [] { Pending.none with vregs := List.zip dsts out }))

/-- The instructions of the vector unit that work under one lane type: what they use, the registers that fix the type, the
accepted tags (R170 to R173, R180). -/
def Sys2Proof.Claims.vtypeRow (i : Instr) : Option (Use × List VReg × List Tag) :=
  match laneRow i with
  | some w => some (vuse2 w.d w.a w.b, typeRegs w.a w.b, w.tags)
  | none =>
    match vshiftRow i with
    | some (d, a, b, _) => some (vuse2 d a b, typeRegs a b, intTags)
    | none =>
      match vcmpRow i with
      | some (d, a, b, _) => some (vuse2 d a b, typeRegs a b, arithTags)
      | none =>
        match vunaryRow i with
        | some (d, a, _) => some ({ vreads := [a], vwrites := [d] }, [a], arithTags)
        | none =>
          match vlongRow i with
          | some (d, a, b, acc, _) =>
            let srcs := opRegs a ++ opRegs b ++ (if acc then [d] else [])
            some ({ reads := ints (opNames a ++ opNames b), vreads := srcs, vwrites := [d] }, srcs, floatTags)
          | none =>
            match i with
            | .vsqrt d a _ => some ({ vreads := [a], vwrites := [d] }, [a], floatTags)
            | _ => none

/-- R69, R153, R170, R181: of every instruction of the vector unit that works under one lane type, and of both group
conversions: where the first register carries no accepted tag, TAG_MISMATCH with the tag found and the lowest accepted one;
where another carries another tag than the first, TAG_MISMATCH with the two; no register at all, a group past the last
register and a mode SR that would be exact are illegal; all this before the queue is looked at: with the queue full the
instruction does not issue. -/
def Obligations.VectorChecks : Prop :=
  (∀ (i : Instr) (u : Use) (vs : List VReg) (acc : List Tag) (s s1 : State), vtypeRow i = some (u, vs, acc) → s.useFail u = none →
    (vs = [] → exec i s = .next (s.takeTrap (mkTrap .illegalInstruction 0 0 0))) ∧
    (∀ v rest, vs = v :: rest →
      ((s.thr.vreg v).tag ∉ acc →
        exec i s = .next (s.takeTrap (mkTrap .tagMismatch 0 (s.thr.vreg v).tag.code (acc.headD .raw).code))) ∧
      (∀ w, (s.thr.vreg v).tag ∈ acc → rest.find? (fun w => decide ((s.thr.vreg w).tag ≠ (s.thr.vreg v).tag)) = some w →
        exec i s = .next (s.takeTrap (mkTrap .tagMismatch 0 (s.thr.vreg w).tag.code (s.thr.vreg v).tag.code))) ∧
      ((s.thr.vreg v).tag ∈ acc → (∀ w ∈ rest, (s.thr.vreg w).tag = (s.thr.vreg v).tag) → s.gather u = .ready s1 →
        4 ≤ (s1.core s1.cur.1).vq.length → exec i s = .next (s1.modThr Thread.unissue)))) ∧
  (∀ (i : Instr) (d a : VReg) (D : Tag) (rm : RMode) (acc : List Tag) (exact : Bool) (s s1 : State),
    let S := (s.thr.vreg a).tag
    let p := groupSize S D
    let srcs := vregRun a (p / tagCount S)
    let u : Use := { vreads := srcs, vwrites := vregRun d (p / tagCount D) }
    let past : Prop := 32 < a.val + p / tagCount S ∨ 32 < d.val + p / tagCount D ∨ (rm = .sr ∧ exact = true)
    (i = .vcvt d a D rm ∧ acc = vcvtSources ∧ exact = tagExact S D) ∨
      (i = .vdxq d a D rm ∧ acc = [.fp32, .bf16, .fp16] ∧ exact = false) → s.useFail u = none →
    (S ∉ acc → exec i s = .next (s.takeTrap (mkTrap .tagMismatch 0 S.code (acc.headD .raw).code))) ∧
    (S ∈ acc → past → exec i s = .next (s.takeTrap (mkTrap .illegalInstruction 0 0 0))) ∧
    (S ∈ acc → ¬past →
      (∀ w, srcs.find? (fun v => decide ((s.thr.vreg v).tag ≠ S)) = some w →
        exec i s = .next (s.takeTrap (mkTrap .tagMismatch 0 (s.thr.vreg w).tag.code S.code))) ∧
      ((∀ v ∈ srcs, (s.thr.vreg v).tag = S) → s.gather u = .ready s1 → 4 ≤ (s1.core s1.cur.1).vq.length →
        exec i s = .next (s1.modThr Thread.unissue))))

/-! ## Flumes -/

/-- The result that writes only Z. -/
def Sys2Proof.Claims.putZ (z : Bool) : Pending := { Pending.none with flags := FlagWrite.onlyZ z }

/-- R212, R228, R230, R231, R252: ENQ and ENQW at a controller that lets the element in, or reports FULL, complete; at a full
flume of the waiting policy they park at the tail of its list, ENQW only while its limit is above 0: else it raises
WAIT_EXPIRED with HEAD and TAIL. -/
def Sys2Proof.Claims.EnqueueResult : Prop :=
  ∀ (a b d : Name) (s s1 s2 s3 : State) (pa : Nat) (f : Fcb) (o : FlumeOut),
    let es := nameRun b (elemNames (s.ext a))
    let h := s1.ext a
    let elem := es.map (fun n => (n, Need.intOr [.f64]))
    (s.thr.name a).bind = .none → b.val + elemNames (s.ext a) ≤ 64 →
    s1.flumeOpen h (some (handleSize h)) true = .ok pa f s2 → s2.flumeEnq (s2.dev.dieOf s2.cur.1) pa f (s1.elemOf es) = (o, s3) →
    (Ready s { reads := ints [a] ++ elem ++ [] } s1 →
      (o ≠ .wait → exec (.enq a b) s = .next (After s3 ([a] ++ es ++ []) Pending.none)) ∧
      (o = .wait → exec (.enq a b) s =
        .next ((s3.flumeWait f (s3.flumeMe pa f h true (s1.elemOf es) 63 false)).park ([a] ++ es ++ []) .flume))) ∧
    (Ready s { reads := ints [a] ++ elem ++ ints [d] } s1 →
      (o ≠ .wait → exec (.enqw d a b) s = .next (After s3 ([a] ++ es ++ [d]) Pending.none)) ∧
      (o = .wait → s1.val d ≤ 0 → exec (.enqw d a b) s = .next (s3.takeTrap (mkTrap .waitExpired
        (BitVec.ofNat 64 (h / 64 * 64)).toNat f.head f.tail))) ∧
      (o = .wait → 0 < s1.val d → exec (.enqw d a b) s =
        .next ((s3.flumeWait f (s3.flumeMe pa f h true (s1.elemOf es) 63 true)).park ([a] ++ es ++ [d]) .flume)))

/-- R230, R231, R252: DEQ and DEQW that find an element acquire at the flume's scope and receive its parts into consecutive
names, narrowed with no flag; on an empty flume they park, DEQW only while its limit is above 0. -/
def Sys2Proof.Claims.DequeueResult : Prop :=
  ∀ (d a b : Name) (s s1 s2 s3 : State) (pa : Nat) (f : Fcb) (e : List Word),
    let es := nameRun d (elemNames (s.ext a))
    let h := s1.ext a
    let dsts := es.map (fun n => (n, Need.elem)) ++ []
    (s.thr.name a).bind = .none → d.val + elemNames (s.ext a) ≤ 64 →
    s1.flumeOpen h (some (handleSize h)) false = .ok pa f s2 →
    (s2.flumeDeq (s2.dev.dieOf s2.cur.1) pa f = (.done e, s3) →
      let t := s3.acquire s3.cur.1 f.scopeOf
      (Ready s { reads := ints [a] ++ [], writes := dsts } s1 →
        exec (.deq d a) s = .next (After t ([a] ++ []) { Pending.none with names := s3.thr.parts d e })) ∧
      (Ready s { reads := ints [a] ++ ints [b], writes := dsts } s1 →
        exec (.deqw d a b) s = .next (After t ([a] ++ [b]) { Pending.none with names := s3.thr.parts d e }))) ∧
    (s2.flumeDeq (s2.dev.dieOf s2.cur.1) pa f = (.wait, s3) →
      (Ready s { reads := ints [a] ++ [], writes := dsts } s1 → exec (.deq d a) s =
        .next ((s3.flumeWait f (s3.flumeMe pa f h false [] d false)).park ([a] ++ []) .flume)) ∧
      (Ready s { reads := ints [a] ++ ints [b], writes := dsts } s1 → s1.val b ≤ 0 →
        exec (.deqw d a b) s = .next (s3.takeTrap (mkTrap .waitExpired (BitVec.ofNat 64 (h / 64 * 64)).toNat f.head f.tail))) ∧
      (Ready s { reads := ints [a] ++ ints [b], writes := dsts } s1 → 0 < s1.val b → exec (.deqw d a b) s =
        .next ((s3.flumeWait f (s3.flumeMe pa f h false [] d true)).park ([a] ++ [b]) .flume)))

/-- R231, R252, R253: ENQN never parks: its destination receives 0 for enqueued and 1 for FULL. DEQN tells by Z whether it
received an element. QSTAT reads one counter. -/
def Obligations.FlumeTries : Prop :=
  ∀ (d a b : Name) (l : Look) (item : Fin 7) (s s1 s2 s3 : State) (pa : Nat) (f : Fcb) (r : Narrowed),
    let h := s1.ext a
    let src := nameRun b (elemNames (s.ext a))
    let dst := nameRun d (elemNames (s.ext a))
    let look (x : State) : Nat := if (x.thr.name d).mode = .trap then 0 else l.val
    (s.thr.name a).bind = .none → b.val + elemNames (s.ext a) ≤ 64 → d.val + elemNames (s.ext a) ≤ 64 →
    (Ready s { reads := ints [a] ++ src.map (fun n => (n, Need.intOr [.f64])) ++ [], writes := ints [d] } s1 →
      s1.flumeOpen h (some (handleSize h)) true = .ok pa f s2 → ∀ o, s2.flumeEnq (s2.dev.dieOf s2.cur.1) pa f (s1.elemOf src) = (o, s3) →
      s3.thr.narrow d (match o with | .done _ => 0 | _ => 1) = some r →
      exec (.enqn d a b l) s = .next (AfterLong s3 (look s3) (a :: src) (put1 d r.pat r.flags))) ∧
    (Ready s { reads := ints [a] ++ [], writes := dst.map (fun n => (n, Need.elem)) ++ [] } s1 →
      s1.flumeOpen h (some (handleSize h)) false = .ok pa f s2 →
      (∀ e, s2.flumeDeq (s2.dev.dieOf s2.cur.1) pa f = (.done e, s3) → let t := s3.acquire s3.cur.1 f.scopeOf
        exec (.deqn d a l) s = .next (AfterLong t l.val [a] { putZ true with names := s3.thr.parts d e })) ∧
      (s2.flumeDeq (s2.dev.dieOf s2.cur.1) pa f = (.wait, s3) → exec (.deqn d a l) s = .next (AfterLong s3 l.val [a] (putZ false)))) ∧
    (Ready s (use2 d a) s1 → s1.flumeOpen h (some (handleSize h)) false = .ok pa f s2 →
      s2.thr.narrow d (([f.tail - f.head, f.free, f.head, f.tail, f.drops, f.waite, f.waitd].getD item.val 0 : Nat) : Int) =
        some r →
      exec (.qstat d a item l) s = .next (AfterLong s2 (look s2) [a] (put1 d r.pat r.flags)))

/-- R230: what a controller does, its checks passed. An ENQ with no dequeuer counted and room fills the slot at TAIL; with no
room it is reported FULL and counted in DROPS, or waits; with a dequeuer counted the oldest one receives the element. A DEQ
takes the slot at HEAD; with an enqueuer counted the oldest one's element is written into the slot at TAIL that came free,
TAIL moves, the count falls, and that enqueuer completes; at an empty flume the DEQ waits. -/
def Obligations.FlumeOrder : Prop :=
  ∀ (s : State) (die pa : Nat) (f : Fcb) (e : List Word),
    (f.waitd = 0 → 0 < f.free → s.flumeEnq die pa f e =
      (.done [], (s.putElem f f.tail e).fcbWrite pa { f with tail := f.tail + 1, free := f.free - 1 })) ∧
    (f.waitd = 0 → f.free = 0 → f.policy = true → s.flumeEnq die pa f e =
      (.full, s.fcbWrite pa { f with drops := if f.drops + 1 ≤ 2 ^ 32 - 1 then f.drops + 1 else 2 ^ 32 - 1 })) ∧
    (f.waitd = 0 → f.free = 0 → f.policy = false → s.flumeEnq die pa f e = (.wait, s)) ∧
    (∀ w, 0 < f.waitd →
      let s1 := s.fcbWrite pa { f with head := f.head + 1, tail := f.tail + 1, waitd := f.waitd - 1 }
      s1.oldest pa (f.ctl die) false = some w → s.flumeEnq die pa f e =
        (.done [], ({ s1 with flumeWaits := s1.flumeWaits.erase w } : State).completeDeq w f.scopeOf e)) ∧
    (f.tail ≤ f.head → s.flumeDeq die pa f = (.wait, s)) ∧
    (f.head < f.tail → f.waite = 0 → s.flumeDeq die pa f =
      (.done (s.getElem f f.head), s.fcbWrite pa { f with head := f.head + 1, free := f.free + 1 })) ∧
    (∀ w, f.head < f.tail → 0 < f.waite →
      let s1 := s.fcbWrite pa { f with head := f.head + 1, tail := f.tail + 1, waite := f.waite - 1 }
      s1.oldest pa (f.ctl die) true = some w → s.flumeDeq die pa f = (.done (s.getElem f f.head),
        (({ s1 with flumeWaits := s1.flumeWaits.erase w } : State).putElem f f.tail w.elem).completeParty w.who none
          Thread.retire))

/-- R254: QBIND binds an integer name that is neither fixed nor in trap mode nor bound, at most four a thread, to a flume of
8-byte elements, with Z = 1, else Z = 0; with n63 it takes a flume binding away: the name has the element that it held, or else the row
bits that it had when it was bound. -/
def Sys2Proof.Claims.FlumeBinding : Prop :=
  ∀ (d a : Name) (s s1 s2 : State) (pa : Nat) (f : Fcb) (h : Word) (b : Option Word), a ≠ 63 →
    (Ready s { reads := ints [a], decls := ints [d] } s1 → s1.flumeOpen (s1.ext a) none false = .ok pa f s2 →
      (s2.qbindRefused d (s1.ext a) f.esz = true → exec (.qbind d a) s = .next (After s2 [a] (putZ false))) ∧
      (s2.qbindRefused d (s1.ext a) f.esz = false → exec (.qbind d a) s = .next (After ((s2.consume [a]).modThr (fun t =>
        t.setName d { t.name d with bind := .flume (BitVec.ofNat 64 (s1.ext a)) none })) [] (putZ true)))) ∧
    (Ready s { decls := ints [d] } s1 → (s1.thr.name d).bind = .flume h b → exec (.qbind d 63) s =
      .next (After (s1.modThr (fun t => t.setName d { t.name d with pat := b.getD (t.name d).pat, bind := .none })) [] (putZ true)))

/-- R190, R192, R257: an accepted SPLIT gives the core the scratchpad units and its context the ownership, with Z = 1; a
refused one changes nothing but Z. -/
def Sys2Proof.Claims.SplitResult : Prop :=
  ∀ (u : Fin 5) (s : State),
    (s.splitAllowed u.val = true → exec (.split u) s = .next (After (s.setSplit s.cur.1 u.val s.thr.ctx) [] (putZ true))) ∧
    (s.splitAllowed u.val = false → exec (.split u) s = .next (After s [] (putZ false)))

/-! ## Threads -/

/-- R134, R163: SPAWN with a free record makes it the thread's that starts at the entry, with the four arguments and the
affinity, and writes Z := 1 (N := 1 for an affinity that names no core); with none free it writes Z := 0 and N := 0. -/
def Obligations.SpawnResult : Prop :=
  ∀ (d a b : Name) (s s1 s2 s3 : State) (pc maph : Word),
    let u : Use := { reads := (nameRun d 4).map (fun n => (n, Need.any)) ++ ints [a, b] }
    Ready s u s1 → s1.readEntry (s1.ext b) = (.ok (pc, maph), s2) →
    (∀ k, s2.takeRecord s2.thr.ctx = (some k, s3) →
      let legal := decide (s1.val a = -1) || (decide (0 ≤ s1.val a) && s1.dev.isCore (s1.val a).toNat)
      let aff := if legal && decide (s1.val a ≠ -1) then some (s1.val a).toNat else none
      exec (.spawn d a b) s = .next (After (s3.spawnRecord k pc maph ((nameRun d 4).map (fun n => s1.ext n)) aff) u.names
        { Pending.none with flags := ⟨some true, some (!legal), none, none, false⟩ })) ∧
    (s2.takeRecord s2.thr.ctx = (none, s3) → exec (.spawn d a b) s = .next (After s3 u.names
      { Pending.none with flags := ⟨some false, some false, none, none, false⟩ }))

/-- R83, R135, R136, R164, R280: QUIT ends the thread once its windows and its noria operations are done, and until then goes on
in a later turn; YIELD with no ready record, or of a thread that cannot leave its slot, forgoes the next own turn at once, else it gives
its slot to the record at the head of its ready flume once its windows are done. -/
def Obligations.QuitAndYield : Prop :=
  (∀ (s s1 s2 : State), s.quieted = some s1 →
    (s1.quitNoria s1.cur.1 s1.thr = (true, s2) →
      exec .quit s = .next (s2.endThread s2.cur.1 s2.cur.2 s2.thr) ∧
      exec .quit16 s = .next (s2.endThread s2.cur.1 s2.cur.2 s2.thr)) ∧
    (s1.quitNoria s1.cur.1 s1.thr = (false, s2) →
      exec .quit s = .next ((s2.modThr Thread.handlerDone).modThr Thread.unissue) ∧
      exec .quit16 s = .next ((s2.modThr Thread.handlerDone).modThr Thread.unissue))) ∧
  (∀ (s : State), (s.readyRecs s.thr.ctx s.thr.aff (s.dev.dieOf s.cur.1) = [] ∨ s.pinned s.cur.1 s.thr = true) →
    exec .yield s = .next (s.modThr (fun t => { t with forgo := true })).retire ∧
    exec .yield16 s = .next (s.modThr (fun t => { t with forgo := true })).retire) ∧
  (∀ (s s1 : State) (k : Nat) (r : List Nat), s.readyRecs s.thr.ctx s.thr.aff (s.dev.dieOf s.cur.1) = k :: r →
    s.pinned s.cur.1 s.thr = false → s.quieted = some s1 →
    let die := s1.dev.dieOf s1.cur.1
    let t := ((s1.retire.spillNow s1.cur.1 s1.cur.2 .die).enqueueReady s1.thr.ctx s1.thr.aff die s1.thr.recIx).takeReady
      s1.cur.1 s1.cur.2 s1.thr.ctx s1.thr.aff.isSome k
    exec .yield s = .next t ∧ exec .yield16 s = .next t)

/-- The access to a group word that passes its checks; the word is not poisoned at the level where the instruction works on it (R315). -/
def Sys2Proof.Claims.GroupHit (s : State) (addr : Nat) (lv : Level) (x : Piece) (s1 : State) : Prop :=
  s.groupPiece s.thr s.cur.1 addr = (.ok x, s1) ∧ s1.levelPoison lv x = none

/-- A well-formed group word as LEAVE, GBAR and GCNT find it: SCP at the die L2 (log 126), the word at the level of its scope. -/
def Sys2Proof.Claims.GroupFound (s : State) (addr : Nat) (x : Piece) (w : GroupWord) (s2 : State) : Prop :=
  ∃ s1, GroupHit s addr (x.loc.level .quad) x s1 ∧ s1.groupRead s1.cur.1 x = (w, s2) ∧ w.malformed = false ∧
    s2.levelPoison (x.loc.level w.scope) x = none

/-- R145, R146, R166: JOIN is one read-modify-write at the operand's scope: it adds one member to the word and keeps the handle,
Z = 1; V tells that the group's scope is another. A handle in use, an address held under another handle, a malformed or a full
word refuse with Z = 0, V = 0 and nothing else changed: V is the model's reading (log 106, DEDUCED), since R146 changes nothing but Z and
R166 writes V := 0 wherever the scopes do not differ. -/
def Obligations.JoinResult : Prop :=
  ∀ (g : Grp) (a : Name) (sc : Scope) (s s1 s2 s3 : State) (x : Piece) (w0 : Nat),
    Ready s { reads := ints [a] } s1 → GroupHit s1 (s1.ext a) (x.loc.level sc) x s2 →
    let mine := (s2.thr.group g).isSome || s2.thr.groups.toList.any (fun h => decide (h = some (BitVec.ofNat 64 (s1.ext a))))
    let refused (w : GroupWord) : Bool := mine || (w.malformed || decide (w.memb = 2 ^ 32 - 1))
    s2.atomicAt s2.cur.1 sc x (fun n =>
      if refused (GroupWord.ofNat n) then none else some ((GroupWord.ofNat n).join sc).1.toNat) = (w0, s3) →
    let w := GroupWord.ofNat w0
    (w.join sc).1.memb = w.memb + 1 ∧ (w.join sc).1.phase = w.phase ∧
    (refused w = true → exec (.join g a sc) s =
      .next (After s3 [a] { Pending.none with flags := ⟨some false, none, none, some false, false⟩ })) ∧
    (refused w = false → exec (.join g a sc) s =
      .next (After (s3.modThr (fun t => t.setGroup g (some (BitVec.ofNat 64 (s1.ext a))))) [a]
        { Pending.none with flags := ⟨some true, none, none, some (w.join sc).2, false⟩ }))

/-- R146 to R148, R166, R167: through a handle that names a well-formed word LEAVE takes one member out and empties the
handle, GBAR arrives, GCNT reads a field; an empty handle gives Z = 0, and −1 to GCNT. -/
def Sys2Proof.Claims.GroupResult : Prop :=
  ∀ (g : Grp) (d : Name) (item : Fin 4) (addr : Word) (s s2 : State) (x : Piece) (w : GroupWord),
    (s.thr.group g = none → exec (.leave g) s = .next (After s [] (putZ false)) ∧
      exec (.gbar g) s = .next (After s [] (putZ false))) ∧
    (s.thr.group g = some addr → GroupFound s addr.toNat x w s2 →
      exec (.leave g) s = .next (After ((s2.leaveWord s2.cur.1 x w.scope).modThr (fun t => t.setGroup g none)) [] (putZ true)) ∧
      exec (.gbar g) s = s2.arrive x w.scope) ∧
    (∀ s0 r, Ready s { writes := ints [d] } s0 →
      (s0.thr.group g = none → s0.thr.narrow d (-1) = some r →
        exec (.gcnt d g item) s = .next (After s0 [] (put1 d r.pat r.flags))) ∧
      (s0.thr.group g = some addr → GroupFound s0 addr.toNat x w s2 →
        s2.thr.narrow d (([w.memb, w.arrv, w.phase, w.scp].getD item.val 0 : Nat) : Int) = some r →
        exec (.gcnt d g item) s = .next (After s2 [] (put1 d r.pat r.flags))))

/-- R148: the last arrival at a barrier advances the phase, wakes those who wait for it, acquires and goes on with Z = 1; an
earlier one parks until the phase has changed. -/
def Sys2Proof.Claims.BarrierArrival : Prop :=
  ∀ (s : State) (x : Piece) (sc : Scope) (w0 : Nat) (s2 : State),
    let count (w : GroupWord) : Nat := (w.arrv + 1) % 2 ^ 32
    let next (w : GroupWord) : GroupWord :=
      if count w = w.memb then { w with arrv := 0, phase := (w.phase + 1) % 65536 } else { w with arrv := count w }
    (s.release s.cur.1 sc).atomicAt s.cur.1 sc x (fun w => some (next (GroupWord.ofNat w)).toNat) = (w0, s2) →
    let w := GroupWord.ofNat w0
    (count w = w.memb → w.phase < 65536 → s.arrive x sc =
      .next (After ((s2.wakeGroup x.loc.key w.phase).acquire s.cur.1 sc) [] (putZ true))) ∧
    (count w ≠ w.memb → s2.remotePiece x = false → ∃ t, s.arrive x sc = .next t ∧ t.thr.wait = some .group ∧ t.mem = s2.mem ∧
      t.groupWaits = s2.groupWaits ++ [⟨x.loc.key, w.phase, sc, s2.me⟩])

/-- R129, R158, R159, R162, R168, R169: ROTW writes the rotation table at system privilege, or at user privilege while the core is the
context's alone; LDIR the link directions when they all differ, at user privilege while no thread of another context has a link of the
core; LINK binds a name to a link that is free and has a neighbour, where the save charge allows it; UNLINK takes the binding away. Each
reports by Z, 0 with nothing else changed when it is turned away. Fixed indices of LDIR, LINK and UNLINK raise MAP_FAULT. -/
def Obligations.CoreTables : Prop :=
  ∀ (d : Name) (l : Fin 4) (s s1 s2 : State),
    (Ready s { reads := ints [d] } s1 →
      let allowed := s1.thr.privl.priv || s1.coreHeldBy s1.cur.1 s1.thr.ctx
      (allowed = true → exec (.rotw d) s = .next (After
        (s1.setCore s1.cur.1 { s1.core s1.cur.1 with rottab := BitVec.ofNat 64 (s1.ext d) }) [d] (putZ true))) ∧
      (allowed = false → exec (.rotw d) s = .next (After s1 [d] (putZ false)))) ∧
    (Ready s { reads := ints [d] } s1 →
      let allowed := dirsDiffer (s1.upat d % 256) && (s1.thr.privl.priv || !s1.foreignLink s1.cur.1 s1.thr.ctx)
      (d.val < 61 → allowed = true → exec (.ldir d) s = .next (After ((s1.consume [d]).setCore s1.cur.1
        { (s1.consume [d]).core s1.cur.1 with ldir := BitVec.ofNat 8 (s1.upat d % 256) }) [] (putZ true))) ∧
      (d.val < 61 → allowed = false → exec (.ldir d) s = .next (After s1 [d] (putZ false))) ∧
      (61 ≤ d.val → exec (.ldir d) s = .next (s1.takeTrap (mkTrap .mapFault 0 d.val 0)))) ∧
    (Ready s { decls := ints [d] } s1 →
      let allowed := decide ((s1.thr.name d).bind = .none) && !s1.linkTaken s1.cur.1 l && (s1.linkOut s1.cur.1 l).isSome &&
        s1.chargeFits s1.thr.ctx 128
      (d.val < 61 → allowed = true → exec (.link d l) s =
        .next (After (s1.modThr (fun t => t.setName d { t.name d with bind := .link l })) [] (putZ true))) ∧
      (d.val < 61 → allowed = false → exec (.link d l) s = .next (After s1 [] (putZ false))) ∧
      (61 ≤ d.val → exec (.link d l) s = .next (s1.takeTrap (mkTrap .mapFault 0 d.val 0)) ∧
        exec (.unlink d) s = .next (s1.takeTrap (mkTrap .mapFault 0 d.val 0))) ∧
      (d.val < 61 → s1.quieted = some s2 →
        ((s2.thr.name d).bind = .link l → exec (.unlink d) s =
          .next (After (s2.modThr (fun t => t.setName d { t.name d with bind := .none })) [] (putZ true))) ∧
        ((∀ k, (s2.thr.name d).bind ≠ .link k) → exec (.unlink d) s = .next (After s2 [] (putZ false)))))

/-! ## Tokens, basins, copies -/

/-- R259, R298, R374: CPY and COLL append their packet, its token, record and TV written in, to a registered copy or
collective flume of 64-byte elements after a release; the token goes to PENDING (1). A full flume of the reporting policy
leaves the token as it was, one of the waiting policy parks the thread with the token PENDING; a token that is tied raises
TOKEN_FAULT, before the handle's size is looked at (log 76). -/
def Sys2Proof.Claims.PacketAppended : Prop :=
  ∀ (k : Tok) (a : VReg) (b : Name) (coll : Bool) (s s1 s2 s3 s4 : State) (pa : Nat) (f : Fcb) (o : FlumeOut),
    let i := if coll then Instr.coll k a b else Instr.cpy k a b
    let h := s1.ext b
    Ready s { reads := ints [b], vreads := [a] } s1 → s1.handleCheck s1.thr s1.cur.1 h = (.ok pa, s2) →
    (s2.thr.tok k.val = 1 ∨ s2.thr.tok k.val = 2 → exec i s = .next (s2.takeTrap (mkTrap .tokenFault 0 k.val 0))) ∧
    (s2.thr.tok k.val ≠ 1 → s2.thr.tok k.val ≠ 2 → handleSize h ≠ 3 →
      exec i s = .next (s2.takeTrap (mkTrap .flumeCorrupt (h / 64 * 64) 0 0))) ∧
    (s2.thr.tok k.val ≠ 1 → s2.thr.tok k.val ≠ 2 → handleSize h = 3 → s2.remotePa pa = false → 16 ≤ (s2.fcbRead pa).home →
      let r := s2.release s2.cur.1 (s2.fcbRead pa).scopeOf
      let tied (s : State) : State := s.modThr (fun t => t.setTok k.val 1)
      (r.registered ((s2.fcbRead pa).home - 16) pa coll = false → exec i s = .next (r.takeTrap (mkTrap .protection h 3 0))) ∧
      (r.registered ((s2.fcbRead pa).home - 16) pa coll = true →
        r.fcbOpen (r.dev.dieOf r.cur.1) pa r.thr.ctx (some 3) = (.ok f, s3) →
        let e := tiePacket (s3.thr.vreg a).data.toNat k.val s3.thr.recIx
        s3.flumeEnq (s3.dev.dieOf s3.cur.1) pa f e = (o, s4) →
        (∀ x, o = .done x → exec i s = .next (After (tied s4) [b] Pending.none)) ∧
        (o = .full → exec i s = .next (After s4 [b] Pending.none)) ∧
        (o = .wait → exec i s = .next (((tied s4).flumeWait f
          { s4.flumeMe pa f h true e 63 false with tok := some (k.val, s2.thr.tok k.val) }).park [b] .flume))))

/-- R268, R269, R299, R300: WAITK acquires and goes on when the tokens of its mask have reached its event, else it parks;
TOKS reads the eight states, two bits each. -/
def Sys2Proof.Claims.TokenResult : Prop :=
  ∀ (mask : Nat) (kind : TokKind) (d : Name) (l : Look) (s s1 : State) (r : Narrowed),
    (s.thr.tokensMet mask kind = true → ∀ sc, waitkScope kind = some sc →
      exec (.waitk mask kind) s = .next (s.acquire s.cur.1 sc).retire) ∧
    (s.thr.tokensMet mask kind = true → waitkScope kind = none → exec (.waitk mask kind) s = .next s.retire) ∧
    (s.thr.tokensMet mask kind = false → exec (.waitk mask kind) s = .next (s.park [] (.tokens mask kind))) ∧
    (Ready s { writes := ints [d] } s1 → s1.thr.narrow d s1.thr.toks.toNat = some r → exec (.toks d l) s =
      .next (AfterLong s1 (if (s1.thr.name d).mode = .trap then 0 else l.val) [] (put1 d r.pat r.flags)))

/-- The checked basin word of an access: its address and its fields (R270, R301). -/
def Sys2Proof.Claims.BasinHit (s : State) (k : AccKind) (p pa : Nat) (w : Basin) (s2 : State) : Prop :=
  ∃ s1 q pol ow n bs, Option.orFail (windowFail s.cur.1 k p) (alignFail p 8) = none ∧ ptrTag p = 0 ∧
    WordHit s k p .home ⟨q, .global pa pol ow, n⟩ s1 ∧
    (s1.resPrepare s1.cur.1 ⟨q, .global pa pol ow, n⟩).levelRead .home 0 pa 8 = (bs, s2) ∧ w = Basin.ofNat (leNat bs) ∧ w.legal = true

/-- What a poll answers for a word that is so many phases ahead (R272). -/
def Sys2Proof.Claims.phaseState (ahead : Nat) : Int := if ahead = 0 then 0 else if ahead ≤ 32767 then 1 else 2

/-- R271, R272, R301: BARM adds its count to a basin and receives the prior word, BCLR clears its error fields and receives
the prior word, BERR reads the error code, BPOLL and BWAIT tell whether the phase named has completed: 0 not yet, 1 by up to
32,767 phases, 2 beyond; BWAIT parks at 0. -/
def Sys2Proof.Claims.BasinResult : Prop :=
  ∀ (d a b : Name) (l : Look) (s s1 s2 : State) (pa : Nat) (w : Basin) (r : Narrowed),
    let look (x : State) : Nat := if (x.thr.name d).mode = .trap then 0 else l.val
    let st (x : State) : Int := phaseState (x.phaseAhead w b)
    let acq (x : State) : State := x.acquire x.cur.1 w.scope
    (Ready s (use3 d a b) s1 → BasinHit s1 .rmw (s1.ptrOf a 0) pa w s2 →
      let s3 := s2.putBasin pa w (w.update (lowBits 32 (-s2.val b)) 0)
      s3.thr.narrow d (s2.thr.loadVal d w.word) = some r →
      exec (.barm d a b l) s = .next (AfterLong s3 (look s3) [a, b] (put1 d r.pat r.flags))) ∧
    (Ready s (use2 d a) s1 → BasinHit s1 .rmw (s1.ptrOf a 0) pa w s2 →
      let s3 := s2.putBasin pa w { w with err := 0, multi := false, under := false }
      s3.thr.narrow d (s2.thr.loadVal d w.word) = some r →
      exec (.bclr d a l) s = .next (AfterLong s3 (look s3) [a] (put1 d r.pat r.flags))) ∧
    (Ready s (use2 d a) s1 → BasinHit s1 .read (s1.ptrOf a 0) pa w s2 →
      s2.thr.narrow d (bits w.word 48 16 : Nat) = some r →
      exec (.berr d a l) s = .next (AfterLong s2 (look s2) [a] (put1 d r.pat r.flags))) ∧
    (Ready s (use3 d a b) s1 → BasinHit s1 .read (s1.ptrOf a 0) pa w s2 →
      (let s3 := if st s2 = 1 then acq s2 else s2
       s3.thr.narrow d (st s2) = some r →
       exec (.bpoll d a b l) s = .next (AfterLong s3 (look s3) [a, b] (put1 d r.pat r.flags))) ∧
      (st s2 = 1 → (acq s2).thr.narrow d 1 = some r →
        exec (.bwait d a b) s = .next (After (acq s2) [a, b] (put1 d r.pat r.flags))) ∧
      (st s2 = 2 → s2.thr.narrow d 2 = some r → exec (.bwait d a b) s = .next (After s2 [a, b] (put1 d r.pat r.flags))) ∧
      (st s2 = 0 → s2.dev.paKind pa = .hbm → ∃ t, exec (.bwait d a b) s = .next t ∧ t.thr.wait = some .basin ∧
        t.basinWaits = s2.basinWaits ++ [⟨pa, w.scope, d, s2.me⟩]))

/-! ## Launches and noise -/

/-- R274, R276, R279, R302, R303: on a record of the pool in state 0 whose scheduler lives, LPATCH writes a field (item 12: all
of ARGS, from a vector register; an index of 32 or more there is illegal) and LARM and LFIRE, after a release at dev scope, arm
or trigger it, LARM of a record with no predecessors left at once, with Z = 1; in another state, for a value out of range, or for
an index outside the pool, Z = 0. LSTAT reads the word at 0x38. -/
def Sys2Proof.Claims.LaunchResult : Prop :=
  ∀ (d a b : Name) (item : Fin 13) (l : Look) (s s1 s2 : State) (j : Nat) (r : Narrowed),
    s1.dev.recordDie j ∉ s1.dev.deadSched →
    (item = 12 → 32 ≤ b.val → exec (.lpatch d item b l) s = .next (s.takeTrap (mkTrap .illegalInstruction 0 0 0))) ∧
    (let u : Use := if item = 12 then { reads := ints [d], vreads := [Fin.ofNat 32 b.val] } else { reads := ints [d, b] }
     (item = 12 → b.val < 32) → Ready s u s1 →
      (s1.launchIndex d = none → exec (.lpatch d item b l) s = .next (AfterLong s1 l.val u.names (putZ false))) ∧
      (s1.launchIndex d = some j →
        (s1.launchState s1.thr.ctx j = 0 → s1.patched s1.thr.ctx j item.val b = some s2 →
          exec (.lpatch d item b l) s = .next (AfterLong s2 l.val u.names (putZ true))) ∧
        ((s1.launchState s1.thr.ctx j ≠ 0 ∨ s1.patched s1.thr.ctx j item.val b = none) →
          exec (.lpatch d item b l) s = .next (AfterLong s1 l.val u.names (putZ false))))) ∧
    (Ready s { reads := ints [d] } s1 → s1.launchIndex d = some j →
      let s3 := s1.release s1.cur.1 .dev
      (s3.launchState s3.thr.ctx j = 0 →
        exec (.lfire d l) s = .next (AfterLong
          (State.settleLaunch ((s3.setLaunch s3.thr.ctx j 0x10 48 16 0).launchTrigger s3.thr.ctx j) s3.thr.ctx) l.val [d] (putZ true)) ∧
        (let s4 := s3.setLaunchState s3.thr.ctx j 1
         s4.launchField s4.thr.ctx j 0x10 48 16 ≠ 0 →
         exec (.larm d l) s = .next (AfterLong (State.settleLaunch ([], s4) s3.thr.ctx) l.val [d] (putZ true))) ∧
        (let s4 := s3.setLaunchState s3.thr.ctx j 1
         s4.launchField s4.thr.ctx j 0x10 48 16 = 0 →
         exec (.larm d l) s = .next (AfterLong (State.settleLaunch (s4.launchTrigger s4.thr.ctx j) s3.thr.ctx) l.val [d] (putZ true)))) ∧
      (s3.launchState s3.thr.ctx j ≠ 0 → exec (.larm d l) s = .next (AfterLong s3 l.val [d] (putZ false)) ∧
        exec (.lfire d l) s = .next (AfterLong s3 l.val [d] (putZ false)))) ∧
    (Ready s { reads := ints [d] } s1 → s1.launchIndex d = none →
      exec (.larm d l) s = .next (AfterLong s1 l.val [d] (putZ false)) ∧
      exec (.lfire d l) s = .next (AfterLong s1 l.val [d] (putZ false))) ∧
    (Ready s (use2 d a) s1 → s1.launchIndex a = some j →
      s1.thr.narrow d (s1.launchWord s1.thr.ctx j 0x38 : Nat) = some r → exec (.lstat d a l) s =
        .next (AfterLong s1 (if (s1.thr.name d).mode = .trap then 0 else l.val) [a] (put1 d r.pat r.flags)))

/-- R59, R313: SRNG sets the noise mode and the buffer, with n63 keeping the base, clears HFAIL, FULL and EXH, and its
destination receives SRNGC as it was, with Z = 1; mode 3 and a buffer that is not a page of the global window are refused
with Z = 0. That a pointer of the global window with must-be-0 bits set is refused, too, is the model's choice (log 44): R313
names the alignment and the window alone. -/
def Sys2Proof.Claims.NoiseControl : Prop :=
  ∀ (d a : Name) (md : Fin 4) (s s1 : State) (r : Narrowed), Ready s (use2 d a) s1 →
    let c := s1.thr.srngc
    let old : Nat := c.mode.toNat + 4 * c.hfail.toNat + 8 * c.full.toNat + 16 * c.exh.toNat + 4096 * c.base.toNat
    let bad := decide (md.val = 3) ||
      (decide (a ≠ 63) && (decide (ptrTag (s1.ext a) ≠ 0) || ptrMbz (s1.ext a) || decide (s1.ext a % 4096 ≠ 0)))
    let base := if a = 63 then c.base else BitVec.ofNat 45 (s1.ext a / 4096)
    s1.thr.narrow d old = some r →
    (bad = true → exec (.srng d a md) s = .next (After s1 [a] (put1 d r.pat { r.flags with z := some false }))) ∧
    (bad = false → exec (.srng d a md) s =
      .next (After (s1.modThr (fun t => { t with srngc := ⟨base, false, false, false, BitVec.ofNat 2 md.val⟩ })) [a]
        (put1 d r.pat { r.flags with z := some true })))

/-! ## The noria -/

/-- A noria step may issue: its checks pass, no handler issues it, the core's noria queue has an entry free (R289, R293). -/
def Sys2Proof.Claims.NReady (s : State) (u : Use) (s1 : State) : Prop :=
  Ready s u s1 ∧ s1.thr.handler = none ∧ (s1.core s1.cur.1).nq.length < 2

/-- The request that a thread makes of its noria is taken at once, for the quad's queues are empty and no release is under
way: the entry, and the state in which it is taken, its thread waiting for the answer (R289, log 102). -/
def Sys2Proof.Claims.AtNoria (s : State) (reads : List Name) (d : Name) (op : NoriaOp) (e : NqEntry) (s2 : State) : Prop :=
  s.queued s.myQuad = [] ∧ (s.quad s.myQuad).releases = [] ∧
  e = ⟨s.serial, s.cur.2, s.thr.ctx, s.thr.recIx, op⟩ ∧
  let x := (s.nqPush op).2.park reads (.noria s.serial d)
  let y := x.setCore s.cur.1 { x.core s.cur.1 with nq := [] }
  s2 = y.setQuad s.myQuad { y.quad s.myQuad with lastNoria := s.cur.1 % 4 }

/-- The thread of a slot goes on from its wait with Z written (R280, R292). -/
def Sys2Proof.Claims.goOnZ (s : State) (slot : Nat) (z : Bool) : State :=
  s.completeParty (.slot s.cur.1 slot) none (fun t => (t.putFlags { FlagWrite.none with z := some z }).retire)

/-- R280, R289, R311: MACQ and MREL enter the core's noria queue, their thread waiting for the noria's answer. Taken, MACQ takes
every tile and slot of its word, or none when one is held or the context's charge does not allow them, with Z; MREL gives back
those that the thread holds, after an acquire at die scope, and goes on at once where it holds none; a word with bits above the
slots is MATRIX_SHAPE. A noria whose queues are empty takes the entry at once (log 102, the model's choice of the moment). -/
def Sys2Proof.Claims.NoriaResources : Prop :=
  ∀ (a : Name) (s s1 s2 s3 : State) (e : NqEntry), NReady s { reads := ints [a] } s1 →
    let w := s1.ext a
    let ts := wordTiles w
    let ss := wordSlots w
    let q := s1.myQuad
    let core := s1.cur.1
    (bits w 12 52 ≠ 0 → exec (.macq a) s = .next (s1.takeTrap (matrixShape 4 w)) ∧
      exec (.mrel a) s = .next (s1.takeTrap (matrixShape 4 w))) ∧
    (bits w 12 52 = 0 → s1.queued q ≠ [] →
      exec (.macq a) s = .next ((s1.nqPush (.acquire ts ss)).2.park [a] (.noria s1.serial 63)) ∧
      exec (.mrel a) s = .next ((s1.nqPush (.release ts ss)).2.park [a] (.noria s1.serial 63))) ∧
    (bits w 12 52 = 0 → AtNoria s1 [a] 63 (.acquire ts ss) e s2 →
      ((∀ i ∈ ts, ((s2.quad q).tile i).holder = none) → (∀ i ∈ ss, ((s2.quad q).bslot i).holder = none) →
        (ts = [] ∧ ss = [] ∨ s2.chargeFits e.ctx (16448 * ts.length + 4416 * ss.length) = true) →
        exec (.macq a) s = .next (goOnZ (s2.setQuad q ((s2.quad q).grant e.ctx e.recIx ts ss)) e.slot true)) ∧
      ((∃ i ∈ ts, ((s2.quad q).tile i).holder ≠ none) ∨ (∃ i ∈ ss, ((s2.quad q).bslot i).holder ≠ none) ∨
          (ts ≠ [] ∨ ss ≠ []) ∧ s2.chargeFits e.ctx (16448 * ts.length + 4416 * ss.length) = false →
        exec (.macq a) s = .next (goOnZ s2 e.slot false))) ∧
    (bits w 12 52 = 0 → AtNoria s1 [a] 63 (.release ts ss) e s2 →
      let l : LoadStep := ⟨core, e⟩
      let y := s2.setQuad q { s2.quad q with releases := [l] }
      (∀ i ∈ ts, ((s2.quad q).tile i).holder ≠ some (e.ctx, e.recIx)) →
      (∀ i ∈ ss, ((s2.quad q).bslot i).holder ≠ some (e.ctx, e.recIx)) →
        exec (.mrel a) s = .next ((y.setQuad q { y.quad q with releases := [] }).completeParty (.slot core e.slot) none
          Thread.retire)) ∧
    (bits w 12 52 = 0 → AtNoria s1 [a] 63 (.release ts ss) e s2 →
      let l : LoadStep := ⟨core, e⟩
      let y := s2.setQuad q { s2.quad q with releases := [l] }
      (y.release' core e.ctx e.recIx ts ss = some s3 → exec (.mrel a) s =
        .next ((s3.setQuad q { s3.quad q with releases := (s3.quad q).releases.erase l }).completeParty (.slot core e.slot) none
          Thread.retire)) ∧
      (y.release' core e.ctx e.recIx ts ss = none → exec (.mrel a) s = .next y))

/-- R284, R286, R288, R305 to R307: MLDB reads a checked slot's sources and queues the load with its window open, every element
and pair read as the instruction issues: R284 leaves the moment of the reads open, and this one is the model's choice (log 25).
MMAC queues a row step, takes its token and leaves the slot OUT; MRUN takes one row record a step, its pointer, count and shape
word moving on, those of bound names kept beside them (log 11, the model's reading). -/
def Sys2Proof.Claims.NoriaSteps : Prop :=
  (∀ (a : VReg) (l : Look) (s s1 s2 s3 s4 : State) (pss : List (List Piece)) (es xs : List (List Byte)) (p1 p2 : Option Nat),
    NReady s { vreads := [a] } s1 →
    let d := BDesc.ofNat (s1.thr.vreg a).data.toNat
    let m := d.elemRuns.length
    d.fault = none → ((s1.quad s1.myQuad).bslot d.slot).holder = some (s1.thr.ctx, s1.thr.recIx) →
    s1.runPieces (d.elemRuns ++ d.pairRuns) = (.ok pss, s2) →
    s2.readRuns (decide (d.mode = 2)) (pss.take m) = (es, p1, s3) → s3.readRuns false (pss.drop m) = (xs, p2, s4) →
    exec (.mldb a l) s = .next ((s4.nqPush (.load (s1.thr.vreg a).data (d.codes es) (d.exps xs)
      (if p1.isSome then p1 else p2))).2.openWindow l.val Pending.none (.slotLoaded s1.myQuad d.slot)).retire) ∧
  (∀ (k : Tok) (a : VReg) (b : Name) (l : Look) (s s1 : State), NReady s { reads := ints [b], vreads := [a] } s1 →
    (s1.core s1.cur.1).vq.length < 4 → s1.rowTagFail (shapeSlot (s1.ext b)) (s1.thr.vreg a).tag = none →
    s1.shapeFail (s1.ext b) = none → s1.thr.tok k.val ≠ 1 → s1.thr.tok k.val ≠ 2 →
    ∃ t, exec (.mmac k a b l) s = .next t ∧ t.thr.out = true ∧ t.thr.tok k.val = 1 ∧
      (t.core s1.cur.1).nq = (s1.core s1.cur.1).nq ++
        [⟨s1.serial, s1.cur.2, s1.thr.ctx, s1.thr.recIx, .row (s1.thr.vreg a) (s1.ext b) k.val false⟩] ∧
      (t.core s1.cur.1).vq = (s1.core s1.cur.1).vq ++ [.handoff s1.cur.2 s1.serial]) ∧
  (∀ (d a b : Name) (s s1 s2 : State), mrunNames d a b = none →
    let u : Use := { reads := [(d, .u64), (a, .int), (b, .u64)], writes := [(d, .any), (a, .any), (b, .any)] }
    NReady s u s1 → 0 < s1.val a → s1.mrunStep (s1.upat d) (s1.upat b) = .ok s2 →
    let left := BitVec.ofNat 64 (lowBits (s1.thr.name a).width (s1.val a - 1))
    let s3 := s2.stepNames [(d, s1.pat d + 72), (a, left), (b, s1.pat b + 2 ^ 11)]
    (s1.val a = 1 → exec (.mrun d a b) s = s3.endSteps u.names [d, a, b]) ∧
    (s1.val a = 1 → Free s3 u → exec (.mrun d a b) s = .next s3.retire) ∧
    (s1.val a ≠ 1 → exec (.mrun d a b) s = .next (s3.modThr Thread.unissue)))

/-- R289, R292 to R295, R308 to R310, R312: MDRN queues the drain of its rows to the core's handler; MHND and MCHK enter the
noria's queue. Taken, MHND with 0 lets the thread's registration go, and with a count makes one of free slots and records of
the pool, reserved for it, with Z; MCHK, no row step before it, sets a tile's CHK and reads the mismatch count. RDONE of a
handler clears its row, once. A noria whose queues are empty takes an entry at once (log 102). -/
def Sys2Proof.Claims.NoriaHandlers : Prop :=
  ∀ (d a b : Name) (l : Look) (s s1 s2 s3 : State) (e : NqEntry) (pc maph : Word),
    let core := s1.cur.1
    let q := s1.myQuad
    (NReady s { reads := ints [a, b] } s1 →
      let w := s1.ext a
      bits w 15 49 = 0 → bits w 8 7 ≠ 0 → bits w 2 6 + bits w 8 7 ≤ 64 →
      ((s1.quad s1.myQuad).tile (bits w 0 2)).holder = some (s1.thr.ctx, s1.thr.recIx) →
      (s1.core s1.cur.1).handler.isSome = true →
      let x := (s1.release s1.cur.1 .core).nqPush (.drain (bits w 0 2) (bits w 2 6) (bits w 8 7) (BitVec.ofNat 64 (s1.ext b)))
      exec (.mdrn a b l) s = .next ((x.2.consume [a, b]).openWindow l.val Pending.none (.drained x.1)).retire) ∧
    (NReady s (use2 d a) s1 →
      let w := s1.ext a
      let tile := bits w 0 2
      let op : NoriaOp := .check tile (bit1 w 2)
      let n := min (s2.quad q).mismatches (2 ^ 32 - 1)
      bits w 3 61 = 0 → ((s1.quad q).tile tile).holder = some (s1.thr.ctx, s1.thr.recIx) →
      (s1.statusInWindow d l = false → AtNoria s1 [a] d op e s2 → (s2.quad q).rowsIn = [] →
        let s4 := s2.setQuad q ((s2.quad q).modTile tile (fun t => { t with chk := bit1 w 2 }))
        (s4.partyThread (.slot core e.slot)).wait = some (.noria e.id d) →
        exec (.mchk d a l) s = .next ((s4.pushReceived (.slot core e.slot) d (fun _ => n)).completeParty (.slot core e.slot) none
          (Thread.receive d n true))) ∧
      (s1.statusInWindow d l = true → s1.queued q ≠ [] → exec (.mchk d a l) s =
        .next ((((s1.nqPush op).2.consume [a]).openWindow l.val (awaited d) (.count s1.serial d)).retire))) ∧
    (NReady s { reads := ints [a, b] } s1 →
      ((s1.val a < 0 ∨ 15 < s1.val a) → exec (.mhnd a b) s = .next (After s1 [a, b] (putZ false))) ∧
      (s1.val a = 0 → AtNoria s1 [a, b] 63 (.register 0 0 0 0) e s2 →
        (s2.holdsHandler core e.ctx e.recIx = false → exec (.mhnd a b) s = .next (goOnZ s2 e.slot true)) ∧
        (s2.holdsHandler core e.ctx e.recIx = true → s2.handlersBusy core = false →
          exec (.mhnd a b) s = .next (goOnZ (s2.unregister core) e.slot true)) ∧
        (s2.holdsHandler core e.ctx e.recIx = true → s2.handlersBusy core = true →
          exec (.mhnd a b) s = .next (goOnZ s2 e.slot false))) ∧
      (0 < s1.val a → s1.val a ≤ 15 → s1.readEntry (s1.ext b) = (.ok (pc, maph), s3) → s3.cur = s1.cur →
        let n := (s1.val a).toNat
        let handle := BitVec.ofNat 64 (s1.ext b)
        AtNoria s3 [a, b] 63 (.register n handle pc maph) e s2 →
        ((s2.core core).handler = none → n ≤ (s2.freeSlots core).length → s2.poolFits e.ctx n = true →
          s2.chargeFits e.ctx 64 = true → exec (.mhnd a b) s =
            .next (goOnZ (s2.registerHandler core (s2.partyThread (.slot core e.slot)) n handle pc maph) e.slot true)) ∧
        ((s2.core core).handler ≠ none ∨ (s2.freeSlots core).length < n ∨ s2.poolFits e.ctx n = false ∨
          s2.chargeFits e.ctx 64 = false → exec (.mhnd a b) s = .next (goOnZ s2 e.slot false)))) ∧
    (∀ h, s.thr.handler = some h → h.done = false → exec .rdone s =
      .next ((s.rowDone s.cur.1 h).modThr (fun t => { t with handler := some { h with done := true } })).retire) ∧
    (∀ h, s.thr.handler = some h → h.done = true → exec .rdone s = .next s.retire) ∧
    (s.thr.handler = none → exec .rdone s = .next s.retire)

/-! ## Contexts, the error ring, time -/

/-- The context commands (R339): the command and whether it waits for the drain. -/
def Sys2Proof.Claims.commandRow : Instr → Option (CtxCmd × Name × Name × Bool)
  | .ctxsv d a => some (.ctxsv, d, a, false)
  | .ctxld d a => some (.ctxld, d, a, false)
  | .preempt d a w => some (.preempt, d, a, w)
  | _ => none

/-- R331, R338 to R344: COMMIT sets CMT of a restartable thread; a context command releases at host scope, is carried out,
and its destination receives the status with Z for 0; an accepted PREEMPT that waits parks until the drain has ended;
UNFREEZE answers by a status too. -/
def Sys2Proof.Claims.ContextResult : Prop :=
  (∀ (s s1 : State), s.quieted = some s1 → exec .commit s =
    .next (s1.modThr (fun t => if t.rsl && !t.cmt then { t with cmt := true } else t)).retire) ∧
  (∀ (i : Instr) (c : CtxCmd) (d a : Name) (wait : Bool) (s s1 s2 : State) (x : Nat) (r : Narrowed),
    commandRow i = some (c, d, a, wait) → Ready s { sys := true, reads := ints [a], writes := ints [d] } s1 →
    let s0 := s1.release s1.cur.1 .host
    s0.command c (some s0.thr.ctx) (s0.val a) = (x, s2) →
    ((wait = false ∨ x ≠ 0) → s2.thr.narrow d x = some r →
      exec i s = .next (After s2 [a] (put1 d r.pat { r.flags with z := some (decide (x = 0)) }))) ∧
    (wait = true → x = 0 → exec i s = .next (s2.park [a] (.drain (s1.val a).toNat d)))) ∧
  (∀ (d a : Name) (act : Fin 3) (s s1 s2 : State) (x : Nat) (r : Narrowed),
    Ready s { sys := true, reads := ints [a], writes := ints [d] } s1 → s1.unfreeze (s1.ext a) act.val = (some x, s2) →
    s2.thr.narrow d x = some r →
    exec (.unfreeze d a act) s = .next (After s2 [a] (put1 d r.pat { r.flags with z := some (decide (x = 0)) })))

/-- R345, R346, R349: ERRPOP takes the record at the head of the ring into a vector register when the thread may have it, its
destination receiving how many there were; DTSET sets, steps or trims a timebase that follows nobody and receives the old
one; SPILL of a slot that it refuses receives 1. -/
def Sys2Proof.Claims.SystemResult : Prop :=
  ∀ (d a : Name) (b : VReg) (md : Fin 3) (s s1 s2 : State) (r : Narrowed) (x : Nat),
    (Ready s { writes := ints [d], vwrites := [b] } s1 →
      let n := (s1.dev.errTail - s1.dev.errHead).toNat
      (n = 0 → s1.thr.narrow d (0 : Nat) = some r →
        exec (.errpop d b) s = .next (After s1 [] (put1 d r.pat { r.flags with z := some false }))) ∧
      (n ≠ 0 → s1.headRecord = (x, s2) → (s2.thr.privl.priv = true ∨ bits x 16 12 = s2.thr.ctx) →
        let s3 := (s2.modThr (fun t => t.setVreg b ⟨BitVec.ofNat 512 x, 0, .raw⟩)).modDev
          (fun d => { d with errHead := d.errHead + 1 })
        s3.thr.narrow d n = some r →
        exec (.errpop d b) s = .next (After s3 [] (put1 d r.pat { r.flags with z := some true })))) ∧
    (Ready s { sys := true, reads := ints [a], writes := ints [d] } s1 →
      (∀ dev, s1.dev.timeSet md.val (s1.val a) = some dev → s1.thr.narrow d s1.dev.timebase.toNat = some r →
        exec (.dtset d a md) s = .next (After { s1 with dev := dev } [a] (put1 d r.pat { r.flags with z := some true }))) ∧
      (s1.dev.timeSet md.val (s1.val a) = none → s1.thr.narrow d s1.dev.timebase.toNat = some r →
        exec (.dtset d a md) s = .next (After s1 [a] (put1 d r.pat { r.flags with z := some false })))) ∧
    (Ready s { sys := true, reads := ints [a], writes := ints [d] } s1 →
      (s1.spillRefused (s1.val a) = true → s1.thr.narrow d 1 = some r →
        exec (.spill d a) s = .next (After s1 [a] (put1 d r.pat { r.flags with z := some false }))) ∧
      (∀ t, s1.spillRefused (s1.val a) = false → s1.threadAt s1.cur.1 (s1.val a).toNat = some t → t.placing = false →
        t.quiet = true → t.wait.any Wait.answer = false → (s1.spillThread s1.cur.1 (s1.val a).toNat t).thr.narrow d 0 = some r →
        exec (.spill d a) s = .next (After (s1.spillThread s1.cur.1 (s1.val a).toNat t) [a]
          (put1 d r.pat { r.flags with z := some true }))))

/-- R369 to R373: RINV sends one packet after a release and waits for its status, with no lookahead in its slot, with lookahead
in a window that the answer fills; to a device that cannot be reached its status is 3 at once, for a descriptor with bits 26
and up set it is 2; RINVW the same, with the limit in the second name after its base, its operands consumed only when it
completes. RSTAT and TBR read a counter and the timebase; WAITT goes on once the timebase has reached its target, else
parks. -/
def Sys2Proof.Claims.RemoteAndTime : Prop :=
  ∀ (d a : Name) (b : VReg) (l : Look) (item : Fin 8) (s s1 s2 : State) (r : Narrowed) (x : Int),
    let look (y : State) : Nat := if (y.thr.name d).mode = .trap then 0 else l.val
    let n1 := nextName a
    let n2 := nextName (nextName a)
    (a.val ≤ 61 → Ready s (rinvUse d a b []) s1 →
      (bits (s1.ext a) 26 38 ≠ 0 → s1.thr.narrow d 2 = some r →
        exec (.rinv d a b l) s = .next (AfterLong s1 (look s1) [a, n1] (put1 d r.pat r.flags))) ∧
      (bits (s1.ext a) 26 38 = 0 →
        let p := s1.offtakePacket a b
        let s3 := s1.releaseOfftake p
        (s3.dev.unreachable (packetDev p) = true → s3.thr.narrow d 3 = some r →
          exec (.rinv d a b l) s = .next (AfterLong s3 (look s3) [a, n1] (put1 d r.pat r.flags))) ∧
        (s3.dev.unreachable (packetDev p) = false → s3.statusInWindow d l = false → ∃ t, exec (.rinv d a b l) s = .next t ∧
          t.offtakes = s3.offtakes ++ [⟨s3.serial, s3.me, packetDev p, p⟩] ∧ t.thr.wait = some (.offtake s3.serial d)) ∧
        (s3.dev.unreachable (packetDev p) = false → s3.statusInWindow d l = true →
          let s4 : State := { s3 with serial := s3.serial + 1, offtakes := s3.offtakes ++ [⟨s3.serial, s3.me, packetDev p, p⟩] }
          exec (.rinv d a b l) s =
            .next ((s4.consume [a, n1]).openWindow l.val (awaited d) (.offtake s3.serial d)).retire))) ∧
    (a.val ≤ 60 → Ready s (rinvUse d a b [n2]) s1 →
      (bits (s1.ext a) 26 38 ≠ 0 → s1.thr.narrow d 2 = some r →
        exec (.rinvw d a b) s = .next (After s1 [a, n1, n2] (put1 d r.pat r.flags))) ∧
      (bits (s1.ext a) 26 38 = 0 →
        let p := s1.offtakePacket a b
        let s3 := s1.releaseOfftake p
        (s3.dev.unreachable (packetDev p) = true → s3.thr.narrow d 3 = some r →
          exec (.rinvw d a b) s = .next (After s3 [a, n1, n2] (put1 d r.pat r.flags))) ∧
        (s3.dev.unreachable (packetDev p) = false → ∃ t, exec (.rinvw d a b) s = .next t ∧
          t.offtakes = s3.offtakes ++ [⟨s3.serial, s3.me, packetDev p, p⟩] ∧ t.thr.wait = some (.offtake s3.serial d) ∧
          t.thr.retry = some ⟨1, decide (s3.val n2 ≤ 0), p⟩ ∧ t.thr.reads = [a, n1, n2].eraseDups))) ∧
    (Ready s { reads := ints (if item.val = 6 then [a] else []), writes := ints [d] } s1 → s1.rstat a item.val = (x, s2) →
      s2.thr.narrow d x = some r → exec (.rstat d a item l) s =
        .next (AfterLong s2 (look s2) (if item.val = 6 then [a] else []) (put1 d r.pat r.flags))) ∧
    (Ready s { writes := ints [d] } s1 → s1.thr.narrow d s1.dev.timebase.toNat = some r →
      exec (.tbr d l) s = .next (AfterLong s1 (look s1) [] (put1 d r.pat r.flags))) ∧
    (Ready s (use2 d a) s1 →
      (s1.ext a ≤ s1.dev.timebase.toNat → s1.thr.narrow d s1.dev.timebase.toNat = some r →
        exec (.waitt d a) s = .next (After s1 [a] (put1 d r.pat r.flags))) ∧
      (s1.dev.timebase.toNat < s1.ext a → exec (.waitt d a) s = .next (s1.park [a] (.time (s1.ext a) d))))

/-- R87, R333: a word of major 0x3E or 0x3F is ILLEGAL_INSTRUCTION where firmware has installed no expansion of its major on the
die. An installed one runs as one instruction, beginning afresh where none is under way: a step gathers an effect, and the word
stands for its next step; the last step stores and writes everything that was gathered and goes on, or to where it sends the
thread; a step that faults takes a trap from which the thread reports the expansion and its step. What a step does is firmware's: free
values (log 52). -/
def Sys2Proof.Claims.ExpansionResult : Prop :=
  ∀ (m : Bool) (x : Nat) (s : State),
    (s.expansionOn m = false → exec (.firmwareExpansion m x) s = .next (s.takeTrap (mkTrap .illegalInstruction 0 0 0))) ∧
    (s.expansionOn m = true →
      let e := s.thr.exp.getD ⟨0, Pending.none, []⟩
      ∀ (k j : Nat) (s1 s2 s3 s4 : State) (ls : List (List Piece × List Byte)) (f : Fail) (pc a x0 : Word) (e1 : Expansion),
        (s.modThr (fun t => { t with exp := some e })).choose 6 = (k, s1) →
        (k = 0 → s1.storesAt e.stores = (.ok ls, s2) →
          (State.apply (ls.foldl (fun s p => s.storePieces s.cur.1 p.1 p.2) s2) e.result).choose 2 = (j, s3) →
          ((j ≠ 1 ∨ s3.thr.rep.isSome = true) → exec (.firmwareExpansion m x) s = .next s3.retire) ∧
          (j = 1 → s3.thr.rep = none → s3.freeWord = (pc, s4) →
            exec (.firmwareExpansion m x) s = .next (s4.modThr (fun t => t.jumpTo (evenPc pc))))) ∧
        (k = 0 → s1.storesAt e.stores = (.error f, s2) → exec (.firmwareExpansion m x) s = .next (s2.takeTrap f.trap)) ∧
        (k = 1 → s1.choose 20 = (j, s2) → s2.freeWord = (a, s3) → s3.freeWord = (x0, s4) →
          exec (.firmwareExpansion m x) s = .next (s4.freeWord.2.takeTrap ⟨causeOf j, a, x0, s4.freeWord.1, false, false⟩)) ∧
        (2 ≤ k → s1.gatherEffect e (k - 2) = (e1, s2) → exec (.firmwareExpansion m x) s =
          .next ((s2.modThr (fun t => { t with exp := some { e1 with step := e1.step + 1 } })).modThr Thread.unissue)))

/-! ## The engines' own steps -/

/-- R17, R45, R46, R139, R141, R143, R160, R231, R316, R360, R370, R373: what the engines do to threads. A window that awaits no
answer completes; the oldest operation of a repack queue is done, a placement or a spill; a core takes the record whose turn it
is; the spill of the thread that parked earliest is queued (a thread with a window that awaits an answer is spilled later, log
91); a thread at its runnels, all of whose entries and all of whose room are there, is parked no longer (R160, log 53); a held
error is taken as a trap, a parked thread withdrawn first; a wait for time, for a status, for an offtake's retry or at a flume
ends. -/
def Obligations.ThreadEvents : Prop :=
  ∀ (c i k : Nat) (s : State) (t : Thread), s.threadAt c i = some t →
    let who : Party := .slot c i
    (∀ e, t.inflight[k]? = some e → e.awaits = .nothing →
      exec (.longLatencyCompletion c i k) s = .next ((s.landOne t e).1.putThread c i (s.landOne t e).2)) ∧
    ((s.core c).repackq = [] → exec (.repackOperation c) s = .next s) ∧
    (∀ op rest, (s.core c).repackq = op :: rest →
      let s1 := s.setCore c { s.core c with repackq := rest }
      (∀ j, op = .place j → exec (.repackOperation c) s = .next (s1.placeSpan c j [])) ∧
      (∀ j ctx r u, op = .spill j ctx r → s.threadAt c j = some u →
        ((u.ctx = ctx ∧ u.recIx = r ∧ s.spillable c u = true ∧ u.quiet = true) →
          exec (.repackOperation c) s = .next (s1.spillSlot c j .die)) ∧
        (¬(u.ctx = ctx ∧ u.recIx = r ∧ s.spillable c u = true ∧ u.quiet = true) →
          exec (.repackOperation c) s = .next s1))) ∧
    (∀ x own r j, s.dev.isCore c = true → s.nextTake c = some (x, own, r, j) →
      (own = true ∨ s.dieTaker x (s.dev.dieOf c) = some c) →
      exec (.recordPlacement c) s = .next (s.takeReady c j x own r)) ∧
    (∀ j u, s.readyWaits c = true → s.freeSlotOf c = none → s.earliestParked c = some (j, u) → u.quiet = true →
      RepackOp.spill j u.ctx u.recIx ∉ (s.core c).repackq → exec (.parkedThreadSpill c) s =
        .next (s.setCore c { s.core c with repackq := (s.core c).repackq ++ [.spill j u.ctx u.recIx] })) ∧
    (∀ rs ws, t.wait = some (.runnel rs ws) →
      let v := (s.seenFrom c i t).clearForeign rs
      let s1 : State := { v with cur := s.cur, thr := s.thr }
      (v.runnelsReady rs ws = true →
        exec (.runnelTransfer c i) s = .next ((s1.putThread c i { t with wait := none }).unparkOrder c i)) ∧
      (v.runnelsReady rs ws = false → exec (.runnelTransfer c i) s = .next s1)) ∧
    (∀ x, t.asyncErr = some x → t.deliverable = true → s.ctxRuns t.ctx = true →
      let w := if t.wait.isSome then s.withdrawSlot c i t else (s, t)
      let p := ((w.1.landSlotStores c i).vectorDone c i).landAll { w.2 with asyncErr := none }
      let q := p.1.trapEntry c i p.2 (p.2.held { x with fetch := true })
      exec (.asyncErrorDelivery c i) s = .next (q.1.putThread c i q.2)) ∧
    (∀ target d, t.wait = some (.time target d) → target ≤ s.dev.timebase.toNat →
      exec (.waittWake c i) s = .next ((s.pushReceived who d (fun _ => s.dev.timebase.toNat)).completeParty who none
        (Thread.receive d s.dev.timebase.toNat false))) ∧
    (∀ d r, t.wait = some (.retry d) → t.retry = some r →
      exec (.rinvwRetry c i true) s =
        .next (s.wakeParty who none (fun t => { t with retry := none, pendTrap := some (rinvwExpired r) })) ∧
      (s.dev.unreachable (packetDev r.packet) = false →
        let s1 : State := { s with serial := s.serial + 1, offtakes := s.offtakes ++ [⟨s.serial, who, packetDev r.packet, r.packet⟩] }
        exec (.rinvwRetry c i false) s = .next (s1.modThread c i (fun t =>
          { t with wait := some (.offtake s.serial d), retry := some { r with attempts := r.attempts + 1 } })))) ∧
    exec (.offtakeStatusTimeout k) s = .next (s.answerOfftake k 3) ∧
    (∀ o d, s.offtakes.find? (fun o => decide (o.id = k)) = some o → o.who = who → t.wait = some (.offtake k d) →
      t.retry = none →
      let s1 : State := { s with offtakes := s.offtakes.filter (fun o => decide (o.id ≠ k)) }
      exec (.offtakeStatusTimeout k) s =
        .next ((s1.pushReceived who d (fun _ => 3)).completeParty who none (Thread.receive d 3 true))) ∧
    (∀ fcb w s1 x, (s.flumeWaits.filter (fun w => decide (w.fcb = fcb) && w.limited))[k]? = some w →
      s.flumeWithdraw w = (x, s1) →
      (∀ h tl, x = some (h, tl) → exec (.flumeWaitExpiry fcb k) s =
        .next (s1.wakeParty w.who none (Thread.trapLater (mkTrap .waitExpired w.va.toNat h tl)))) ∧
      (x = none → exec (.flumeWaitExpiry fcb k) s = .next s1))

/-- R196, R200, R205, R225, R228, R230, R317, R323, R355, R356, R385: lines and sectors are evicted, a waiting reservation is
admitted, another device's enqueue and dequeue that its port's window takes reach a control block, each done, or left waiting
in its form, or withdrawn from that wait (R328; that such a withdrawal is a request of its own is the model's choice, log 114),
and one that no window takes freezes the port; an invalidate command starts and ends. -/
def Obligations.MemoryEvents : Prop :=
  ∀ (s s1 s2 : State) (c line die block fcb ctx va p : Nat) (h : ResHome) (req : FlumeReq) (f : Fcb) (o : FlumeOut),
    exec (.l1Eviction c line) s = .next (s.evictLine c line) ∧
    (∀ x, s.mem.sector die block = some x → x.badWords = [] → exec (.l2SectorEviction die block) s =
      .next ((s.cleanSector x 0).modMem (fun m =>
        { m with l2 := m.l2.filter (fun y => decide (¬(y.die = die ∧ y.block = block))) }))) ∧
    exec (.reservationAdmission h) s = .next (s.admitNext h) ∧
    (req.port = some p → s.dev.portUp p = true → s.dev.fabnum ≠ 4095 → s.frozenMaster (.aqueduct p) = none →
      s.dev.portTakes p fcb 64 req.rctx true = true →
      (sizeCode req.elem.length = some req.size → s.localFcb fcb = true → req.form ≠ .withdraw →
        s.fcbOpen outsideDie fcb req.rctx (some req.size) = (.ok f, s1) → s1.flumeEnq outsideDie fcb f req.elem = (o, s2) →
        ((o ≠ .wait ∨ req.form = .nowait) → exec (.flumeEnqueueOperation fcb req) s = .next s2) ∧
        (o = .wait → req.form ≠ .nowait →
          exec (.flumeEnqueueOperation fcb req) s = .next (s2.flumeWait f (flumeWaiter req f fcb true)))) ∧
      (s.localFcb fcb = true → req.form ≠ .withdraw → s.fcbOpen outsideDie fcb req.rctx (some req.size) = (.ok f, s1) →
        s1.flumeDeq outsideDie fcb f = (o, s2) →
        ((o ≠ .wait ∨ req.form = .nowait) → exec (.flumeDequeueOperation fcb req) s = .next s2) ∧
        (o = .wait → req.form ≠ .nowait →
          exec (.flumeDequeueOperation fcb req) s = .next (s2.flumeWait f (flumeWaiter req f fcb false)))) ∧
      (∀ enq w, s.localFcb fcb = true → req.form = .withdraw → s.flumeWaits.find? (fun w =>
          decide (w.fcb = fcb ∧ w.enq = enq ∧ w.who = .remote req.who ∧ w.rctx = req.rctx)) = some w →
        exec (if enq then .flumeEnqueueOperation fcb req else .flumeDequeueOperation fcb req) s =
          .next (s.flumeWithdraw w).2)) ∧
    (req.port = some p → s.dev.portUp p = true → s.dev.fabnum ≠ 4095 → s.frozenMaster (.aqueduct p) = none →
      s.dev.portTakes p fcb 64 req.rctx true = false →
      exec (.flumeEnqueueOperation fcb req) s =
        .next (s.freezeMaster (.aqueduct p) (portMaster p) (.flume fcb true req) req.rctx fcb 5 0) ∧
      exec (.flumeDequeueOperation fcb req) s =
        .next (s.freezeMaster (.aqueduct p) (portMaster p) (.flume fcb false req) req.rctx fcb 5 0)) ∧
    (s.dev.tlbBusy = false →
      exec .tlbinvAll s = .next (s.modDev (fun d =>
        { d with tlbBusy := true, tlbCmd := BitVec.ofNat 64 0, tlbPage := d.reg 0x28 })) ∧
      exec (.tlbinvContext ctx) s = .next (s.modDev (fun d =>
        { d with tlbBusy := true, tlbCmd := BitVec.ofNat 64 (1 + ctx % 4096 * 65536), tlbPage := d.reg 0x28 })) ∧
      ∃ t, exec (.tlbinvPage ctx va) s = .next t ∧ t.dev.tlbBusy = true ∧ t.mem = s.mem ∧
        t.dev.tlbCmd = BitVec.ofNat 64 (2 + ctx % 4096 * 65536) ∧ t.dev.tlbPage = pageBits va) ∧
    (s.dev.tlbBusy = true → ∃ t, exec .tlbinvComplete s = .next t ∧ t.dev.tlbBusy = false ∧
      t.mem.tlb = s.mem.tlb.filter (fun e => !s.dev.invalidates e) ∧ t.mem.hbm = s.mem.hbm)

/-- R258, R261 to R268, R323, R363 to R365: the headworks engines take packets off registered flumes, a base die's in turn, hold
them until their time, carry them out or fail them, apply held updates in their order, raise the SRC and VIS events; a packet
that a frozen headworks core runs stays as it is. A collective whose packets stand, agree and have their routes is carried out
once every rank is there: the inputs of the ranks held here are read, combined with those of the others in the tree, and
written; a malformed packet fails by itself; a collective times out. -/
def Obligations.CopyEvents : Prop :=
  (∀ (id base entry tag : Nat) (s : State) (p : Packet), s.livePacket id = some p →
    (∀ fcb coll, entry < 256 → base ∈ s.dev.stacksUp → s.nextEntry base = some entry → s.cftEntry base entry = some (fcb, coll) →
      let s1 := s.dequeuePacket base entry fcb coll
      exec (.copyPacketDequeue base entry) s = .next { s1 with copyPtr := setK base ((entry + 1) % 256) s1.copyPtr }) ∧
    (p.phase = .held → s.dev.nbReached (PktEnd.ofNat p.data.toNat).nb = true →
      exec (.copyPacketNotBefore id) s = .next (s.setPacket { p with phase := .dequeued })) ∧
    (p.phase = .dequeued → p.collective = false →
      (∀ e, (CopyPkt.ofNat p.data.toNat).fault = some e →
        exec (.copyPacketExecute id) s = .next (s.setPacket { p with phase := .executed, err := e })) ∧
      ((CopyPkt.ofNat p.data.toNat).fault = none →
        exec (.copyPacketExecute id) s = .next (if s.dev.nbReached (PktEnd.ofNat p.data.toNat).nb
          then s.runPacket p (CopyPkt.ofNat p.data.toNat) else s.setPacket { p with phase := .held }))) ∧
    (∀ u e s1,
      let op := (CopyPkt.ofNat p.data.toNat).op
      p.updates.find? (fun u => !s.seqBlocked p.fcb p.pos p.ctx op u.addr.toNat u.bytes.length) = some u →
      s.copyUpdate (headworksMaster p.core) p.ctx op u.addr.toNat u.bytes = (e, s1) →
      (e = 0 → exec (.heldSeqUpdate id) s = .next (s1.setPacket { p with updates := p.updates.erase u })) ∧
      (e ≠ 0 → exec (.heldSeqUpdate id) s =
        .next (s1.setPacket { p with updates := [], err := if p.err = 0 then e else p.err }))) ∧
    (p.phase = .executed → exec (.srcEvent id) s = .next ((s.setPacket { p with phase := .srcDone }).tokenEvent p 1 2)) ∧
    (p.phase = .srcDone → p.updates = [] → exec (.visEvent id) s = .next (s.finishPacket p)) ∧
    exec (.collectiveTimeout tag) s = .next (s.collFail (s.collPackets tag) 1) ∧
    (s.collPackets tag = [p] → p.collective = true → ∀ e, (CollPkt.ofNat p.data.toNat).fault = some e →
      exec (.collectiveExecute tag []) s = .next (s.setPacket { p with phase := .executed, err := e }))) ∧
  (∀ (tag : Nat) (s s1 s2 : State) (p : Packet) (rest : List Packet) (remote : List RemoteRank) (rtab : List Nat)
      (ins : List (Packet × Except Nat (List Nat))),
    let ps := p :: rest
    let c := CollPkt.ofNat p.data.toNat
    let ranks := ps.map (fun q => (CollPkt.ofNat q.data.toNat).rank)
    s.collPackets tag = ps →
    (∀ q ∈ ps, (CollPkt.ofNat q.data.toNat).fault = none ∧ s.dev.nbReached (PktEnd.ofNat q.data.toNat).nb = true ∧
      c.agrees (CollPkt.ofNat q.data.toNat) = true) →
    (∀ r ∈ remote, r.agrees = true) → s.collTables ps = (ps.map (fun _ => .ok rtab), s1) →
    (∀ n ∈ rtab, n = s1.dev.fabnum ∨ (s1.dev.route n).isSome = true) →
    s1.collFormed rtab ranks (remote.map (fun r => r.rank)) = true →
    s1.collInputs ps = (ins, s2) → (∀ x ∈ ins, ∃ l, x.2 = .ok l) →
    exec (.collectiveExecute tag remote) s = .next (s2.collFinish c (collResult c (collInput c ins remote)) ps))

/-- R153 to R156, R280, R283, R287, R289 to R293, R295: the noria ends the releases that it has taken where it can, then takes the
first head that can start; it writes the oldest row step, which then holds the A row buffer no longer, fills a slot, drains a
row. A drained row's handler is dispatched to the first of the registration's slots that is free, with the lowest of its
records that no handler uses: R293 says a RESERVED slot alone, which one is the model's choice (log 55). Only a row of the
registration's context is dispatched (log 113). The vector unit serves
its queues in rotation. -/
def Obligations.NoriaEvents : Prop :=
  ∀ (q k : Nat) (s : State),
    exec (.noriaTake q) s = .next (s.noriaTurn q) ∧
    ((s.quad q).releases = [] → exec (.noriaTake q) s = .next (s.noriaTake q (rotation (s.quad q).lastNoria))) ∧
    exec (.vectorUnitTake q) s = .next (s.vectorTake q (rotation (s.quad q).lastVec)) ∧
    (∀ r rest, (s.quad q).rowsIn = r :: rest →
      let buf := if (s.quad q).abuf = some r.entry.id then none else (s.quad q).abuf
      exec (.rowWritten q) s = .next (((s.setQuad q { s.quad q with rowsIn := rest, abuf := buf }).writeRow q r.core r.entry
        r.slot).endChecks q rest.length)) ∧
    (∀ l rest, (s.quad q).loads = l :: rest → (∃ d, l.entry.op.loadDesc = some d ∧ d.slot = k) →
      exec (.slotLoaded q k) s = .next ((s.setQuad q { s.quad q with loads := rest }).finishLoad q l)) ∧
    (∀ d tile first count cookie, (s.quad q).drains[k]? = some d → d.entry.op = .drain tile first count cookie →
      (s.quad q).rowInFlight tile (first + d.next) = false → ((s.quad q).tile tile).draining (first + d.next) = false →
      drainsReach ((s.quad q).drains.take k) tile (first + d.next) = false →
      let r := ((s.quad q).tile tile).row (first + d.next)
      let out : DrainedRow := ⟨d.core, d.entry.ctx, d.entry.recIx, tile, first + d.next, r.status, r.vals, cookie⟩
      let left := if count ≤ d.next + 1 then (s.quad q).drains.eraseIdx k
        else (s.quad q).drains.set k { d with next := d.next + 1 }
      let s1 := s.setQuad q ({ s.quad q with drains := left, drained := (s.quad q).drained ++ [out] }.modTile tile
        (fun t => t.setRow { r with draining := true }))
      exec (.rowDrain q k) s = .next (if count ≤ d.next + 1 then s1.answer d.entry.ctx d.entry.recIx (.drained d.entry.id)
        else s1)) ∧
    (∀ r h i j, (s.core q).handler = some h →
      (s.quad (q / 4)).drained.find? (fun r => decide (r.core = q ∧ r.ctx = h.ctx)) = some r →
      s.ctxOn h.ctx q = true → h.slots.find? (fun i => decide (((s.core q).slot i).occ = .free)) = some i →
      s.idleRecord h = some j →
      exec (.handlerDispatch q) s = .next ((s.setQuad (q / 4)
        { s.quad (q / 4) with drained := (s.quad (q / 4)).drained.erase r }).startHandler q i j h r))

/-- R276, R278, R335: a decrement reaches its record, a timed record fires once its time has come, a die's scheduler takes the
head of its pending launches when the records it needs are free, a standby core takes over. -/
def Sys2Proof.Claims.LaunchEvents : Prop :=
  ∀ (k die ctx j : Nat) (s : State),
    (∀ d, s.decrements[k]? = some d → s.dev.recordDie d.j ∉ s.dev.deadSched → exec (.launchDecrement k) s =
      .next (({ s with decrements := s.decrements.eraseIdx k }).decrementAll d.ctx decrementBound
        [⟨d.j, ⟨d.basin.toNat, d.sys, d.master⟩⟩])) ∧
    (s.launchState ctx j = 2 → s.launchWord ctx j 0x28 ≤ s.dev.timebase.toNat → j < 16384 → (s.ctxOf ctx).isSome = true →
      s.dev.recordDie j ∉ s.dev.deadSched →
      exec (.nbtReached ctx j) s = .next (State.settleLaunch (s.launchMoment ctx j) ctx)) ∧
    (∀ p, die ∉ s.dev.deadSched → s.launchHead die = some p → s.poolFits p.ctx (s.launchSize p.ctx p.j) = true →
      exec (.launchTake die) s = .next (s.takeLaunch p)) ∧
    (die ∈ s.dev.diesUp → die ∉ s.dev.takenOver → exec (.schedulerTakeOver die) s =
      .next (((s.choose (2 ^ 64)).2.modDev (fun d => { d with takenOver := insertN die d.takenOver })).errRecord
        { kind := 0x09, master := s.dev.schedMaster die, x0 := die, x1 := (s.choose (2 ^ 64)).1 })) ∧
    (die ∈ s.dev.takenOver → exec (.standbySchedulerFailure die) s =
      .next (s.modDev (fun d => { d with deadSched := insertN die d.deadSched })))

/-- R187, R323, R352, R354, R355, R360, R361, R366, R385: requests at a port that a window takes are performed at the home, one
that no window takes freezes the port or the host port, one at a frozen port is held; offtakes arrive, an eligible offtake that
its flume gives fires its record, links go down and come back, a follower takes the time of a flit's sender until flits stop. -/
def Sys2Proof.Claims.FabricEvents : Prop :=
  ∀ (p time : Nat) (st : Bool) (r : BusReq) (a : Arrival) (s s1 : State),
    exec (.fabricRequest p r) s = .next (s.portRequest p r) ∧ exec (.hostPortRequest r) s = .next (s.hostRequest r) ∧
    (s.dev.portUp p = true → s.dev.fabnum ≠ 4095 →
      (s.frozenMaster (.aqueduct p) ≠ none → exec (.fabricRequest p r) s = .next (s.holdRequest (.aqueduct p) (.bus r))) ∧
      (s.frozenMaster (.aqueduct p) = none →
        (s.dev.portTakes p r.addr (busLength r) r.rctx (busWrites r.op) = true →
          exec (.fabricRequest p r) s = .next (s.busPerform r false)) ∧
        (s.dev.portTakes p r.addr (busLength r) r.rctx (busWrites r.op) = false → exec (.fabricRequest p r) s =
          .next (s.freezeMaster (.aqueduct p) (portMaster p) (.bus r) r.rctx r.addr 5 0)))) ∧
    (s.frozenMaster .hostPort = none → ptrTag r.addr < 2 →
      (∀ c, s.dev.hostCtx r.addr (busLength r) (busWrites r.op) = some c →
        exec (.hostPortRequest r) s = .next (s.busPerform { r with rctx := c } true)) ∧
      (s.dev.hostCtx r.addr (busLength r) (busWrites r.op) = none → exec (.hostPortRequest r) s =
        .next (s.freezeMaster .hostPort 2 (.bus r) 0 r.addr 4 0))) ∧
    (a.port = some p → exec (.offtakeArrival a) s = .next (s.portOfftake p a)) ∧
    (∀ o, a.port = none → s.ownOfftake a.who = some o → exec (.offtakeArrival a) s =
      .next ((s.checkOfftake o.packet).2.2.answerOfftake o.id (s.checkOfftake o.packet).1)) ∧
    (∀ h ctx j, 0 ∉ s.dev.deadSched → (List.range 4).filterMap s.invocationHead = [h] → s.packetRecord h.packet = some (ctx, j) →
      s.eligible h = true →
      (s.takeHead h = (true, s1) → exec .offtakeDispatch s = .next (s1.fireOfftake h.packet ctx j)) ∧
      (s.takeHead h = (false, s1) → exec .offtakeDispatch s = .next s1)) ∧
    (p < 12 → exec (.linkMarkedDown p) s = .next (s.modDev (fun d => { d with linksDown := insertN p d.linksDown }))) ∧
    exec (.linkRestored p) s = .next (s.modDev (fun d => { d with linksDown := eraseN p d.linksDown })) ∧
    exec (.timeSyncSend p) s = .next s ∧
    (bit1 (s.dev.reg 0x60) 0 = false → s.dev.minimal = false → ∃ t, exec (.timeSyncFlit time st) s = .next t ∧
      t.dev.follower = true ∧ t.dev.timebase = (if st then BitVec.ofNat 64 time else s.dev.timebase) ∧
      t.dev.timeOffset = (s.dev.timebase.toNat : Int) - (time % 2 ^ 64 : Nat)) ∧
    exec .timeSyncLoss s = .next (s.modDev (fun d => { d with follower := false, timeOffset := 0, slew := 0 }))

/-- R61, R328, R330, R334, R339, R375: a drained context is saved, a waiting section comes back, an application core's command
is carried out once the device is ready and begins stage 4 (log 101), a page of code is checked once, a quad's noise source
fails and recovers. -/
def Sys2Proof.Claims.ContextEvents : Prop :=
  ∀ (ctx k q page object : Nat) (c : CtxCmd) (s s1 : State) (x : Ctx) (sec : SavedSec),
    (s.ctxOf ctx = some x → x.rstate = 2 → s.enginesDone ctx = true →
      (s.residents ctx).all (fun p => p.2.2.drainable) = true → exec (.contextDrained ctx) s = .next (s.finishDrain x)) ∧
    (s.ctxOf ctx = some x → x.sections[k]? = some sec → x.rstate = 1 → s.restoreSection x sec = some s1 →
      exec (.quadStateRestore ctx k) s =
        .next (s1.modCtx ctx (fun y => { y with sections := y.sections.eraseIdx k }))) ∧
    (s.dev.bootState = 1 →
      exec (.applicationCoreContextCommand c ctx) s = .next ((s.modDev Device.beginStage4).command c none ctx).2) ∧
    (s.dev.bootState ≠ 1 → exec (.applicationCoreContextCommand c ctx) s = .next s) ∧
    (page % 65536 = 0 → (∀ y ∈ s.dev.poisonedObjects, y.1 ≠ page) →
      exec (.codePageCheck page object true) s =
        .next (s.modDev (fun d => { d with poisonedObjects := (page, object, 1) :: d.poisonedObjects })) ∧
      exec (.codePageCheck page object false) s =
        .next ((s.modDev (fun d => { d with poisonedObjects := (page, object, 0) :: d.poisonedObjects })).errRecord
          { kind := 0x08, addr := page, x0 := object })) ∧
    (∀ test, q < s.dev.quadCount → (s.quad q).noiseFailed = false → exec (.noiseHealthFailure q test) s =
      .next ((s.setQuad q { s.quad q with noiseFailed := true }).errRecord { kind := 0x06, x0 := q, x1 := test.toNat })) ∧
    exec (.noiseFaultCleared q) s = .next (s.setQuad q { s.quad q with noiseFailed := false })

/-- R87, R375 to R386: a start counts itself, checks its images and has dies, stacks, expansions and quads that its reports give,
all of them, or one die and one stack after three failed starts; an old image fails it. That a start waits while a context is
resident is the model's reading (log 51, DEDUCED from R87, R383, R386). When all has reported the device is ready; a start that
does not get there in time, or that power loss or a reset cuts off, has failed. A die steps up for its power or as the hottest, and
down when all is cool and little is drawn; the protective shutdown stops the clocks for a hot sensor or a rail out of bounds. A register that takes no write while a context is
resident stays as it is; an application core that reaches beyond its set freezes (what its set is, is open: log 48). That stage 4
begins with the first access of an application core is the model's reading too (log 101, DEDUCED from R375). -/
def Sys2Proof.Claims.DeviceEvents : Prop :=
  ∀ (die off i j n : Nat) (v : BitVec 64) (b : Bool) (rep : BootReport) (agent : Agent) (s : State),
    let dies := (List.range 16).filter (fun i => decide (i ∉ rep.deadDies))
    let ups := (List.range 12).filter (fun i => decide (i ∉ rep.deadStacks))
    let ready := ups.filter (fun i => decide (i ∉ rep.deadBaseDies))
    let exps := rep.expansions.filter (fun x => decide (x < 32))
    (s.dev.bootState = 0 → s.dev.bootStage = 0 → s.ctxs = [] →
      (rep.stage1 = ⟨true, true, true, rep.stage1.version, rep.stage1.minimum⟩ → rep.stage1.version < rep.stage1.minimum →
        ∃ t, exec (.bootStart rep) s = .next t ∧ t.dev.bootState = 2 ∧ t.dev.bootLast = 4 ∧
          t.dev.bootFails = min 255 (s.dev.bootFails + 1)) ∧
      (ImageReport.reason rep.stage1 = none → rep.stage2.findSome? ImageReport.reason = none →
        (s.dev.bootMin = false → s.dev.bootFails < 3 → rep.deadDies = [] → rep.deadStacks = [] →
          ∃ t, exec (.bootStart rep) s = .next t ∧ t.dev.bootState = 0 ∧ t.dev.bootStage = 2 ∧
            t.dev.bootFails = s.dev.bootFails + 1 ∧ t.dev.minimal = false ∧ t.dev.diesUp = s.dev.diesUp ∧
            t.dev.stacksUp = ready ∧ t.dev.expansions = exps ∧ t.mem = s.mem) ∧
        ((s.dev.bootMin = true ∨ 3 ≤ s.dev.bootFails) → dies.head? = some i → ups.head? = some j →
          ∃ t, exec (.bootStart rep) s = .next t ∧ t.dev.bootState = 0 ∧ t.dev.bootStage = 2 ∧ t.dev.minimal = true ∧
            t.dev.bootMin = true ∧ t.dev.diesUp = [i] ∧ t.dev.stacksUp = ready.filter (fun x => decide (x = j)) ∧
            t.dev.expansions = exps ∧ t.mem = s.mem))) ∧
    (s.ctxs ≠ [] → exec (.bootStart rep) s = .next s) ∧
    (s.dev.bootState = 0 → s.dev.bootStage = 2 → s.dev.stacksUp.length = (if s.dev.minimal then 1 else 12) →
      exec .bootReady s = .next (s.modDev (fun d => { d with bootState := 1, bootStage := 3, bootFails := 0 }))) ∧
    (s.dev.bootState = 0 → 1 ≤ s.dev.bootStage →
      exec .bootTimeout s = .next (s.modDev (fun d => { d with bootState := 2, bootLast := 7 })) ∧
      (∃ t, exec .powerLoss s = .next t ∧ t.dev.bootLast = 10 ∧ t.dev.bootFails = s.dev.bootFails ∧ t.dev.bootState = 0) ∧
      (∃ t, exec .bootcmdReset s = .next t ∧ t.dev.bootLast = 10 ∧ t.dev.bootFails = s.dev.bootFails ∧ t.dev.bootState = 0)) ∧
    exec .bootcmdClearMinimal s = .next (s.modDev (fun d => { d with bootFails := 0, bootMin := false })) ∧
    (die ∈ s.dev.diesUp →
      ((5200 < s.dev.power ∧ die ∈ s.dev.powerDies) ∨
        (∃ t, s.dev.dieTemp die = some t ∧ 1680 ≤ t ∧ ∀ x ∈ s.dev.sensors, x.max.toInt ≤ t)) → exec (.clockStepUp die) s =
      .next (s.modDev (fun d => { d with clockStep := setK die (min 8 (getK 0 die d.clockStep + 1)) d.clockStep }))) ∧
    (s.dev.stepsUp die = false → exec (.clockStepUp die) s = .next s) ∧
    (die ∈ s.dev.diesUp → s.dev.power < 5000 → (∀ x ∈ s.dev.sensorTemps, x < 1600) → exec (.clockStepDown die) s =
      .next (s.modDev (fun d => { d with clockStep := setK die (getK 0 die d.clockStep - 1) d.clockStep }))) ∧
    (s.dev.stepsDown die = false → exec (.clockStepDown die) s = .next s) ∧
    ((b = true → s.dev.rails ≠ []) → (b = false → ∃ x ∈ s.dev.sensorTemps, 1920 ≤ x) →
      ∃ t, exec (.protectiveShutdown b) s = .next t ∧ t.dev.clocksStopped = true ∧ t.dev.bootState = 3 ∧
        t.dev.bootLast = if b then 9 else 8) ∧
    (s.dev.shutsDown b = false → exec (.protectiveShutdown b) s = .next s) ∧
    exec .wqclr s = .next (s.modDev (fun d => { d with weakQuads := [] })) ∧
    ((agent = .host ∨ agent = .management) →
      (∀ o x, regWrite off v.toNat = some (o, x, true) → s.ctxs ≠ [] →
        exec (.deviceRegisterWrite ⟨agent, off⟩ v) s = .next s) ∧
      (∀ o x star, regWrite off v.toNat = some (o, x, star) → (star = false ∨ s.ctxs = []) →
        exec (.deviceRegisterWrite ⟨agent, off⟩ v) s = .next ((s.setReg o x).regEffect o x))) ∧
    (n < 16 → s.frozenMaster (.appCore n) = none →
      (Config.appMay n off = true → exec (.deviceRegisterWrite ⟨.appCore n, off⟩ v) s =
        .next ((s.modDev Device.beginStage4).registerWrite off v)) ∧
      (Config.appMay n off = false → exec (.deviceRegisterWrite ⟨.appCore n, off⟩ v) s =
        .next (s.freezeMaster (.appCore n) (256 * n + 4) (.regs off v) 0 (regBase + off) 6 0)))

/-! ## The machine as a whole -/

/-- R13, R17, R20, R22, R86, R103, R130, R131: a core's cycle on the agenda runs the instruction that memory holds. R130 picks the
slot; its thread's late words are stored; when it may move and holds no trap, no error and no acquire, and its due windows have
completed, the word at its PC, if it decodes, is executed, with word and length in the instruction register and one
instruction less left of each open window. A REP brings the word after it and, if it starts a repeat, an iteration in the same
turn; a word that does not decode takes ILLEGAL_INSTRUCTION (R85), one that the debug address matches BREAKPOINT, which a REP takes by
itself, its record with ILEN 1 and INREP 0 (log 86, the model's choice); with a repeat open, the iteration's own word is executed. Poisoned words that the step has written back leave their records (`endStep`, R317).
(A noria step that is not in its slot's own turn is not issued, R131.) How the machine chooses whose cycle it is, the agenda,
is the model's own (log 3). -/
def Obligations.StepRunsDecoded : Prop :=
  ∀ (s s1 s2 : State) (c i : Nat) (rest : List Turn),
    s.dev.clocksStopped = false → s.agenda = .run c :: rest →
    let s0 : State := { s with agenda := rest }
    s0.pick c = some i → (s0.cycleEnd c).switchTo c i = some s1 → s1.hasRunning = true → s1.thr.canMove = true →
    s1.ctxRuns s1.thr.ctx = true →
    let u := s1.landSlotStores s1.cur.1 s1.cur.2
    u.thr.pendTrap = none → u.thr.asyncErr = none → u.thr.acq = none → u.landDue = some s2 →
    let v := s2.modThr Thread.cover
    (∀ w len s3 t, s2.thr.rep = none → v.fetchWord v.thr v.cur.1 v.thr.pc.toNat = (.ok (w, len), s3, t) →
      let x : State := { s3 with thr := t }
      let at' : State := { s3 with thr := { t with ir := ⟨w, len, .absent⟩ } }
      x.noTurn w = false →
      (t.instrMatch = true → step s = State.endStep true (.next (at'.takeTrap (mkTrap .breakpoint 0 1 0)))) ∧
      (∀ ins, t.instrMatch = false → decodeWord w = .ok ins → (∀ n d a b, ins ≠ .rep n d a b) →
        step s = State.endStep true (exec ins { s3 with thr := { t.startInstr with ir := ⟨w, len, .absent⟩ } })) ∧
      (∀ n d a b inner s4, t.instrMatch = false → decodeWord w = .ok (.rep n d a b) →
        x.fetchInner ((t.pc.toNat + 2) % 2 ^ 64) = (inner, s4) →
        step s = State.endStep true (State.afterRep exec
          (exec (.rep n d a b) { s4 with thr := { s4.thr with ir := ⟨w, len, inner⟩ } }))) ∧
      (∀ e, t.instrMatch = false → decodeWord w = .error e →
        step s = State.endStep true (.next (at'.takeTrap (mkTrap .illegalInstruction 0 0 0))))) ∧
    (∀ x s3 t, s2.thr.rep = none → v.fetchWord v.thr v.cur.1 v.thr.pc.toNat = (.error x, s3, t) →
      step s = State.endStep true (.next (({ s3 with thr := t } : State).takeTrap x))) ∧
    (∀ r base ins, s2.thr.rep = some r → s2.noTurn r.inner = false → decodeWord r.inner = .ok base →
      decodeWord (iterWord base r.rword r.inner r.ilen r.iter).1 = .ok ins →
      step s = State.endStep true (exec ins { s2 with thr := { s2.thr.startInstr with ir := ⟨r.inner, r.ilen, .absent⟩ } }))

/-- Nothing that a program or an engine does stops the machine: every instruction and every engine's step answers a next state in
every state, the steps of an installed firmware expansion, which are free values (log 52), among them. Only a step with stopped
clocks does not (R381). -/
def Obligations.ExecGoesOn : Prop := ∀ (i : Instr) (s : State), ∃ t, exec i s = .next t

/-- R72 to R85: decoding gives back each well-formed instruction that has a word, with every operand at every value that its
encoding admits, and the word has the length that its bit 0 gives. -/
def Obligations.DecodeEncode : Prop :=
  ∀ i : Instr, i.wf = true → i.hasWord = true →
    decodeWord (encode i) = .ok i ∧ encode i < 2 ^ (8 * encodeLen i) ∧ lengthOf (encode i) = encodeLen i

/-- Memory has one form (log 4): every list of bytes ascends and lists no 0. Every step keeps it, in every state. -/
def Obligations.StepKeepsMemory : Prop := ∀ s t : State, s.mem.wf = true → step s = .next t → t.mem.wf = true

/-! ## Words and reset -/

/-- R80, R81, R83: a short lane operation has the meaning of its 32-bit equivalent with da as destination and first source;
MOVIS reads its immediate as signed and has the meaning of ADDI from n63, and its word is refused with bits [15:14] set; of
the short miscellaneous words exactly five decode, YIELD, QUIT and FENCEI with the meaning of the 32-bit form. -/
def Obligations.ShortForms : Prop :=
  (∀ (d b : Fin 16) (s : State), ∀ p ∈ [(Instr.add16 d b, Instr.add (n16 d) (n16 d) (n16 b)), (.sub16 d b, .sub (n16 d) (n16 d) (n16 b)),
      (.mul16 d b, .mul (n16 d) (n16 d) (n16 b)), (.and16 d b, .and (n16 d) (n16 d) (n16 b)), (.or16 d b, .or (n16 d) (n16 d) (n16 b)),
      (.xor16 d b, .xor (n16 d) (n16 d) (n16 b)), (.shl16 d b, .shl (n16 d) (n16 d) (n16 b)), (.shr16 d b, .shr (n16 d) (n16 d) (n16 b)),
      (.sra16 d b, .sra (n16 d) (n16 d) (n16 b)), (.min16 d b, .min (n16 d) (n16 d) (n16 b)), (.max16 d b, .max (n16 d) (n16 d) (n16 b)),
      (.mov16 d b, .mov (n16 d) (n16 b)), (.neg16 d b, .neg (n16 d) (n16 b)), (.not16 d b, .not (n16 d) (n16 b)),
      (.abs16 d b, .abs (n16 d) (n16 b)), (.clt16 d b, .clt (n16 d) (n16 d) (n16 b)),
      (.vadd16 d b, .vadd (v16 d) (.reg (v16 d)) (.reg (v16 b))), (.vsub16 d b, .vsub (v16 d) (.reg (v16 d)) (.reg (v16 b))),
      (.vmul16 d b, .vmul (v16 d) (.reg (v16 d)) (.reg (v16 b))), (.vand16 d b, .vand (v16 d) (.reg (v16 d)) (.reg (v16 b))),
      (.vor16 d b, .vor (v16 d) (.reg (v16 d)) (.reg (v16 b))), (.vxor16 d b, .vxor (v16 d) (.reg (v16 d)) (.reg (v16 b))),
      (.vshl16 d b, .vshl (v16 d) (.reg (v16 d)) (.reg (v16 b))), (.vshr16 d b, .vshr (v16 d) (.reg (v16 d)) (.reg (v16 b))),
      (.vsra16 d b, .vsra (v16 d) (.reg (v16 d)) (.reg (v16 b))), (.vmin16 d b, .vmin (v16 d) (.reg (v16 d)) (.reg (v16 b))),
      (.vmax16 d b, .vmax (v16 d) (.reg (v16 d)) (.reg (v16 b))), (.vmov16 d b, .vmov (v16 d) (v16 b)),
      (.vneg16 d b, .vneg (v16 d) (v16 b)), (.vabs16 d b, .vabs (v16 d) (v16 b)),
      (.vclt16 d b, .vclt (v16 d) (.reg (v16 d)) (.reg (v16 b)))], exec p.1 s = exec p.2 s) ∧
  (∀ (d : Fin 16) (imm : Int) (s : State), exec (.movis d imm) s = exec (.addi (n16 d) 63 imm) s) ∧
  (∀ (d : Fin 16) (imm high : Nat), imm < 128 → high < 4 →
    decodeWord (4 + 8 * d.val + 128 * imm + 16384 * high) =
      if high = 0 then .ok (.movis d (if imm < 64 then imm else (imm : Int) - 128)) else .error .reservedField) ∧
  (∀ op13 : Nat, op13 < 8192 → decodeWord (6 + 8 * op13) =
    if op13 = 0 then .ok .nop else if op13 = 1 then .ok .yield16 else if op13 = 2 then .ok .quit16
    else if op13 = 3 then .ok .rdone else if op13 = 4 then .ok .fencei16 else .error .shortUnassigned) ∧
  (∀ s : State, exec .yield16 s = exec .yield s ∧ exec .quit16 s = exec .quit s ∧ exec .fencei16 s = exec .fencei s ∧
    exec .nop s = .next s.retire)

/-- Words written out from the spec's encodings (the worked encodings after R88 among them) decode to the instructions that
they stand for, and its examples of refused words are refused at the step that it names. -/
def Obligations.TableWords : Prop :=
  decodeWord 0x0038C283 = .ok (.add 5 6 7) ∧ decodeWord 0x6208C2A1 = .ok (.ldd 5 6 1 1) ∧
  decodeWord 0xFE8FE18D = .ok (.bne 3 63 (-6)) ∧ decodeWord 0x061840A9 = .ok (.aadd 1 2 3 .dev) ∧
  decodeWord 0x2180 = .ok (.add16 3 4) ∧ decodeWord 0x3E94 = .ok (.movis 2 (-3)) ∧
  decodeWord 0x0A1A = .ok (.rep 3 1 1 0) ∧ decodeWord 0x0006 = .ok .nop ∧ decodeWord 0x0016 = .ok .quit16 ∧
  decodeWord 0x0000 = .error .shortUnassigned ∧ decodeWord 0x8006 = .error .shortUnassigned ∧
  decodeWord 0xE2AE = .error .shortUnassigned ∧ decodeWord 0x00000047 = .error .majorUnassigned ∧
  decodeWord 0xFE000003 = .error .funcUnassigned ∧ decodeWord 0x0E1840A9 = .error .badCode

/-- R20, R128, R129, R318, R353, R366, R377, R385: after reset no context is resident and no thread stands in a slot, the
rotation table names each slot once with its pointer at entry 0, FABNUM is unassigned, no aperture is valid, TMASTER, WQTH and
ERRSTAT are at their values, the start has not begun. That no packet, launch, offtake, decrement, ready record, reservation,
waiter or late store is under way, and that no context is resident before the start, is the model's choice (log 2). -/
def Sys2Proof.Claims.ResetState : Prop :=
  State.reset.ctxs = [] ∧ (∀ c i, State.reset.threadAt c i = none) ∧ State.reset.hasRunning = false ∧
  (∀ c, (State.reset.core c).rottab = 0xFEDCBA9876543210 ∧ (State.reset.core c).ptr = 0 ∧
    ∀ i, ((State.reset.core c).slot i).occ = .free) ∧
  State.reset.dev.reg 0x10 = 4095 ∧ State.reset.dev.reg 0x60 = 0 ∧ State.reset.dev.reg 0x68 = 8 ∧
  (∀ a, a < 32 → State.reset.dev.reg (0x200 + 8 * a) = 0) ∧ State.reset.dev.bootState = 0 ∧ State.reset.dev.bootStage = 0 ∧
  State.reset.dev.errEn = false ∧ State.reset.dev.errOvf = false ∧ State.reset.dev.errBase = 0 ∧
  Thread.empty.dbga = 0 ∧ Thread.empty.dbgm = 0 ∧ State.reset.packets = [] ∧ State.reset.offtakes = [] ∧ State.reset.pending = [] ∧
  State.reset.decrements = [] ∧ State.reset.ready = [] ∧ State.reset.resvs = [] ∧ State.reset.flumeWaits = [] ∧
  State.reset.remoteWaits = [] ∧ State.reset.late = [] ∧ State.reset.keep = [] ∧ State.reset.copyPtr = []

/-- Memory after reset is in its one form, with nothing listed (log 4: what HBM holds then is the model's choice). -/
def Sys2Proof.Claims.ResetMemory : Prop := State.reset.mem.wf = true ∧ State.reset.mem.hbm = [] ∧ State.reset.mem.srams = []

/-! ## Claims taken together -/

/-- Every integer instruction of the row table completes with its exact result narrowed into its destination and the flags
of the narrowing; where a trap-mode destination cannot hold it, WIDTH_OVERFLOW is taken with the index of the name and the
low 64 bits of the exact result, and nothing is written. -/
def Obligations.IntegerResults : Prop :=
  Sys2Proof.Claims.IntegerResult ∧ Sys2Proof.Claims.IntegerOverflow

/-- DIV, DIVU, REM and REMU with a divisor that is not 0 write the exact quotient or remainder narrowed like any result;
with divisor 0 they raise DIVIDE_BY_ZERO in every mode, X0 the dividend. -/
def Obligations.DivisionResults : Prop :=
  Sys2Proof.Claims.DivisionResult ∧ Sys2Proof.Claims.DivisionByZero

/-- MOV narrows a value with flags, or copies the pattern between names of one float kind with none; BFI writes a field
into the pattern of its destination with the flags of the value. -/
def Obligations.MovesAndFields : Prop :=
  Sys2Proof.Claims.MoveResult ∧ Sys2Proof.Claims.FieldInsert

/-- MODE sets the overflow mode of a name, RESIZE its width with the value narrowed, MFF copies the flags word, MTF writes
the five flags, SFCLR clears SF. RESIZE raises MAP_FAULT for n63, an undeclared, a float and a bound name, and
WIDTH_OVERFLOW where a trap-mode name does not hold its value in the new width; MODE raises MAP_FAULT for n63, an
undeclared and a float name. That of the bound names MODE refuses only MODE to trap on a flume binding is the reading of
the model (log 14). -/
def Obligations.NameControls : Prop :=
  Sys2Proof.Claims.MapAndFlags ∧ Sys2Proof.Claims.ResizeResult

/-- A branch goes to the PC plus twice its offset when its condition holds, else past itself; jumps and calls go to their
targets, odd ones raising ALIGN; calls write PC + 4 to lk. -/
def Obligations.BranchesAndJumps : Prop :=
  Sys2Proof.Claims.BranchResult ∧ Sys2Proof.Claims.JumpResult

/-- NOP changes nothing but the PC, FENCEI drops fetched code, the three PHASE forms release and acquire at their scope;
TRAP and BRK raise their causes. -/
def Obligations.StillAndTrapping : Prop :=
  Sys2Proof.Claims.NopFencePhase ∧ Sys2Proof.Claims.TrapInstructions

/-- Trap entry saves cause, PC, address and extra word, sets PRIV and TACT, moves the old privilege to PPRIV and goes to
TRAPV with its low six bits 0; under TACT the slot freezes with its state intact. -/
def Obligations.TrapEntries : Prop :=
  Sys2Proof.Claims.TrapEntry ∧ Sys2Proof.Claims.TrapFreezes

/-- CSRW of a register that takes no write is illegal; of another it writes ext64 of the name. What it leaves in the trap
registers, PRIVL, DBGCTL, DBGA, DBGM, SRNGC, ROTTAB, SPLITC, ERRHEAD and ERRSTAT: reserved bits read 0, PRIV stays, values
that a field ignores leave it as it was, OVF is only cleared. A split that the save charge does not allow changes nothing.
-/
def Obligations.ControlRegisterWrite : Prop :=
  Sys2Proof.Claims.CsrWriteResult ∧ Sys2Proof.Claims.ThreadRegisters ∧ Sys2Proof.Claims.SharedRegisters

/-- An integer instruction writes its destination and its flags, a float instruction its destination, a result of one
vector register that register; every other name, register, flag, trap register and every byte of memory is as before. -/
def Obligations.RegisterFrames : Prop :=
  Sys2Proof.Claims.IntegerFrame ∧ Sys2Proof.Claims.FloatFrame ∧ Sys2Proof.Claims.ResultFrame

/-- A scalar load reads its bytes at the base plus the scaled offset and narrows them into its destination; a scalar store
writes the low bytes of ext64 of its source there; in their windows. -/
def Obligations.LoadsAndStores : Prop :=
  Sys2Proof.Claims.LoadResult ∧ Sys2Proof.Claims.StoreResult

/-- A store lands in the L1, the die L2 or the home by its policy: its bytes read as stored, every other byte of the line
or block as before, and the levels and blocks that it does not reach keep every byte; a die L2 that is full evicts a
sector, which the model chooses (log 94). -/
def Obligations.GlobalStoreFrames : Prop :=
  Sys2Proof.Claims.CachedStoreFrame ∧ Sys2Proof.Claims.DeepStoreFrame

/-- Window tag, must-be-0 bits, foreign window and alignment are checked in that order, each trap reporting the pointer;
an access that fails a check is the trap of the instruction. -/
def Obligations.PointerTraps : Prop :=
  Sys2Proof.Claims.PointerChecks ∧ Sys2Proof.Claims.AccessTraps

/-- Vector loads read their parts and write one register with its tag and side field; vector stores check the tag, then
write the image of the register. -/
def Obligations.VectorMemory : Prop :=
  Sys2Proof.Claims.VectorLoadResult ∧ Sys2Proof.Claims.VectorStoreResult

/-- A REP starts with rp holding count and index, or resumes where rp holds its count already; an iteration moves the
index and the count by one; the last one goes on past both words. A count in rp that does not fit raises MAP_FAULT inside
the repeat, with INREP and REPIX in its record: the reading of the model (log 58). -/
def Obligations.Repeats : Prop :=
  Sys2Proof.Claims.RepeatStart ∧ Sys2Proof.Claims.RepeatAdvance

/-- LDFF, LDE, STF, STFF, FEQ, FEMPTY and FEFILL on a word of the device: what they read, write and mark; LDFF and LDE on
an empty word and STF on a full one park, the others never do. -/
def Obligations.FullEmpty : Prop :=
  Sys2Proof.Claims.FullEmptyResult ∧ Sys2Proof.Claims.FullEmptyMarks ∧ Sys2Proof.Claims.FullEmptyWaits

/-- Each atomic replaces the word at the level of its scope and narrows the prior word into its destination; ACAS stores
where the word equals, with Z; an overflow traps with PERF, the word updated. -/
def Obligations.AtomicResults : Prop :=
  Sys2Proof.Claims.AtomicResult ∧ Sys2Proof.Claims.CompareSwapResult

/-- LRW takes a free word, reads with Z = 0 one that its thread holds, or queues and parks; SCH and LRX by the holder
release the word to the next waiter, by a thread that does not hold it they write Z = 0 and store nothing. -/
def Obligations.Reservations : Prop :=
  Sys2Proof.Claims.ReservationTake ∧ Sys2Proof.Claims.ReservationGive

/-- Lane by lane, what the operation makes of both operands under the lane type of the first register, whose side field
stays; comparisons answer all ones or 0 under the integer tag with side field 0. -/
def Obligations.LaneOperations : Prop :=
  Sys2Proof.Claims.LaneResult ∧ Sys2Proof.Claims.ShiftCompareResult

/-- VSEL picks bits by the mask in its destination, VMOV copies a register, VBCAST fills the lanes, VINS sets one lane,
VPERM moves lanes by index, a reduction folds all lanes into lane 0, VRETAG changes the tag, VSEXW writes side-field bits.
-/
def Obligations.VectorMoves : Prop :=
  Sys2Proof.Claims.SelectMoveInsert ∧ Sys2Proof.Claims.PermuteReduceRetag

/-- VFMA, VFMS, VDIV and VSQRT round each lane once; VCVT and VDXQ convert register groups element by element in their
rounding mode, with a noise word each in mode SR. -/
def Obligations.VectorRounding : Prop :=
  Sys2Proof.Claims.VectorFloatResult ∧ Sys2Proof.Claims.GroupConversion

/-- They complete when the controller lets the element in or out, park at a full or an empty flume, and with a limit of 0
or less raise WAIT_EXPIRED instead. -/
def Obligations.FlumeTransfers : Prop :=
  Sys2Proof.Claims.EnqueueResult ∧ Sys2Proof.Claims.DequeueResult

/-- QBIND binds a name to a flume; SPLIT divides the local memory of a core; refused ones change nothing but Z. -/
def Obligations.FlumeBindingAndSplit : Prop :=
  Sys2Proof.Claims.FlumeBinding ∧ Sys2Proof.Claims.SplitResult

/-- Through a handle of a well-formed word LEAVE takes a member out, GBAR arrives, GCNT reads a field; an empty handle
gives Z = 0; the last arrival advances the phase and wakes the waiters, an earlier one parks. That LEAVE, GBAR and GCNT
read SCP at the die L2 first, and that ARRV wraps in its 32 bits, are choices of the model (logs 126 and 129). -/
def Obligations.GroupsAndBarriers : Prop :=
  Sys2Proof.Claims.GroupResult ∧ Sys2Proof.Claims.BarrierArrival

/-- Packets are appended with their token; WAITK and TOKS tell of tokens; BARM, BCLR, BERR, BPOLL and BWAIT act on a basin
word. -/
def Obligations.PacketsTokensBasins : Prop :=
  Sys2Proof.Claims.PacketAppended ∧ Sys2Proof.Claims.TokenResult ∧ Sys2Proof.Claims.BasinResult

/-- On a record of the pool in state 0 LPATCH writes a field or all of ARGS, LARM and LFIRE arm or trigger it, with Z = 1,
else, or for a value out of range, Z = 0; LSTAT reads its word; SRNG sets the noise mode and buffer. That SRNG refuses a
pointer with must-be-0 bits set is the choice of the model (log 44). -/
def Obligations.LaunchesAndNoise : Prop :=
  Sys2Proof.Claims.LaunchResult ∧ Sys2Proof.Claims.NoiseControl

/-- MACQ, MREL, MLDB, MMAC, MRUN, MDRN, MCHK, MHND and RDONE: what each does when its checks pass, and the shape checks of
the reservation word. That MLDB reads its sources as it issues is the choice of the model (log 25), and so is that an idle
noria takes an entry at once (log 102); that the steps of MRUN keep what the names of bound operands hold beside them is
its reading (log 11). -/
def Obligations.NoriaInstructions : Prop :=
  Sys2Proof.Claims.NoriaResources ∧ Sys2Proof.Claims.NoriaSteps ∧ Sys2Proof.Claims.NoriaHandlers

/-- Each is carried out and answers a status, a count or the old timebase, with Z. -/
def Obligations.ContextsAndSystem : Prop :=
  Sys2Proof.Claims.ContextResult ∧ Sys2Proof.Claims.SystemResult

/-- Offtakes are sent and waited for; counters and the timebase are read; WAITT waits; a word of an expansion major is
illegal with no expansion installed, and runs as one instruction with one, in steps that are free values (log 52). -/
def Obligations.RemoteTimeExpansion : Prop :=
  Sys2Proof.Claims.RemoteAndTime ∧ Sys2Proof.Claims.ExpansionResult

/-- Decrements, timed records, pending launches, take-overs; requests and offtakes at the ports, links and time sync. -/
def Obligations.LaunchAndFabricEvents : Prop :=
  Sys2Proof.Claims.LaunchEvents ∧ Sys2Proof.Claims.FabricEvents

/-- Drains end, sections return, commands of application cores; starts that fail and starts that go on, clock steps and
shutdown by power, sensors and rails, device registers. Which of them happen, and when, is chosen by the environment (log
3). That a start waits while a context is resident (log 51) and that stage 4 begins with the first access of an
application core (log 101) are readings of the model. -/
def Obligations.ContextAndDeviceEvents : Prop :=
  Sys2Proof.Claims.ContextEvents ∧ Sys2Proof.Claims.DeviceEvents

/-- Nothing resident, nothing under way, the registers at the reset values of the spec; memory in its one form with
nothing listed, which is the choice of the model (log 4), as is that nothing is under way (log 2). -/
def Obligations.ResetStates : Prop :=
  Sys2Proof.Claims.ResetState ∧ Sys2Proof.Claims.ResetMemory
end

