-- ==== Sys2Proof/Laws/Frames.lean ====
section
/-! SUPPORT. Frame laws: what a memory operation and the checks of an access can change at all, said once. -/

namespace Sys2Proof.Machine
open Sys2Proof

/-- Nothing differs but memory, the words of vector stores that are still to come, and what the free values used up. -/
def State.MemOnly (s t : State) : Prop :=
  t = { s with mem := t.mem, late := t.late, freeCtr := t.freeCtr }

theorem State.MemOnly.refl (s : State) : s.MemOnly s := rfl

theorem State.MemOnly.trans {s t u : State} (a : s.MemOnly t) (b : t.MemOnly u) : s.MemOnly u := by
  unfold State.MemOnly at *
  rw [b, a]

theorem State.MemOnly.thr {s t : State} (a : s.MemOnly t) : t.thr = s.thr := by rw [a]

theorem State.MemOnly.cur {s t : State} (a : s.MemOnly t) : t.cur = s.cur := by rw [a]

theorem State.MemOnly.cores {s t : State} (a : s.MemOnly t) : t.cores = s.cores := by rw [a]

theorem State.MemOnly.dev {s t : State} (a : s.MemOnly t) : t.dev = s.dev := by rw [a]

theorem State.modMem_only (s : State) (f : Mem → Mem) : s.MemOnly (s.modMem f) := rfl

/-- A fold of steps of this kind is of this kind. -/
theorem State.foldl_only {α : Type} (f : State → α → State) (h : ∀ (t : State) (x : α), t.MemOnly (f t x)) (l : List α) (s : State) :
    s.MemOnly (l.foldl f s) := by
  induction l generalizing s with
  | nil => exact State.MemOnly.refl s
  | cons x r ih => exact (h s x).trans (ih (f s x))

theorem State.choose_only (s : State) (k : Nat) : s.MemOnly (s.choose k).2 := by
  unfold State.choose
  split <;> rfl

theorem State.belowWrite_only (s : State) (die owner : Nat) (ps : List Host.Cell) : s.MemOnly (s.belowWrite die owner ps) := by
  cases ps with
  | nil => rfl
  | cons p r => unfold State.belowWrite; simp only; split <;> rfl

theorem State.writeBackLine_only (s : State) (x : L1Line) : s.MemOnly (s.writeBackLine x) := by
  unfold State.writeBackLine
  split
  · rfl
  · refine State.MemOnly.trans ?_ (State.modMem_only _ _)
    split
    · exact s.belowWrite_only _ _ _
    · exact (s.belowWrite_only _ _ _).trans (State.modMem_only _ _)

theorem State.flushLine_only (s : State) (core line : Nat) : s.MemOnly (s.flushLine core line) := by
  unfold State.flushLine
  split
  · exact (s.writeBackLine_only _).trans (State.modMem_only _ _)
  · rfl

theorem State.levelRead_only (s : State) (lv : Level) (die pa n : Nat) : s.MemOnly (s.levelRead lv die pa n).2 := by
  unfold State.levelRead
  split
  · rfl
  · rfl

theorem State.levelWrite_only (s : State) (lv : Level) (die owner : Nat) (ps : List Host.Cell) :
    s.MemOnly (s.levelWrite lv die owner ps) := by
  cases ps with
  | nil => rfl
  | cons p r =>
    unfold State.levelWrite
    simp only
    split
    · split <;> rfl
    · rfl

theorem State.rmw_only (s : State) (lv : Level) (die owner pa : Nat) (f : Word → Word) :
    s.MemOnly (s.rmw lv die owner pa f).2 := by
  unfold State.rmw
  simp only
  split
  · exact s.levelRead_only _ _ _ _
  · exact (s.levelRead_only _ _ _ _).trans (State.levelWrite_only _ _ _ _ _)

theorem State.pushPartial_only (s : State) (p : Partial) : s.MemOnly (s.pushPartial p) := by
  unfold State.pushPartial
  extract_lets s1
  by_cases h : s1.pushPoisoned (decide (scopeLevel p.scope = .home)) (s.dev.dieOf p.core) (8 * p.word) 8 = true
  · rw [if_pos h]; exact State.modMem_only _ _
  · rw [if_neg h]; exact State.MemOnly.trans (State.modMem_only _ _) (State.rmw_only _ _ _ _ _ _)

theorem State.pushRf_only (s : State) (p : RfPartial) : s.MemOnly (s.pushRf p) := by
  have w1 : s.MemOnly (s.modMem (fun m => { m with rfPartials := m.rfPartials.filter (fun x => decide (x ≠ p)) })) :=
    State.modMem_only _ _
  have w2 := w1.trans (State.foldl_only (fun t x => (t.writeBackLine x).modMem (fun m => m.dropLine x.core x.line))
    (fun t x => (t.writeBackLine_only x).trans (State.modMem_only _ _)) (s.mem.l1.filter (fun x => decide (x.line = p.slot))) _)
  have w3 := w2.trans (State.levelRead_only _ .home 0 (64 * p.slot) 64)
  unfold State.pushRf
  extract_lets s1
  split
  · exact w1
  rename_i s2 _
  split
  rename_i b s3 e
  have w4 : s.MemOnly s3 := by
    have : (s2.levelRead .home 0 (64 * p.slot) 64).2 = s3 := by rw [e]
    rw [← this]; exact w3
  extract_lets x acc pinf ninf nan y
  by_cases h : s3.pushPoisoned true 0 (64 * p.slot) 64 = true
  · rw [if_pos h]; exact w4
  · rw [if_neg h]; exact w4.trans ((State.levelWrite_only _ _ _ _ _).trans (State.modMem_only _ _))

theorem State.pushAll_only (s : State) (ps : List Partial) (rs : List RfPartial) :
    s.MemOnly (rs.foldl (fun t p => t.pushRf p) (ps.foldl (fun t p => t.pushPartial p) s)) :=
  (State.foldl_only _ (fun t p => t.pushPartial_only p) ps s).trans (State.foldl_only _ (fun t p => t.pushRf_only p) rs _)

theorem State.evictLine_only (s : State) (core line : Nat) : s.MemOnly (s.evictLine core line) :=
  (s.pushAll_only _ _).trans (State.flushLine_only _ core line)

theorem State.makeRoom_only (s : State) (core line : Nat) : s.MemOnly (s.makeRoom core line) := by
  unfold State.makeRoom
  extract_lets sps held peers cap
  split
  · rfl
  · simp only
    split
    · exact (s.choose_only _).trans (State.evictLine_only _ core _)
    · exact s.choose_only _

theorem State.allocLine_only (s : State) (core line : Nat) : s.MemOnly (s.allocLine core line).2 := by
  unfold State.allocLine
  split
  · rfl
  · exact (s.makeRoom_only core line).trans (show State.MemOnly _ _ from rfl)

theorem State.settle_only (s : State) (core pa n : Nat) : s.MemOnly (s.settle core pa n) := by
  unfold State.settle
  split
  · rfl
  · exact s.pushAll_only _ _

theorem State.fillLine_only (s : State) (core line : Nat) : s.MemOnly (s.fillLine core line).2 :=
  ((s.allocLine_only core line).trans (State.writeBackLine_only _ _)).trans
    ((State.levelRead_only _ .l2 _ _ 64).trans (show State.MemOnly _ _ from rfl))

/-- A load changes memory's levels and nothing else. -/
theorem State.load_only (s : State) (core pol pa n : Nat) : s.MemOnly (s.load core pol pa n).2 := by
  have w0 := s.settle_only core pa n
  have hit : ∀ b : Bool, s.MemOnly (if b then (s.settle core pa n).allocLine core (pa / 64)
      else (s.settle core pa n).fillLine core (pa / 64)).2 := by
    intro b
    split
    · exact w0.trans (State.allocLine_only _ core _)
    · exact w0.trans (State.fillLine_only _ core _)
  unfold State.load
  by_cases h1 : decide (pa / 64 ∈ (s.settle core pa n).mem.marks) = true
  · rw [if_pos h1]
    simp only
    split <;> exact w0.trans (State.levelRead_only _ .home _ _ 64)
  · rw [if_neg h1]
    by_cases h2 : pol = 0
    · rw [if_pos h2]; exact hit _
    · rw [if_neg h2]; exact w0.trans (State.levelRead_only _ _ _ pa n)

theorem State.zeroSlot_only (s : State) (slot owner : Nat) : s.MemOnly (s.zeroSlot slot owner) :=
  (s.levelWrite_only .home _ owner _).trans (State.modMem_only _ _)

/-- So does a store that is performed at a level. -/
theorem State.levelStore_only (s : State) (lv : Level) (die owner pa : Nat) (bs : List Byte) :
    s.MemOnly (s.levelStore lv die owner pa bs) := by
  unfold State.levelStore
  split
  · exact s.zeroSlot_only _ _
  · exact s.levelWrite_only lv die owner _

/-- A store changes memory's levels and nothing else. -/
theorem State.store_only (s : State) (core pol owner pa : Nat) (bs : List Byte) : s.MemOnly (s.store core pol owner pa bs) := by
  have w0 := s.settle_only core pa bs.length
  unfold State.store
  simp only
  split
  · exact w0.trans (State.zeroSlot_only _ _ owner)
  · split
    · exact w0.trans ((State.allocLine_only _ core _).trans (State.modMem_only _ _))
    · split
      · exact w0.trans (State.levelWrite_only _ .l2 _ owner _)
      · split
        · exact w0.trans (State.modMem_only _ _)
        · exact w0

theorem State.loadPiece_only (s : State) (core : Nat) (x : Piece) : s.MemOnly (s.loadPiece core x).2 := by
  unfold State.loadPiece
  split
  · exact s.load_only _ _ _ _
  · rfl

theorem State.storePiece_only (s : State) (core : Nat) (x : Piece) (bs : List Byte) : s.MemOnly (s.storePiece core x bs) := by
  unfold State.storePiece
  split
  · exact s.store_only _ _ _ _ _
  · exact State.modMem_only _ _

theorem State.loadPieces_only (s : State) (core : Nat) (ps : List Piece) : s.MemOnly (s.loadPieces core ps).2 := by
  induction ps generalizing s with
  | nil => rfl
  | cons x r ih => exact (s.loadPiece_only core x).trans (ih _)

theorem State.storePieces_only (s : State) (core : Nat) (ps : List Piece) (bs : List Byte) :
    s.MemOnly (s.storePieces core ps bs) := by
  induction ps generalizing s bs with
  | nil => rfl
  | cons x r ih => exact (s.storePiece_only core x _).trans (ih _ _)

/-! ## The checks of an access -/

theorem State.lookup_only (s : State) (die : Nat) (core : Option Nat) (ctx va : Nat) : s.MemOnly (s.lookup die core ctx va).2 := by
  unfold State.lookup
  extract_lets ats w olds
  have h := s.choose_only (olds.length + 1)
  generalize s.choose (olds.length + 1) = p at h ⊢
  obtain ⟨k, s1⟩ := p
  simp only
  split
  · exact h.trans (show State.MemOnly _ _ from rfl)
  · exact h

theorem State.translate_only (s : State) (die : Nat) (core : Option Nat) (ctx : Nat) (user : Bool) (k : AccKind) (prv : Bool)
    (va addr : Nat) : s.MemOnly (s.translate die core ctx user k prv va addr).2 := by
  have h := s.lookup_only die core ctx va
  unfold State.translate
  generalize s.lookup die core ctx va = p at h ⊢
  obtain ⟨w, s1⟩ := p
  cases w with
  | pageFault => exact h
  | protection => exact h
  | leaf e lv =>
    simp only
    split
    · exact h
    · split
      · exact h
      · exact h
      · split <;> exact h
      · exact h
      · exact h
      · exact h

theorem State.mapRun_only (s : State) (die : Nat) (core : Option Nat) (ctx : Nat) (user : Bool) (k : AccKind) (prv : Bool) (p : Nat)
    (l : List (Nat × Nat × Nat)) : s.MemOnly (s.mapRun die core ctx user k prv p l).2 := by
  induction l generalizing s with
  | nil => rfl
  | cons x r ih =>
    obtain ⟨off, va, n⟩ := x
    unfold State.mapRun
    split
    · rfl
    · have h := s.translate_only die core ctx user k prv va (p + off)
      generalize s.translate die core ctx user k prv va (p + off) = q at h ⊢
      obtain ⟨e, s1⟩ := q
      cases e with
      | error f => exact h
      | ok t =>
        obtain ⟨pa, pol, owner⟩ := t
        have h2 := h.trans (ih s1)
        simp only at h2 ⊢
        generalize s1.mapRun die core ctx user k prv p r = q at h2 ⊢
        obtain ⟨e, s2⟩ := q
        cases e <;> exact h2

/-- The checks of an access change what the TLBs hold and nothing else. -/
theorem State.access_only (s : State) (t : Thread) (core : Nat) (k : AccKind) (p n al : Nat) :
    s.MemOnly (s.access t core k p n al).2 := by
  unfold State.access
  split
  · rfl
  · extract_lets die fuel
    split
    rename_i r s1 e
    have h : s.MemOnly s1 := by
      have e2 := congrArg Prod.snd e
      simp only at e2
      rw [← e2]
      split
      · exact s.mapRun_only _ _ _ _ _ _ _ _
      · split
        · rfl
        · exact s.mapRun_only _ _ _ _ _ _ _ _
      · split <;> rfl
    split
    · exact h
    · split <;> exact h

/-! ## A step of a block move (R120) -/

theorem State.checkBytes_only (s : State) (k : AccKind) (p n : Nat) (w : Option Fail) (ps : List Piece) :
    s.MemOnly (s.checkBytes k p n w ps).2 := by
  induction n generalizing s w ps with
  | zero => rfl
  | succ n ih =>
    unfold State.checkBytes
    extract_lets a
    have h := s.access_only s.thr s.cur.1 k a 1 1
    generalize s.access s.thr s.cur.1 k a 1 1 = q at h ⊢
    obtain ⟨e, s1⟩ := q
    cases e with
    | error f => exact h.trans (ih _ _ _)
    | ok qs =>
      simp only
      split
      · exact h.trans (ih _ _ _)
      · exact h.trans (ih _ _ _)

theorem State.moveBytes_only (s : State) (fill : Byte) (xs ys : List Piece) : s.MemOnly (s.moveBytes fill xs ys) := by
  induction xs generalizing s ys with
  | nil => cases ys <;> rfl
  | cons x xs ih =>
    cases ys with
    | nil => exact (s.storePiece_only _ _ _).trans (ih _ _)
    | cons y ys => exact (s.loadPiece_only _ _).trans ((State.storePiece_only _ _ _ _).trans (ih _ _))

/-- A step that passes its checks changes memory and nothing else. -/
theorem State.blockStep_only {s s1 : State} {mov : Bool} {dst src n : Nat} {fill : Byte}
    (h : s.blockStep mov dst src n fill = .ok s1) : s.MemOnly s1 := by
  unfold State.blockStep at h
  have a := s.checkBytes_only .write dst n none []
  generalize s.checkBytes .write dst n none [] = p at a h
  obtain ⟨⟨w0, to_⟩, sa⟩ := p
  simp only at h a
  cases mov with
  | false =>
    simp only [Bool.false_eq_true, if_false] at h
    cases w0 with
    | some f => cases h
    | none => cases h; exact a.trans (State.moveBytes_only _ _ _ _)
  | true =>
    have b := sa.checkBytes_only .read src n w0 []
    simp only [if_true] at h
    generalize sa.checkBytes .read src n w0 [] = p at b h
    obtain ⟨⟨w, from_⟩, sb⟩ := p
    cases w with
    | some f => cases h
    | none => cases h; exact a.trans (b.trans (State.moveBytes_only _ _ _ _))

end Sys2Proof.Machine
end

