-- ==== Sys2Proof/Laws/State.lean ====
section
/-! SUPPORT. State laws: each update of the state writes its own field and no other. -/

namespace Sys2Proof.Machine
open Sys2Proof

/-! ## modThr -/

@[simp] theorem State.modThr_thr (s : State) (f : Thread → Thread) : (s.modThr f).thr = f s.thr := rfl
@[simp] theorem State.modThr_cur (s : State) (f : Thread → Thread) : (s.modThr f).cur = s.cur := rfl
@[simp] theorem State.modThr_cores (s : State) (f : Thread → Thread) : (s.modThr f).cores = s.cores := rfl
@[simp] theorem State.modThr_quads (s : State) (f : Thread → Thread) : (s.modThr f).quads = s.quads := rfl
@[simp] theorem State.modThr_runnels (s : State) (f : Thread → Thread) : (s.modThr f).runnels = s.runnels := rfl
@[simp] theorem State.modThr_mem (s : State) (f : Thread → Thread) : (s.modThr f).mem = s.mem := rfl
@[simp] theorem State.modThr_late (s : State) (f : Thread → Thread) : (s.modThr f).late = s.late := rfl
@[simp] theorem State.modThr_keep (s : State) (f : Thread → Thread) : (s.modThr f).keep = s.keep := rfl
@[simp] theorem State.modThr_feWaits (s : State) (f : Thread → Thread) : (s.modThr f).feWaits = s.feWaits := rfl
@[simp] theorem State.modThr_flumeWaits (s : State) (f : Thread → Thread) : (s.modThr f).flumeWaits = s.flumeWaits := rfl
@[simp] theorem State.modThr_groupWaits (s : State) (f : Thread → Thread) : (s.modThr f).groupWaits = s.groupWaits := rfl
@[simp] theorem State.modThr_resvs (s : State) (f : Thread → Thread) : (s.modThr f).resvs = s.resvs := rfl
@[simp] theorem State.modThr_basinWaits (s : State) (f : Thread → Thread) : (s.modThr f).basinWaits = s.basinWaits := rfl
@[simp] theorem State.modThr_remoteWaits (s : State) (f : Thread → Thread) : (s.modThr f).remoteWaits = s.remoteWaits := rfl
@[simp] theorem State.modThr_packets (s : State) (f : Thread → Thread) : (s.modThr f).packets = s.packets := rfl
@[simp] theorem State.modThr_copyPtr (s : State) (f : Thread → Thread) : (s.modThr f).copyPtr = s.copyPtr := rfl
@[simp] theorem State.modThr_copyOwners (s : State) (f : Thread → Thread) : (s.modThr f).copyOwners = s.copyOwners := rfl
@[simp] theorem State.modThr_decrements (s : State) (f : Thread → Thread) : (s.modThr f).decrements = s.decrements := rfl
@[simp] theorem State.modThr_pending (s : State) (f : Thread → Thread) : (s.modThr f).pending = s.pending := rfl
@[simp] theorem State.modThr_launchFaults (s : State) (f : Thread → Thread) : (s.modThr f).launchFaults = s.launchFaults := rfl
@[simp] theorem State.modThr_ready (s : State) (f : Thread → Thread) : (s.modThr f).ready = s.ready := rfl
@[simp] theorem State.modThr_diePos (s : State) (f : Thread → Thread) : (s.modThr f).diePos = s.diePos := rfl
@[simp] theorem State.modThr_offtakes (s : State) (f : Thread → Thread) : (s.modThr f).offtakes = s.offtakes := rfl
@[simp] theorem State.modThr_arrivedAt (s : State) (f : Thread → Thread) : (s.modThr f).arrivedAt = s.arrivedAt := rfl
@[simp] theorem State.modThr_ctxs (s : State) (f : Thread → Thread) : (s.modThr f).ctxs = s.ctxs := rfl
@[simp] theorem State.modThr_saved (s : State) (f : Thread → Thread) : (s.modThr f).saved = s.saved := rfl
@[simp] theorem State.modThr_frozenMasters (s : State) (f : Thread → Thread) : (s.modThr f).frozenMasters = s.frozenMasters := rfl
@[simp] theorem State.modThr_dev (s : State) (f : Thread → Thread) : (s.modThr f).dev = s.dev := rfl
@[simp] theorem State.modThr_agenda (s : State) (f : Thread → Thread) : (s.modThr f).agenda = s.agenda := rfl
@[simp] theorem State.modThr_freeCtr (s : State) (f : Thread → Thread) : (s.modThr f).freeCtr = s.freeCtr := rfl
@[simp] theorem State.modThr_serial (s : State) (f : Thread → Thread) : (s.modThr f).serial = s.serial := rfl
@[simp] theorem State.modThr_parkOrder (s : State) (f : Thread → Thread) : (s.modThr f).parkOrder = s.parkOrder := rfl

/-! ## modDev -/

@[simp] theorem State.modDev_thr (s : State) (f : Device → Device) : (s.modDev f).thr = s.thr := rfl
@[simp] theorem State.modDev_cur (s : State) (f : Device → Device) : (s.modDev f).cur = s.cur := rfl
@[simp] theorem State.modDev_cores (s : State) (f : Device → Device) : (s.modDev f).cores = s.cores := rfl
@[simp] theorem State.modDev_quads (s : State) (f : Device → Device) : (s.modDev f).quads = s.quads := rfl
@[simp] theorem State.modDev_runnels (s : State) (f : Device → Device) : (s.modDev f).runnels = s.runnels := rfl
@[simp] theorem State.modDev_mem (s : State) (f : Device → Device) : (s.modDev f).mem = s.mem := rfl
@[simp] theorem State.modDev_late (s : State) (f : Device → Device) : (s.modDev f).late = s.late := rfl
@[simp] theorem State.modDev_keep (s : State) (f : Device → Device) : (s.modDev f).keep = s.keep := rfl
@[simp] theorem State.modDev_feWaits (s : State) (f : Device → Device) : (s.modDev f).feWaits = s.feWaits := rfl
@[simp] theorem State.modDev_flumeWaits (s : State) (f : Device → Device) : (s.modDev f).flumeWaits = s.flumeWaits := rfl
@[simp] theorem State.modDev_groupWaits (s : State) (f : Device → Device) : (s.modDev f).groupWaits = s.groupWaits := rfl
@[simp] theorem State.modDev_resvs (s : State) (f : Device → Device) : (s.modDev f).resvs = s.resvs := rfl
@[simp] theorem State.modDev_basinWaits (s : State) (f : Device → Device) : (s.modDev f).basinWaits = s.basinWaits := rfl
@[simp] theorem State.modDev_remoteWaits (s : State) (f : Device → Device) : (s.modDev f).remoteWaits = s.remoteWaits := rfl
@[simp] theorem State.modDev_packets (s : State) (f : Device → Device) : (s.modDev f).packets = s.packets := rfl
@[simp] theorem State.modDev_copyPtr (s : State) (f : Device → Device) : (s.modDev f).copyPtr = s.copyPtr := rfl
@[simp] theorem State.modDev_copyOwners (s : State) (f : Device → Device) : (s.modDev f).copyOwners = s.copyOwners := rfl
@[simp] theorem State.modDev_decrements (s : State) (f : Device → Device) : (s.modDev f).decrements = s.decrements := rfl
@[simp] theorem State.modDev_pending (s : State) (f : Device → Device) : (s.modDev f).pending = s.pending := rfl
@[simp] theorem State.modDev_launchFaults (s : State) (f : Device → Device) : (s.modDev f).launchFaults = s.launchFaults := rfl
@[simp] theorem State.modDev_ready (s : State) (f : Device → Device) : (s.modDev f).ready = s.ready := rfl
@[simp] theorem State.modDev_diePos (s : State) (f : Device → Device) : (s.modDev f).diePos = s.diePos := rfl
@[simp] theorem State.modDev_offtakes (s : State) (f : Device → Device) : (s.modDev f).offtakes = s.offtakes := rfl
@[simp] theorem State.modDev_arrivedAt (s : State) (f : Device → Device) : (s.modDev f).arrivedAt = s.arrivedAt := rfl
@[simp] theorem State.modDev_ctxs (s : State) (f : Device → Device) : (s.modDev f).ctxs = s.ctxs := rfl
@[simp] theorem State.modDev_saved (s : State) (f : Device → Device) : (s.modDev f).saved = s.saved := rfl
@[simp] theorem State.modDev_frozenMasters (s : State) (f : Device → Device) : (s.modDev f).frozenMasters = s.frozenMasters := rfl
@[simp] theorem State.modDev_dev (s : State) (f : Device → Device) : (s.modDev f).dev = f s.dev := rfl
@[simp] theorem State.modDev_agenda (s : State) (f : Device → Device) : (s.modDev f).agenda = s.agenda := rfl
@[simp] theorem State.modDev_freeCtr (s : State) (f : Device → Device) : (s.modDev f).freeCtr = s.freeCtr := rfl
@[simp] theorem State.modDev_serial (s : State) (f : Device → Device) : (s.modDev f).serial = s.serial := rfl
@[simp] theorem State.modDev_parkOrder (s : State) (f : Device → Device) : (s.modDev f).parkOrder = s.parkOrder := rfl

/-! ## modMem -/

@[simp] theorem State.modMem_thr (s : State) (f : Mem → Mem) : (s.modMem f).thr = s.thr := rfl
@[simp] theorem State.modMem_cur (s : State) (f : Mem → Mem) : (s.modMem f).cur = s.cur := rfl
@[simp] theorem State.modMem_cores (s : State) (f : Mem → Mem) : (s.modMem f).cores = s.cores := rfl
@[simp] theorem State.modMem_quads (s : State) (f : Mem → Mem) : (s.modMem f).quads = s.quads := rfl
@[simp] theorem State.modMem_runnels (s : State) (f : Mem → Mem) : (s.modMem f).runnels = s.runnels := rfl
@[simp] theorem State.modMem_mem (s : State) (f : Mem → Mem) : (s.modMem f).mem = f s.mem := rfl
@[simp] theorem State.modMem_late (s : State) (f : Mem → Mem) : (s.modMem f).late = s.late := rfl
@[simp] theorem State.modMem_keep (s : State) (f : Mem → Mem) : (s.modMem f).keep = s.keep := rfl
@[simp] theorem State.modMem_feWaits (s : State) (f : Mem → Mem) : (s.modMem f).feWaits = s.feWaits := rfl
@[simp] theorem State.modMem_flumeWaits (s : State) (f : Mem → Mem) : (s.modMem f).flumeWaits = s.flumeWaits := rfl
@[simp] theorem State.modMem_groupWaits (s : State) (f : Mem → Mem) : (s.modMem f).groupWaits = s.groupWaits := rfl
@[simp] theorem State.modMem_resvs (s : State) (f : Mem → Mem) : (s.modMem f).resvs = s.resvs := rfl
@[simp] theorem State.modMem_basinWaits (s : State) (f : Mem → Mem) : (s.modMem f).basinWaits = s.basinWaits := rfl
@[simp] theorem State.modMem_remoteWaits (s : State) (f : Mem → Mem) : (s.modMem f).remoteWaits = s.remoteWaits := rfl
@[simp] theorem State.modMem_packets (s : State) (f : Mem → Mem) : (s.modMem f).packets = s.packets := rfl
@[simp] theorem State.modMem_copyPtr (s : State) (f : Mem → Mem) : (s.modMem f).copyPtr = s.copyPtr := rfl
@[simp] theorem State.modMem_copyOwners (s : State) (f : Mem → Mem) : (s.modMem f).copyOwners = s.copyOwners := rfl
@[simp] theorem State.modMem_decrements (s : State) (f : Mem → Mem) : (s.modMem f).decrements = s.decrements := rfl
@[simp] theorem State.modMem_pending (s : State) (f : Mem → Mem) : (s.modMem f).pending = s.pending := rfl
@[simp] theorem State.modMem_launchFaults (s : State) (f : Mem → Mem) : (s.modMem f).launchFaults = s.launchFaults := rfl
@[simp] theorem State.modMem_ready (s : State) (f : Mem → Mem) : (s.modMem f).ready = s.ready := rfl
@[simp] theorem State.modMem_diePos (s : State) (f : Mem → Mem) : (s.modMem f).diePos = s.diePos := rfl
@[simp] theorem State.modMem_offtakes (s : State) (f : Mem → Mem) : (s.modMem f).offtakes = s.offtakes := rfl
@[simp] theorem State.modMem_arrivedAt (s : State) (f : Mem → Mem) : (s.modMem f).arrivedAt = s.arrivedAt := rfl
@[simp] theorem State.modMem_ctxs (s : State) (f : Mem → Mem) : (s.modMem f).ctxs = s.ctxs := rfl
@[simp] theorem State.modMem_saved (s : State) (f : Mem → Mem) : (s.modMem f).saved = s.saved := rfl
@[simp] theorem State.modMem_frozenMasters (s : State) (f : Mem → Mem) : (s.modMem f).frozenMasters = s.frozenMasters := rfl
@[simp] theorem State.modMem_dev (s : State) (f : Mem → Mem) : (s.modMem f).dev = s.dev := rfl
@[simp] theorem State.modMem_agenda (s : State) (f : Mem → Mem) : (s.modMem f).agenda = s.agenda := rfl
@[simp] theorem State.modMem_freeCtr (s : State) (f : Mem → Mem) : (s.modMem f).freeCtr = s.freeCtr := rfl
@[simp] theorem State.modMem_serial (s : State) (f : Mem → Mem) : (s.modMem f).serial = s.serial := rfl
@[simp] theorem State.modMem_parkOrder (s : State) (f : Mem → Mem) : (s.modMem f).parkOrder = s.parkOrder := rfl

/-! ## setCore -/

@[simp] theorem State.setCore_thr (s : State) (c : Nat) (v : CoreSt) : (s.setCore c v).thr = s.thr := rfl
@[simp] theorem State.setCore_cur (s : State) (c : Nat) (v : CoreSt) : (s.setCore c v).cur = s.cur := rfl
@[simp] theorem State.setCore_cores (s : State) (c : Nat) (v : CoreSt) : (s.setCore c v).cores = setK c v s.cores := rfl
@[simp] theorem State.setCore_quads (s : State) (c : Nat) (v : CoreSt) : (s.setCore c v).quads = s.quads := rfl
@[simp] theorem State.setCore_runnels (s : State) (c : Nat) (v : CoreSt) : (s.setCore c v).runnels = s.runnels := rfl
@[simp] theorem State.setCore_mem (s : State) (c : Nat) (v : CoreSt) : (s.setCore c v).mem = s.mem := rfl
@[simp] theorem State.setCore_late (s : State) (c : Nat) (v : CoreSt) : (s.setCore c v).late = s.late := rfl
@[simp] theorem State.setCore_keep (s : State) (c : Nat) (v : CoreSt) : (s.setCore c v).keep = s.keep := rfl
@[simp] theorem State.setCore_feWaits (s : State) (c : Nat) (v : CoreSt) : (s.setCore c v).feWaits = s.feWaits := rfl
@[simp] theorem State.setCore_flumeWaits (s : State) (c : Nat) (v : CoreSt) : (s.setCore c v).flumeWaits = s.flumeWaits := rfl
@[simp] theorem State.setCore_groupWaits (s : State) (c : Nat) (v : CoreSt) : (s.setCore c v).groupWaits = s.groupWaits := rfl
@[simp] theorem State.setCore_resvs (s : State) (c : Nat) (v : CoreSt) : (s.setCore c v).resvs = s.resvs := rfl
@[simp] theorem State.setCore_basinWaits (s : State) (c : Nat) (v : CoreSt) : (s.setCore c v).basinWaits = s.basinWaits := rfl
@[simp] theorem State.setCore_remoteWaits (s : State) (c : Nat) (v : CoreSt) : (s.setCore c v).remoteWaits = s.remoteWaits := rfl
@[simp] theorem State.setCore_packets (s : State) (c : Nat) (v : CoreSt) : (s.setCore c v).packets = s.packets := rfl
@[simp] theorem State.setCore_copyPtr (s : State) (c : Nat) (v : CoreSt) : (s.setCore c v).copyPtr = s.copyPtr := rfl
@[simp] theorem State.setCore_copyOwners (s : State) (c : Nat) (v : CoreSt) : (s.setCore c v).copyOwners = s.copyOwners := rfl
@[simp] theorem State.setCore_decrements (s : State) (c : Nat) (v : CoreSt) : (s.setCore c v).decrements = s.decrements := rfl
@[simp] theorem State.setCore_pending (s : State) (c : Nat) (v : CoreSt) : (s.setCore c v).pending = s.pending := rfl
@[simp] theorem State.setCore_launchFaults (s : State) (c : Nat) (v : CoreSt) : (s.setCore c v).launchFaults = s.launchFaults := rfl
@[simp] theorem State.setCore_ready (s : State) (c : Nat) (v : CoreSt) : (s.setCore c v).ready = s.ready := rfl
@[simp] theorem State.setCore_diePos (s : State) (c : Nat) (v : CoreSt) : (s.setCore c v).diePos = s.diePos := rfl
@[simp] theorem State.setCore_offtakes (s : State) (c : Nat) (v : CoreSt) : (s.setCore c v).offtakes = s.offtakes := rfl
@[simp] theorem State.setCore_arrivedAt (s : State) (c : Nat) (v : CoreSt) : (s.setCore c v).arrivedAt = s.arrivedAt := rfl
@[simp] theorem State.setCore_ctxs (s : State) (c : Nat) (v : CoreSt) : (s.setCore c v).ctxs = s.ctxs := rfl
@[simp] theorem State.setCore_saved (s : State) (c : Nat) (v : CoreSt) : (s.setCore c v).saved = s.saved := rfl
@[simp] theorem State.setCore_frozenMasters (s : State) (c : Nat) (v : CoreSt) : (s.setCore c v).frozenMasters = s.frozenMasters := rfl
@[simp] theorem State.setCore_dev (s : State) (c : Nat) (v : CoreSt) : (s.setCore c v).dev = s.dev := rfl
@[simp] theorem State.setCore_agenda (s : State) (c : Nat) (v : CoreSt) : (s.setCore c v).agenda = s.agenda := rfl
@[simp] theorem State.setCore_freeCtr (s : State) (c : Nat) (v : CoreSt) : (s.setCore c v).freeCtr = s.freeCtr := rfl
@[simp] theorem State.setCore_serial (s : State) (c : Nat) (v : CoreSt) : (s.setCore c v).serial = s.serial := rfl
@[simp] theorem State.setCore_parkOrder (s : State) (c : Nat) (v : CoreSt) : (s.setCore c v).parkOrder = s.parkOrder := rfl

/-! ## setQuad -/

@[simp] theorem State.setQuad_thr (s : State) (q : Nat) (v : QuadSt) : (s.setQuad q v).thr = s.thr := rfl
@[simp] theorem State.setQuad_cur (s : State) (q : Nat) (v : QuadSt) : (s.setQuad q v).cur = s.cur := rfl
@[simp] theorem State.setQuad_cores (s : State) (q : Nat) (v : QuadSt) : (s.setQuad q v).cores = s.cores := rfl
@[simp] theorem State.setQuad_quads (s : State) (q : Nat) (v : QuadSt) : (s.setQuad q v).quads = setK q v s.quads := rfl
@[simp] theorem State.setQuad_runnels (s : State) (q : Nat) (v : QuadSt) : (s.setQuad q v).runnels = s.runnels := rfl
@[simp] theorem State.setQuad_mem (s : State) (q : Nat) (v : QuadSt) : (s.setQuad q v).mem = s.mem := rfl
@[simp] theorem State.setQuad_late (s : State) (q : Nat) (v : QuadSt) : (s.setQuad q v).late = s.late := rfl
@[simp] theorem State.setQuad_keep (s : State) (q : Nat) (v : QuadSt) : (s.setQuad q v).keep = s.keep := rfl
@[simp] theorem State.setQuad_feWaits (s : State) (q : Nat) (v : QuadSt) : (s.setQuad q v).feWaits = s.feWaits := rfl
@[simp] theorem State.setQuad_flumeWaits (s : State) (q : Nat) (v : QuadSt) : (s.setQuad q v).flumeWaits = s.flumeWaits := rfl
@[simp] theorem State.setQuad_groupWaits (s : State) (q : Nat) (v : QuadSt) : (s.setQuad q v).groupWaits = s.groupWaits := rfl
@[simp] theorem State.setQuad_resvs (s : State) (q : Nat) (v : QuadSt) : (s.setQuad q v).resvs = s.resvs := rfl
@[simp] theorem State.setQuad_basinWaits (s : State) (q : Nat) (v : QuadSt) : (s.setQuad q v).basinWaits = s.basinWaits := rfl
@[simp] theorem State.setQuad_remoteWaits (s : State) (q : Nat) (v : QuadSt) : (s.setQuad q v).remoteWaits = s.remoteWaits := rfl
@[simp] theorem State.setQuad_packets (s : State) (q : Nat) (v : QuadSt) : (s.setQuad q v).packets = s.packets := rfl
@[simp] theorem State.setQuad_copyPtr (s : State) (q : Nat) (v : QuadSt) : (s.setQuad q v).copyPtr = s.copyPtr := rfl
@[simp] theorem State.setQuad_copyOwners (s : State) (q : Nat) (v : QuadSt) : (s.setQuad q v).copyOwners = s.copyOwners := rfl
@[simp] theorem State.setQuad_decrements (s : State) (q : Nat) (v : QuadSt) : (s.setQuad q v).decrements = s.decrements := rfl
@[simp] theorem State.setQuad_pending (s : State) (q : Nat) (v : QuadSt) : (s.setQuad q v).pending = s.pending := rfl
@[simp] theorem State.setQuad_launchFaults (s : State) (q : Nat) (v : QuadSt) : (s.setQuad q v).launchFaults = s.launchFaults := rfl
@[simp] theorem State.setQuad_ready (s : State) (q : Nat) (v : QuadSt) : (s.setQuad q v).ready = s.ready := rfl
@[simp] theorem State.setQuad_diePos (s : State) (q : Nat) (v : QuadSt) : (s.setQuad q v).diePos = s.diePos := rfl
@[simp] theorem State.setQuad_offtakes (s : State) (q : Nat) (v : QuadSt) : (s.setQuad q v).offtakes = s.offtakes := rfl
@[simp] theorem State.setQuad_arrivedAt (s : State) (q : Nat) (v : QuadSt) : (s.setQuad q v).arrivedAt = s.arrivedAt := rfl
@[simp] theorem State.setQuad_ctxs (s : State) (q : Nat) (v : QuadSt) : (s.setQuad q v).ctxs = s.ctxs := rfl
@[simp] theorem State.setQuad_saved (s : State) (q : Nat) (v : QuadSt) : (s.setQuad q v).saved = s.saved := rfl
@[simp] theorem State.setQuad_frozenMasters (s : State) (q : Nat) (v : QuadSt) : (s.setQuad q v).frozenMasters = s.frozenMasters := rfl
@[simp] theorem State.setQuad_dev (s : State) (q : Nat) (v : QuadSt) : (s.setQuad q v).dev = s.dev := rfl
@[simp] theorem State.setQuad_agenda (s : State) (q : Nat) (v : QuadSt) : (s.setQuad q v).agenda = s.agenda := rfl
@[simp] theorem State.setQuad_freeCtr (s : State) (q : Nat) (v : QuadSt) : (s.setQuad q v).freeCtr = s.freeCtr := rfl
@[simp] theorem State.setQuad_serial (s : State) (q : Nat) (v : QuadSt) : (s.setQuad q v).serial = s.serial := rfl
@[simp] theorem State.setQuad_parkOrder (s : State) (q : Nat) (v : QuadSt) : (s.setQuad q v).parkOrder = s.parkOrder := rfl

/-! ## setOcc -/

@[simp] theorem State.setOcc_thr (s : State) (c i : Nat) (o : Occ) : (s.setOcc c i o).thr = s.thr := rfl
@[simp] theorem State.setOcc_cur (s : State) (c i : Nat) (o : Occ) : (s.setOcc c i o).cur = s.cur := rfl
@[simp] theorem State.setOcc_quads (s : State) (c i : Nat) (o : Occ) : (s.setOcc c i o).quads = s.quads := rfl
@[simp] theorem State.setOcc_runnels (s : State) (c i : Nat) (o : Occ) : (s.setOcc c i o).runnels = s.runnels := rfl
@[simp] theorem State.setOcc_mem (s : State) (c i : Nat) (o : Occ) : (s.setOcc c i o).mem = s.mem := rfl
@[simp] theorem State.setOcc_late (s : State) (c i : Nat) (o : Occ) : (s.setOcc c i o).late = s.late := rfl
@[simp] theorem State.setOcc_keep (s : State) (c i : Nat) (o : Occ) : (s.setOcc c i o).keep = s.keep := rfl
@[simp] theorem State.setOcc_feWaits (s : State) (c i : Nat) (o : Occ) : (s.setOcc c i o).feWaits = s.feWaits := rfl
@[simp] theorem State.setOcc_flumeWaits (s : State) (c i : Nat) (o : Occ) : (s.setOcc c i o).flumeWaits = s.flumeWaits := rfl
@[simp] theorem State.setOcc_groupWaits (s : State) (c i : Nat) (o : Occ) : (s.setOcc c i o).groupWaits = s.groupWaits := rfl
@[simp] theorem State.setOcc_resvs (s : State) (c i : Nat) (o : Occ) : (s.setOcc c i o).resvs = s.resvs := rfl
@[simp] theorem State.setOcc_basinWaits (s : State) (c i : Nat) (o : Occ) : (s.setOcc c i o).basinWaits = s.basinWaits := rfl
@[simp] theorem State.setOcc_remoteWaits (s : State) (c i : Nat) (o : Occ) : (s.setOcc c i o).remoteWaits = s.remoteWaits := rfl
@[simp] theorem State.setOcc_packets (s : State) (c i : Nat) (o : Occ) : (s.setOcc c i o).packets = s.packets := rfl
@[simp] theorem State.setOcc_copyPtr (s : State) (c i : Nat) (o : Occ) : (s.setOcc c i o).copyPtr = s.copyPtr := rfl
@[simp] theorem State.setOcc_copyOwners (s : State) (c i : Nat) (o : Occ) : (s.setOcc c i o).copyOwners = s.copyOwners := rfl
@[simp] theorem State.setOcc_decrements (s : State) (c i : Nat) (o : Occ) : (s.setOcc c i o).decrements = s.decrements := rfl
@[simp] theorem State.setOcc_pending (s : State) (c i : Nat) (o : Occ) : (s.setOcc c i o).pending = s.pending := rfl
@[simp] theorem State.setOcc_launchFaults (s : State) (c i : Nat) (o : Occ) : (s.setOcc c i o).launchFaults = s.launchFaults := rfl
@[simp] theorem State.setOcc_ready (s : State) (c i : Nat) (o : Occ) : (s.setOcc c i o).ready = s.ready := rfl
@[simp] theorem State.setOcc_diePos (s : State) (c i : Nat) (o : Occ) : (s.setOcc c i o).diePos = s.diePos := rfl
@[simp] theorem State.setOcc_offtakes (s : State) (c i : Nat) (o : Occ) : (s.setOcc c i o).offtakes = s.offtakes := rfl
@[simp] theorem State.setOcc_arrivedAt (s : State) (c i : Nat) (o : Occ) : (s.setOcc c i o).arrivedAt = s.arrivedAt := rfl
@[simp] theorem State.setOcc_ctxs (s : State) (c i : Nat) (o : Occ) : (s.setOcc c i o).ctxs = s.ctxs := rfl
@[simp] theorem State.setOcc_saved (s : State) (c i : Nat) (o : Occ) : (s.setOcc c i o).saved = s.saved := rfl
@[simp] theorem State.setOcc_frozenMasters (s : State) (c i : Nat) (o : Occ) : (s.setOcc c i o).frozenMasters = s.frozenMasters := rfl
@[simp] theorem State.setOcc_dev (s : State) (c i : Nat) (o : Occ) : (s.setOcc c i o).dev = s.dev := rfl
@[simp] theorem State.setOcc_agenda (s : State) (c i : Nat) (o : Occ) : (s.setOcc c i o).agenda = s.agenda := rfl
@[simp] theorem State.setOcc_freeCtr (s : State) (c i : Nat) (o : Occ) : (s.setOcc c i o).freeCtr = s.freeCtr := rfl
@[simp] theorem State.setOcc_serial (s : State) (c i : Nat) (o : Occ) : (s.setOcc c i o).serial = s.serial := rfl
@[simp] theorem State.setOcc_parkOrder (s : State) (c i : Nat) (o : Occ) : (s.setOcc c i o).parkOrder = s.parkOrder := rfl

/-! ## modCtx -/

@[simp] theorem State.modCtx_thr (s : State) (c : Nat) (f : Ctx → Ctx) : (s.modCtx c f).thr = s.thr := rfl
@[simp] theorem State.modCtx_cur (s : State) (c : Nat) (f : Ctx → Ctx) : (s.modCtx c f).cur = s.cur := rfl
@[simp] theorem State.modCtx_cores (s : State) (c : Nat) (f : Ctx → Ctx) : (s.modCtx c f).cores = s.cores := rfl
@[simp] theorem State.modCtx_quads (s : State) (c : Nat) (f : Ctx → Ctx) : (s.modCtx c f).quads = s.quads := rfl
@[simp] theorem State.modCtx_runnels (s : State) (c : Nat) (f : Ctx → Ctx) : (s.modCtx c f).runnels = s.runnels := rfl
@[simp] theorem State.modCtx_mem (s : State) (c : Nat) (f : Ctx → Ctx) : (s.modCtx c f).mem = s.mem := rfl
@[simp] theorem State.modCtx_late (s : State) (c : Nat) (f : Ctx → Ctx) : (s.modCtx c f).late = s.late := rfl
@[simp] theorem State.modCtx_keep (s : State) (c : Nat) (f : Ctx → Ctx) : (s.modCtx c f).keep = s.keep := rfl
@[simp] theorem State.modCtx_feWaits (s : State) (c : Nat) (f : Ctx → Ctx) : (s.modCtx c f).feWaits = s.feWaits := rfl
@[simp] theorem State.modCtx_flumeWaits (s : State) (c : Nat) (f : Ctx → Ctx) : (s.modCtx c f).flumeWaits = s.flumeWaits := rfl
@[simp] theorem State.modCtx_groupWaits (s : State) (c : Nat) (f : Ctx → Ctx) : (s.modCtx c f).groupWaits = s.groupWaits := rfl
@[simp] theorem State.modCtx_resvs (s : State) (c : Nat) (f : Ctx → Ctx) : (s.modCtx c f).resvs = s.resvs := rfl
@[simp] theorem State.modCtx_basinWaits (s : State) (c : Nat) (f : Ctx → Ctx) : (s.modCtx c f).basinWaits = s.basinWaits := rfl
@[simp] theorem State.modCtx_remoteWaits (s : State) (c : Nat) (f : Ctx → Ctx) : (s.modCtx c f).remoteWaits = s.remoteWaits := rfl
@[simp] theorem State.modCtx_packets (s : State) (c : Nat) (f : Ctx → Ctx) : (s.modCtx c f).packets = s.packets := rfl
@[simp] theorem State.modCtx_copyPtr (s : State) (c : Nat) (f : Ctx → Ctx) : (s.modCtx c f).copyPtr = s.copyPtr := rfl
@[simp] theorem State.modCtx_copyOwners (s : State) (c : Nat) (f : Ctx → Ctx) : (s.modCtx c f).copyOwners = s.copyOwners := rfl
@[simp] theorem State.modCtx_decrements (s : State) (c : Nat) (f : Ctx → Ctx) : (s.modCtx c f).decrements = s.decrements := rfl
@[simp] theorem State.modCtx_pending (s : State) (c : Nat) (f : Ctx → Ctx) : (s.modCtx c f).pending = s.pending := rfl
@[simp] theorem State.modCtx_launchFaults (s : State) (c : Nat) (f : Ctx → Ctx) : (s.modCtx c f).launchFaults = s.launchFaults := rfl
@[simp] theorem State.modCtx_ready (s : State) (c : Nat) (f : Ctx → Ctx) : (s.modCtx c f).ready = s.ready := rfl
@[simp] theorem State.modCtx_diePos (s : State) (c : Nat) (f : Ctx → Ctx) : (s.modCtx c f).diePos = s.diePos := rfl
@[simp] theorem State.modCtx_offtakes (s : State) (c : Nat) (f : Ctx → Ctx) : (s.modCtx c f).offtakes = s.offtakes := rfl
@[simp] theorem State.modCtx_arrivedAt (s : State) (c : Nat) (f : Ctx → Ctx) : (s.modCtx c f).arrivedAt = s.arrivedAt := rfl
@[simp] theorem State.modCtx_saved (s : State) (c : Nat) (f : Ctx → Ctx) : (s.modCtx c f).saved = s.saved := rfl
@[simp] theorem State.modCtx_frozenMasters (s : State) (c : Nat) (f : Ctx → Ctx) : (s.modCtx c f).frozenMasters = s.frozenMasters := rfl
@[simp] theorem State.modCtx_dev (s : State) (c : Nat) (f : Ctx → Ctx) : (s.modCtx c f).dev = s.dev := rfl
@[simp] theorem State.modCtx_agenda (s : State) (c : Nat) (f : Ctx → Ctx) : (s.modCtx c f).agenda = s.agenda := rfl
@[simp] theorem State.modCtx_freeCtr (s : State) (c : Nat) (f : Ctx → Ctx) : (s.modCtx c f).freeCtr = s.freeCtr := rfl
@[simp] theorem State.modCtx_serial (s : State) (c : Nat) (f : Ctx → Ctx) : (s.modCtx c f).serial = s.serial := rfl
@[simp] theorem State.modCtx_parkOrder (s : State) (c : Nat) (f : Ctx → Ctx) : (s.modCtx c f).parkOrder = s.parkOrder := rfl

/-! ## setCtx -/

@[simp] theorem State.setCtx_thr (s : State) (x : Ctx) : (s.setCtx x).thr = s.thr := rfl
@[simp] theorem State.setCtx_cur (s : State) (x : Ctx) : (s.setCtx x).cur = s.cur := rfl
@[simp] theorem State.setCtx_cores (s : State) (x : Ctx) : (s.setCtx x).cores = s.cores := rfl
@[simp] theorem State.setCtx_quads (s : State) (x : Ctx) : (s.setCtx x).quads = s.quads := rfl
@[simp] theorem State.setCtx_runnels (s : State) (x : Ctx) : (s.setCtx x).runnels = s.runnels := rfl
@[simp] theorem State.setCtx_mem (s : State) (x : Ctx) : (s.setCtx x).mem = s.mem := rfl
@[simp] theorem State.setCtx_late (s : State) (x : Ctx) : (s.setCtx x).late = s.late := rfl
@[simp] theorem State.setCtx_keep (s : State) (x : Ctx) : (s.setCtx x).keep = s.keep := rfl
@[simp] theorem State.setCtx_feWaits (s : State) (x : Ctx) : (s.setCtx x).feWaits = s.feWaits := rfl
@[simp] theorem State.setCtx_flumeWaits (s : State) (x : Ctx) : (s.setCtx x).flumeWaits = s.flumeWaits := rfl
@[simp] theorem State.setCtx_groupWaits (s : State) (x : Ctx) : (s.setCtx x).groupWaits = s.groupWaits := rfl
@[simp] theorem State.setCtx_resvs (s : State) (x : Ctx) : (s.setCtx x).resvs = s.resvs := rfl
@[simp] theorem State.setCtx_basinWaits (s : State) (x : Ctx) : (s.setCtx x).basinWaits = s.basinWaits := rfl
@[simp] theorem State.setCtx_remoteWaits (s : State) (x : Ctx) : (s.setCtx x).remoteWaits = s.remoteWaits := rfl
@[simp] theorem State.setCtx_packets (s : State) (x : Ctx) : (s.setCtx x).packets = s.packets := rfl
@[simp] theorem State.setCtx_copyPtr (s : State) (x : Ctx) : (s.setCtx x).copyPtr = s.copyPtr := rfl
@[simp] theorem State.setCtx_copyOwners (s : State) (x : Ctx) : (s.setCtx x).copyOwners = s.copyOwners := rfl
@[simp] theorem State.setCtx_decrements (s : State) (x : Ctx) : (s.setCtx x).decrements = s.decrements := rfl
@[simp] theorem State.setCtx_pending (s : State) (x : Ctx) : (s.setCtx x).pending = s.pending := rfl
@[simp] theorem State.setCtx_launchFaults (s : State) (x : Ctx) : (s.setCtx x).launchFaults = s.launchFaults := rfl
@[simp] theorem State.setCtx_ready (s : State) (x : Ctx) : (s.setCtx x).ready = s.ready := rfl
@[simp] theorem State.setCtx_diePos (s : State) (x : Ctx) : (s.setCtx x).diePos = s.diePos := rfl
@[simp] theorem State.setCtx_offtakes (s : State) (x : Ctx) : (s.setCtx x).offtakes = s.offtakes := rfl
@[simp] theorem State.setCtx_arrivedAt (s : State) (x : Ctx) : (s.setCtx x).arrivedAt = s.arrivedAt := rfl
@[simp] theorem State.setCtx_saved (s : State) (x : Ctx) : (s.setCtx x).saved = s.saved := rfl
@[simp] theorem State.setCtx_frozenMasters (s : State) (x : Ctx) : (s.setCtx x).frozenMasters = s.frozenMasters := rfl
@[simp] theorem State.setCtx_dev (s : State) (x : Ctx) : (s.setCtx x).dev = s.dev := rfl
@[simp] theorem State.setCtx_agenda (s : State) (x : Ctx) : (s.setCtx x).agenda = s.agenda := rfl
@[simp] theorem State.setCtx_freeCtr (s : State) (x : Ctx) : (s.setCtx x).freeCtr = s.freeCtr := rfl
@[simp] theorem State.setCtx_serial (s : State) (x : Ctx) : (s.setCtx x).serial = s.serial := rfl
@[simp] theorem State.setCtx_parkOrder (s : State) (x : Ctx) : (s.setCtx x).parkOrder = s.parkOrder := rfl

/-! ## setRunnel -/

@[simp] theorem State.setRunnel_thr (s : State) (src dir : Nat) (es : List RunEntry) : (s.setRunnel src dir es).thr = s.thr := rfl
@[simp] theorem State.setRunnel_cur (s : State) (src dir : Nat) (es : List RunEntry) : (s.setRunnel src dir es).cur = s.cur := rfl
@[simp] theorem State.setRunnel_cores (s : State) (src dir : Nat) (es : List RunEntry) : (s.setRunnel src dir es).cores = s.cores := rfl
@[simp] theorem State.setRunnel_quads (s : State) (src dir : Nat) (es : List RunEntry) : (s.setRunnel src dir es).quads = s.quads := rfl
@[simp] theorem State.setRunnel_mem (s : State) (src dir : Nat) (es : List RunEntry) : (s.setRunnel src dir es).mem = s.mem := rfl
@[simp] theorem State.setRunnel_late (s : State) (src dir : Nat) (es : List RunEntry) : (s.setRunnel src dir es).late = s.late := rfl
@[simp] theorem State.setRunnel_keep (s : State) (src dir : Nat) (es : List RunEntry) : (s.setRunnel src dir es).keep = s.keep := rfl
@[simp] theorem State.setRunnel_feWaits (s : State) (src dir : Nat) (es : List RunEntry) : (s.setRunnel src dir es).feWaits = s.feWaits := rfl
@[simp] theorem State.setRunnel_flumeWaits (s : State) (src dir : Nat) (es : List RunEntry) : (s.setRunnel src dir es).flumeWaits = s.flumeWaits := rfl
@[simp] theorem State.setRunnel_groupWaits (s : State) (src dir : Nat) (es : List RunEntry) : (s.setRunnel src dir es).groupWaits = s.groupWaits := rfl
@[simp] theorem State.setRunnel_resvs (s : State) (src dir : Nat) (es : List RunEntry) : (s.setRunnel src dir es).resvs = s.resvs := rfl
@[simp] theorem State.setRunnel_basinWaits (s : State) (src dir : Nat) (es : List RunEntry) : (s.setRunnel src dir es).basinWaits = s.basinWaits := rfl
@[simp] theorem State.setRunnel_remoteWaits (s : State) (src dir : Nat) (es : List RunEntry) : (s.setRunnel src dir es).remoteWaits = s.remoteWaits := rfl
@[simp] theorem State.setRunnel_packets (s : State) (src dir : Nat) (es : List RunEntry) : (s.setRunnel src dir es).packets = s.packets := rfl
@[simp] theorem State.setRunnel_copyPtr (s : State) (src dir : Nat) (es : List RunEntry) : (s.setRunnel src dir es).copyPtr = s.copyPtr := rfl
@[simp] theorem State.setRunnel_copyOwners (s : State) (src dir : Nat) (es : List RunEntry) : (s.setRunnel src dir es).copyOwners = s.copyOwners := rfl
@[simp] theorem State.setRunnel_decrements (s : State) (src dir : Nat) (es : List RunEntry) : (s.setRunnel src dir es).decrements = s.decrements := rfl
@[simp] theorem State.setRunnel_pending (s : State) (src dir : Nat) (es : List RunEntry) : (s.setRunnel src dir es).pending = s.pending := rfl
@[simp] theorem State.setRunnel_launchFaults (s : State) (src dir : Nat) (es : List RunEntry) : (s.setRunnel src dir es).launchFaults = s.launchFaults := rfl
@[simp] theorem State.setRunnel_ready (s : State) (src dir : Nat) (es : List RunEntry) : (s.setRunnel src dir es).ready = s.ready := rfl
@[simp] theorem State.setRunnel_diePos (s : State) (src dir : Nat) (es : List RunEntry) : (s.setRunnel src dir es).diePos = s.diePos := rfl
@[simp] theorem State.setRunnel_offtakes (s : State) (src dir : Nat) (es : List RunEntry) : (s.setRunnel src dir es).offtakes = s.offtakes := rfl
@[simp] theorem State.setRunnel_arrivedAt (s : State) (src dir : Nat) (es : List RunEntry) : (s.setRunnel src dir es).arrivedAt = s.arrivedAt := rfl
@[simp] theorem State.setRunnel_ctxs (s : State) (src dir : Nat) (es : List RunEntry) : (s.setRunnel src dir es).ctxs = s.ctxs := rfl
@[simp] theorem State.setRunnel_saved (s : State) (src dir : Nat) (es : List RunEntry) : (s.setRunnel src dir es).saved = s.saved := rfl
@[simp] theorem State.setRunnel_frozenMasters (s : State) (src dir : Nat) (es : List RunEntry) : (s.setRunnel src dir es).frozenMasters = s.frozenMasters := rfl
@[simp] theorem State.setRunnel_dev (s : State) (src dir : Nat) (es : List RunEntry) : (s.setRunnel src dir es).dev = s.dev := rfl
@[simp] theorem State.setRunnel_agenda (s : State) (src dir : Nat) (es : List RunEntry) : (s.setRunnel src dir es).agenda = s.agenda := rfl
@[simp] theorem State.setRunnel_freeCtr (s : State) (src dir : Nat) (es : List RunEntry) : (s.setRunnel src dir es).freeCtr = s.freeCtr := rfl
@[simp] theorem State.setRunnel_serial (s : State) (src dir : Nat) (es : List RunEntry) : (s.setRunnel src dir es).serial = s.serial := rfl
@[simp] theorem State.setRunnel_parkOrder (s : State) (src dir : Nat) (es : List RunEntry) : (s.setRunnel src dir es).parkOrder = s.parkOrder := rfl

/-! ## A thread: setVreg -/

@[simp] theorem Thread.setVreg_ctx (t : Thread) (v : VReg) (x : VRegVal) : (t.setVreg v x).ctx = t.ctx := rfl
@[simp] theorem Thread.setVreg_recIx (t : Thread) (v : VReg) (x : VRegVal) : (t.setVreg v x).recIx = t.recIx := rfl
@[simp] theorem Thread.setVreg_pc (t : Thread) (v : VReg) (x : VRegVal) : (t.setVreg v x).pc = t.pc := rfl
@[simp] theorem Thread.setVreg_maph (t : Thread) (v : VReg) (x : VRegVal) : (t.setVreg v x).maph = t.maph := rfl
@[simp] theorem Thread.setVreg_names (t : Thread) (v : VReg) (x : VRegVal) : (t.setVreg v x).names = t.names := rfl
@[simp] theorem Thread.setVreg_flags (t : Thread) (v : VReg) (x : VRegVal) : (t.setVreg v x).flags = t.flags := rfl
@[simp] theorem Thread.setVreg_privl (t : Thread) (v : VReg) (x : VRegVal) : (t.setVreg v x).privl = t.privl := rfl
@[simp] theorem Thread.setVreg_trapc (t : Thread) (v : VReg) (x : VRegVal) : (t.setVreg v x).trapc = t.trapc := rfl
@[simp] theorem Thread.setVreg_trappc (t : Thread) (v : VReg) (x : VRegVal) : (t.setVreg v x).trappc = t.trappc := rfl
@[simp] theorem Thread.setVreg_trapx (t : Thread) (v : VReg) (x : VRegVal) : (t.setVreg v x).trapx = t.trapx := rfl
@[simp] theorem Thread.setVreg_trapa (t : Thread) (v : VReg) (x : VRegVal) : (t.setVreg v x).trapa = t.trapa := rfl
@[simp] theorem Thread.setVreg_trapv (t : Thread) (v : VReg) (x : VRegVal) : (t.setVreg v x).trapv = t.trapv := rfl
@[simp] theorem Thread.setVreg_traprec (t : Thread) (v : VReg) (x : VRegVal) : (t.setVreg v x).traprec = t.traprec := rfl
@[simp] theorem Thread.setVreg_toks (t : Thread) (v : VReg) (x : VRegVal) : (t.setVreg v x).toks = t.toks := rfl
@[simp] theorem Thread.setVreg_srngc (t : Thread) (v : VReg) (x : VRegVal) : (t.setVreg v x).srngc = t.srngc := rfl
@[simp] theorem Thread.setVreg_dbgctl (t : Thread) (v : VReg) (x : VRegVal) : (t.setVreg v x).dbgctl = t.dbgctl := rfl
@[simp] theorem Thread.setVreg_dbga (t : Thread) (v : VReg) (x : VRegVal) : (t.setVreg v x).dbga = t.dbga := rfl
@[simp] theorem Thread.setVreg_dbgm (t : Thread) (v : VReg) (x : VRegVal) : (t.setVreg v x).dbgm = t.dbgm := rfl
@[simp] theorem Thread.setVreg_groups (t : Thread) (v : VReg) (x : VRegVal) : (t.setVreg v x).groups = t.groups := rfl
@[simp] theorem Thread.setVreg_cmt (t : Thread) (v : VReg) (x : VRegVal) : (t.setVreg v x).cmt = t.cmt := rfl
@[simp] theorem Thread.setVreg_rsl (t : Thread) (v : VReg) (x : VRegVal) : (t.setVreg v x).rsl = t.rsl := rfl
@[simp] theorem Thread.setVreg_aff (t : Thread) (v : VReg) (x : VRegVal) : (t.setVreg v x).aff = t.aff := rfl
@[simp] theorem Thread.setVreg_span (t : Thread) (v : VReg) (x : VRegVal) : (t.setVreg v x).span = t.span := rfl
@[simp] theorem Thread.setVreg_inflight (t : Thread) (v : VReg) (x : VRegVal) : (t.setVreg v x).inflight = t.inflight := rfl
@[simp] theorem Thread.setVreg_rep (t : Thread) (v : VReg) (x : VRegVal) : (t.setVreg v x).rep = t.rep := rfl
@[simp] theorem Thread.setVreg_ir (t : Thread) (v : VReg) (x : VRegVal) : (t.setVreg v x).ir = t.ir := rfl
@[simp] theorem Thread.setVreg_wait (t : Thread) (v : VReg) (x : VRegVal) : (t.setVreg v x).wait = t.wait := rfl
@[simp] theorem Thread.setVreg_reads (t : Thread) (v : VReg) (x : VRegVal) : (t.setVreg v x).reads = t.reads := rfl
@[simp] theorem Thread.setVreg_pops (t : Thread) (v : VReg) (x : VRegVal) : (t.setVreg v x).pops = t.pops := rfl
@[simp] theorem Thread.setVreg_pushes (t : Thread) (v : VReg) (x : VRegVal) : (t.setVreg v x).pushes = t.pushes := rfl
@[simp] theorem Thread.setVreg_pushing (t : Thread) (v : VReg) (x : VRegVal) : (t.setVreg v x).pushing = t.pushing := rfl
@[simp] theorem Thread.setVreg_pendTrap (t : Thread) (v : VReg) (x : VRegVal) : (t.setVreg v x).pendTrap = t.pendTrap := rfl
@[simp] theorem Thread.setVreg_asyncErr (t : Thread) (v : VReg) (x : VRegVal) : (t.setVreg v x).asyncErr = t.asyncErr := rfl
@[simp] theorem Thread.setVreg_frozen (t : Thread) (v : VReg) (x : VRegVal) : (t.setVreg v x).frozen = t.frozen := rfl
@[simp] theorem Thread.setVreg_handler (t : Thread) (v : VReg) (x : VRegVal) : (t.setVreg v x).handler = t.handler := rfl
@[simp] theorem Thread.setVreg_launch (t : Thread) (v : VReg) (x : VRegVal) : (t.setVreg v x).launch = t.launch := rfl
@[simp] theorem Thread.setVreg_code (t : Thread) (v : VReg) (x : VRegVal) : (t.setVreg v x).code = t.code := rfl
@[simp] theorem Thread.setVreg_codeView (t : Thread) (v : VReg) (x : VRegVal) : (t.setVreg v x).codeView = t.codeView := rfl
@[simp] theorem Thread.setVreg_shadows (t : Thread) (v : VReg) (x : VRegVal) : (t.setVreg v x).shadows = t.shadows := rfl
@[simp] theorem Thread.setVreg_exp (t : Thread) (v : VReg) (x : VRegVal) : (t.setVreg v x).exp = t.exp := rfl
@[simp] theorem Thread.setVreg_retry (t : Thread) (v : VReg) (x : VRegVal) : (t.setVreg v x).retry = t.retry := rfl
@[simp] theorem Thread.setVreg_acq (t : Thread) (v : VReg) (x : VRegVal) : (t.setVreg v x).acq = t.acq := rfl
@[simp] theorem Thread.setVreg_placing (t : Thread) (v : VReg) (x : VRegVal) : (t.setVreg v x).placing = t.placing := rfl
@[simp] theorem Thread.setVreg_out (t : Thread) (v : VReg) (x : VRegVal) : (t.setVreg v x).out = t.out := rfl
@[simp] theorem Thread.setVreg_forgo (t : Thread) (v : VReg) (x : VRegVal) : (t.setVreg v x).forgo = t.forgo := rfl
@[simp] theorem Thread.setVreg_stepover (t : Thread) (v : VReg) (x : VRegVal) : (t.setVreg v x).stepover = t.stepover := rfl

/-! ## A thread: putFlags -/

@[simp] theorem Thread.putFlags_ctx (t : Thread) (w : FlagWrite) : (t.putFlags w).ctx = t.ctx := rfl
@[simp] theorem Thread.putFlags_recIx (t : Thread) (w : FlagWrite) : (t.putFlags w).recIx = t.recIx := rfl
@[simp] theorem Thread.putFlags_pc (t : Thread) (w : FlagWrite) : (t.putFlags w).pc = t.pc := rfl
@[simp] theorem Thread.putFlags_maph (t : Thread) (w : FlagWrite) : (t.putFlags w).maph = t.maph := rfl
@[simp] theorem Thread.putFlags_names (t : Thread) (w : FlagWrite) : (t.putFlags w).names = t.names := rfl
@[simp] theorem Thread.putFlags_privl (t : Thread) (w : FlagWrite) : (t.putFlags w).privl = t.privl := rfl
@[simp] theorem Thread.putFlags_trapc (t : Thread) (w : FlagWrite) : (t.putFlags w).trapc = t.trapc := rfl
@[simp] theorem Thread.putFlags_trappc (t : Thread) (w : FlagWrite) : (t.putFlags w).trappc = t.trappc := rfl
@[simp] theorem Thread.putFlags_trapx (t : Thread) (w : FlagWrite) : (t.putFlags w).trapx = t.trapx := rfl
@[simp] theorem Thread.putFlags_trapa (t : Thread) (w : FlagWrite) : (t.putFlags w).trapa = t.trapa := rfl
@[simp] theorem Thread.putFlags_trapv (t : Thread) (w : FlagWrite) : (t.putFlags w).trapv = t.trapv := rfl
@[simp] theorem Thread.putFlags_traprec (t : Thread) (w : FlagWrite) : (t.putFlags w).traprec = t.traprec := rfl
@[simp] theorem Thread.putFlags_vregs (t : Thread) (w : FlagWrite) : (t.putFlags w).vregs = t.vregs := rfl
@[simp] theorem Thread.putFlags_toks (t : Thread) (w : FlagWrite) : (t.putFlags w).toks = t.toks := rfl
@[simp] theorem Thread.putFlags_srngc (t : Thread) (w : FlagWrite) : (t.putFlags w).srngc = t.srngc := rfl
@[simp] theorem Thread.putFlags_dbgctl (t : Thread) (w : FlagWrite) : (t.putFlags w).dbgctl = t.dbgctl := rfl
@[simp] theorem Thread.putFlags_dbga (t : Thread) (w : FlagWrite) : (t.putFlags w).dbga = t.dbga := rfl
@[simp] theorem Thread.putFlags_dbgm (t : Thread) (w : FlagWrite) : (t.putFlags w).dbgm = t.dbgm := rfl
@[simp] theorem Thread.putFlags_groups (t : Thread) (w : FlagWrite) : (t.putFlags w).groups = t.groups := rfl
@[simp] theorem Thread.putFlags_cmt (t : Thread) (w : FlagWrite) : (t.putFlags w).cmt = t.cmt := rfl
@[simp] theorem Thread.putFlags_rsl (t : Thread) (w : FlagWrite) : (t.putFlags w).rsl = t.rsl := rfl
@[simp] theorem Thread.putFlags_aff (t : Thread) (w : FlagWrite) : (t.putFlags w).aff = t.aff := rfl
@[simp] theorem Thread.putFlags_span (t : Thread) (w : FlagWrite) : (t.putFlags w).span = t.span := rfl
@[simp] theorem Thread.putFlags_rep (t : Thread) (w : FlagWrite) : (t.putFlags w).rep = t.rep := rfl
@[simp] theorem Thread.putFlags_ir (t : Thread) (w : FlagWrite) : (t.putFlags w).ir = t.ir := rfl
@[simp] theorem Thread.putFlags_wait (t : Thread) (w : FlagWrite) : (t.putFlags w).wait = t.wait := rfl
@[simp] theorem Thread.putFlags_reads (t : Thread) (w : FlagWrite) : (t.putFlags w).reads = t.reads := rfl
@[simp] theorem Thread.putFlags_pops (t : Thread) (w : FlagWrite) : (t.putFlags w).pops = t.pops := rfl
@[simp] theorem Thread.putFlags_pushes (t : Thread) (w : FlagWrite) : (t.putFlags w).pushes = t.pushes := rfl
@[simp] theorem Thread.putFlags_pushing (t : Thread) (w : FlagWrite) : (t.putFlags w).pushing = t.pushing := rfl
@[simp] theorem Thread.putFlags_pendTrap (t : Thread) (w : FlagWrite) : (t.putFlags w).pendTrap = t.pendTrap := rfl
@[simp] theorem Thread.putFlags_asyncErr (t : Thread) (w : FlagWrite) : (t.putFlags w).asyncErr = t.asyncErr := rfl
@[simp] theorem Thread.putFlags_frozen (t : Thread) (w : FlagWrite) : (t.putFlags w).frozen = t.frozen := rfl
@[simp] theorem Thread.putFlags_handler (t : Thread) (w : FlagWrite) : (t.putFlags w).handler = t.handler := rfl
@[simp] theorem Thread.putFlags_launch (t : Thread) (w : FlagWrite) : (t.putFlags w).launch = t.launch := rfl
@[simp] theorem Thread.putFlags_code (t : Thread) (w : FlagWrite) : (t.putFlags w).code = t.code := rfl
@[simp] theorem Thread.putFlags_codeView (t : Thread) (w : FlagWrite) : (t.putFlags w).codeView = t.codeView := rfl
@[simp] theorem Thread.putFlags_shadows (t : Thread) (w : FlagWrite) : (t.putFlags w).shadows = t.shadows := rfl
@[simp] theorem Thread.putFlags_exp (t : Thread) (w : FlagWrite) : (t.putFlags w).exp = t.exp := rfl
@[simp] theorem Thread.putFlags_retry (t : Thread) (w : FlagWrite) : (t.putFlags w).retry = t.retry := rfl
@[simp] theorem Thread.putFlags_acq (t : Thread) (w : FlagWrite) : (t.putFlags w).acq = t.acq := rfl
@[simp] theorem Thread.putFlags_placing (t : Thread) (w : FlagWrite) : (t.putFlags w).placing = t.placing := rfl
@[simp] theorem Thread.putFlags_out (t : Thread) (w : FlagWrite) : (t.putFlags w).out = t.out := rfl
@[simp] theorem Thread.putFlags_forgo (t : Thread) (w : FlagWrite) : (t.putFlags w).forgo = t.forgo := rfl
@[simp] theorem Thread.putFlags_stepover (t : Thread) (w : FlagWrite) : (t.putFlags w).stepover = t.stepover := rfl

/-! ## A thread: setTok -/

@[simp] theorem Thread.setTok_ctx (t : Thread) (k v : Nat) : (t.setTok k v).ctx = t.ctx := rfl
@[simp] theorem Thread.setTok_recIx (t : Thread) (k v : Nat) : (t.setTok k v).recIx = t.recIx := rfl
@[simp] theorem Thread.setTok_pc (t : Thread) (k v : Nat) : (t.setTok k v).pc = t.pc := rfl
@[simp] theorem Thread.setTok_maph (t : Thread) (k v : Nat) : (t.setTok k v).maph = t.maph := rfl
@[simp] theorem Thread.setTok_names (t : Thread) (k v : Nat) : (t.setTok k v).names = t.names := rfl
@[simp] theorem Thread.setTok_flags (t : Thread) (k v : Nat) : (t.setTok k v).flags = t.flags := rfl
@[simp] theorem Thread.setTok_privl (t : Thread) (k v : Nat) : (t.setTok k v).privl = t.privl := rfl
@[simp] theorem Thread.setTok_trapc (t : Thread) (k v : Nat) : (t.setTok k v).trapc = t.trapc := rfl
@[simp] theorem Thread.setTok_trappc (t : Thread) (k v : Nat) : (t.setTok k v).trappc = t.trappc := rfl
@[simp] theorem Thread.setTok_trapx (t : Thread) (k v : Nat) : (t.setTok k v).trapx = t.trapx := rfl
@[simp] theorem Thread.setTok_trapa (t : Thread) (k v : Nat) : (t.setTok k v).trapa = t.trapa := rfl
@[simp] theorem Thread.setTok_trapv (t : Thread) (k v : Nat) : (t.setTok k v).trapv = t.trapv := rfl
@[simp] theorem Thread.setTok_traprec (t : Thread) (k v : Nat) : (t.setTok k v).traprec = t.traprec := rfl
@[simp] theorem Thread.setTok_vregs (t : Thread) (k v : Nat) : (t.setTok k v).vregs = t.vregs := rfl
@[simp] theorem Thread.setTok_srngc (t : Thread) (k v : Nat) : (t.setTok k v).srngc = t.srngc := rfl
@[simp] theorem Thread.setTok_dbgctl (t : Thread) (k v : Nat) : (t.setTok k v).dbgctl = t.dbgctl := rfl
@[simp] theorem Thread.setTok_dbga (t : Thread) (k v : Nat) : (t.setTok k v).dbga = t.dbga := rfl
@[simp] theorem Thread.setTok_dbgm (t : Thread) (k v : Nat) : (t.setTok k v).dbgm = t.dbgm := rfl
@[simp] theorem Thread.setTok_groups (t : Thread) (k v : Nat) : (t.setTok k v).groups = t.groups := rfl
@[simp] theorem Thread.setTok_cmt (t : Thread) (k v : Nat) : (t.setTok k v).cmt = t.cmt := rfl
@[simp] theorem Thread.setTok_rsl (t : Thread) (k v : Nat) : (t.setTok k v).rsl = t.rsl := rfl
@[simp] theorem Thread.setTok_aff (t : Thread) (k v : Nat) : (t.setTok k v).aff = t.aff := rfl
@[simp] theorem Thread.setTok_span (t : Thread) (k v : Nat) : (t.setTok k v).span = t.span := rfl
@[simp] theorem Thread.setTok_inflight (t : Thread) (k v : Nat) : (t.setTok k v).inflight = t.inflight := rfl
@[simp] theorem Thread.setTok_rep (t : Thread) (k v : Nat) : (t.setTok k v).rep = t.rep := rfl
@[simp] theorem Thread.setTok_ir (t : Thread) (k v : Nat) : (t.setTok k v).ir = t.ir := rfl
@[simp] theorem Thread.setTok_wait (t : Thread) (k v : Nat) : (t.setTok k v).wait = t.wait := rfl
@[simp] theorem Thread.setTok_reads (t : Thread) (k v : Nat) : (t.setTok k v).reads = t.reads := rfl
@[simp] theorem Thread.setTok_pops (t : Thread) (k v : Nat) : (t.setTok k v).pops = t.pops := rfl
@[simp] theorem Thread.setTok_pushes (t : Thread) (k v : Nat) : (t.setTok k v).pushes = t.pushes := rfl
@[simp] theorem Thread.setTok_pushing (t : Thread) (k v : Nat) : (t.setTok k v).pushing = t.pushing := rfl
@[simp] theorem Thread.setTok_pendTrap (t : Thread) (k v : Nat) : (t.setTok k v).pendTrap = t.pendTrap := rfl
@[simp] theorem Thread.setTok_asyncErr (t : Thread) (k v : Nat) : (t.setTok k v).asyncErr = t.asyncErr := rfl
@[simp] theorem Thread.setTok_frozen (t : Thread) (k v : Nat) : (t.setTok k v).frozen = t.frozen := rfl
@[simp] theorem Thread.setTok_handler (t : Thread) (k v : Nat) : (t.setTok k v).handler = t.handler := rfl
@[simp] theorem Thread.setTok_launch (t : Thread) (k v : Nat) : (t.setTok k v).launch = t.launch := rfl
@[simp] theorem Thread.setTok_code (t : Thread) (k v : Nat) : (t.setTok k v).code = t.code := rfl
@[simp] theorem Thread.setTok_codeView (t : Thread) (k v : Nat) : (t.setTok k v).codeView = t.codeView := rfl
@[simp] theorem Thread.setTok_shadows (t : Thread) (k v : Nat) : (t.setTok k v).shadows = t.shadows := rfl
@[simp] theorem Thread.setTok_exp (t : Thread) (k v : Nat) : (t.setTok k v).exp = t.exp := rfl
@[simp] theorem Thread.setTok_retry (t : Thread) (k v : Nat) : (t.setTok k v).retry = t.retry := rfl
@[simp] theorem Thread.setTok_acq (t : Thread) (k v : Nat) : (t.setTok k v).acq = t.acq := rfl
@[simp] theorem Thread.setTok_placing (t : Thread) (k v : Nat) : (t.setTok k v).placing = t.placing := rfl
@[simp] theorem Thread.setTok_out (t : Thread) (k v : Nat) : (t.setTok k v).out = t.out := rfl
@[simp] theorem Thread.setTok_forgo (t : Thread) (k v : Nat) : (t.setTok k v).forgo = t.forgo := rfl
@[simp] theorem Thread.setTok_stepover (t : Thread) (k v : Nat) : (t.setTok k v).stepover = t.stepover := rfl

/-! ## A thread: setName -/

@[simp] theorem Thread.setName_ctx (t : Thread) (n : Name) (c : NameCell) : (t.setName n c).ctx = t.ctx := by unfold Thread.setName; split <;> rfl
@[simp] theorem Thread.setName_recIx (t : Thread) (n : Name) (c : NameCell) : (t.setName n c).recIx = t.recIx := by unfold Thread.setName; split <;> rfl
@[simp] theorem Thread.setName_pc (t : Thread) (n : Name) (c : NameCell) : (t.setName n c).pc = t.pc := by unfold Thread.setName; split <;> rfl
@[simp] theorem Thread.setName_maph (t : Thread) (n : Name) (c : NameCell) : (t.setName n c).maph = t.maph := by unfold Thread.setName; split <;> rfl
@[simp] theorem Thread.setName_flags (t : Thread) (n : Name) (c : NameCell) : (t.setName n c).flags = t.flags := by unfold Thread.setName; split <;> rfl
@[simp] theorem Thread.setName_privl (t : Thread) (n : Name) (c : NameCell) : (t.setName n c).privl = t.privl := by unfold Thread.setName; split <;> rfl
@[simp] theorem Thread.setName_trapc (t : Thread) (n : Name) (c : NameCell) : (t.setName n c).trapc = t.trapc := by unfold Thread.setName; split <;> rfl
@[simp] theorem Thread.setName_trappc (t : Thread) (n : Name) (c : NameCell) : (t.setName n c).trappc = t.trappc := by unfold Thread.setName; split <;> rfl
@[simp] theorem Thread.setName_trapx (t : Thread) (n : Name) (c : NameCell) : (t.setName n c).trapx = t.trapx := by unfold Thread.setName; split <;> rfl
@[simp] theorem Thread.setName_trapa (t : Thread) (n : Name) (c : NameCell) : (t.setName n c).trapa = t.trapa := by unfold Thread.setName; split <;> rfl
@[simp] theorem Thread.setName_trapv (t : Thread) (n : Name) (c : NameCell) : (t.setName n c).trapv = t.trapv := by unfold Thread.setName; split <;> rfl
@[simp] theorem Thread.setName_traprec (t : Thread) (n : Name) (c : NameCell) : (t.setName n c).traprec = t.traprec := by unfold Thread.setName; split <;> rfl
@[simp] theorem Thread.setName_vregs (t : Thread) (n : Name) (c : NameCell) : (t.setName n c).vregs = t.vregs := by unfold Thread.setName; split <;> rfl
@[simp] theorem Thread.setName_toks (t : Thread) (n : Name) (c : NameCell) : (t.setName n c).toks = t.toks := by unfold Thread.setName; split <;> rfl
@[simp] theorem Thread.setName_srngc (t : Thread) (n : Name) (c : NameCell) : (t.setName n c).srngc = t.srngc := by unfold Thread.setName; split <;> rfl
@[simp] theorem Thread.setName_dbgctl (t : Thread) (n : Name) (c : NameCell) : (t.setName n c).dbgctl = t.dbgctl := by unfold Thread.setName; split <;> rfl
@[simp] theorem Thread.setName_dbga (t : Thread) (n : Name) (c : NameCell) : (t.setName n c).dbga = t.dbga := by unfold Thread.setName; split <;> rfl
@[simp] theorem Thread.setName_dbgm (t : Thread) (n : Name) (c : NameCell) : (t.setName n c).dbgm = t.dbgm := by unfold Thread.setName; split <;> rfl
@[simp] theorem Thread.setName_groups (t : Thread) (n : Name) (c : NameCell) : (t.setName n c).groups = t.groups := by unfold Thread.setName; split <;> rfl
@[simp] theorem Thread.setName_cmt (t : Thread) (n : Name) (c : NameCell) : (t.setName n c).cmt = t.cmt := by unfold Thread.setName; split <;> rfl
@[simp] theorem Thread.setName_rsl (t : Thread) (n : Name) (c : NameCell) : (t.setName n c).rsl = t.rsl := by unfold Thread.setName; split <;> rfl
@[simp] theorem Thread.setName_aff (t : Thread) (n : Name) (c : NameCell) : (t.setName n c).aff = t.aff := by unfold Thread.setName; split <;> rfl
@[simp] theorem Thread.setName_span (t : Thread) (n : Name) (c : NameCell) : (t.setName n c).span = t.span := by unfold Thread.setName; split <;> rfl
@[simp] theorem Thread.setName_inflight (t : Thread) (n : Name) (c : NameCell) : (t.setName n c).inflight = t.inflight := by unfold Thread.setName; split <;> rfl
@[simp] theorem Thread.setName_rep (t : Thread) (n : Name) (c : NameCell) : (t.setName n c).rep = t.rep := by unfold Thread.setName; split <;> rfl
@[simp] theorem Thread.setName_ir (t : Thread) (n : Name) (c : NameCell) : (t.setName n c).ir = t.ir := by unfold Thread.setName; split <;> rfl
@[simp] theorem Thread.setName_wait (t : Thread) (n : Name) (c : NameCell) : (t.setName n c).wait = t.wait := by unfold Thread.setName; split <;> rfl
@[simp] theorem Thread.setName_reads (t : Thread) (n : Name) (c : NameCell) : (t.setName n c).reads = t.reads := by unfold Thread.setName; split <;> rfl
@[simp] theorem Thread.setName_pops (t : Thread) (n : Name) (c : NameCell) : (t.setName n c).pops = t.pops := by unfold Thread.setName; split <;> rfl
@[simp] theorem Thread.setName_pushes (t : Thread) (n : Name) (c : NameCell) : (t.setName n c).pushes = t.pushes := by unfold Thread.setName; split <;> rfl
@[simp] theorem Thread.setName_pushing (t : Thread) (n : Name) (c : NameCell) : (t.setName n c).pushing = t.pushing := by unfold Thread.setName; split <;> rfl
@[simp] theorem Thread.setName_pendTrap (t : Thread) (n : Name) (c : NameCell) : (t.setName n c).pendTrap = t.pendTrap := by unfold Thread.setName; split <;> rfl
@[simp] theorem Thread.setName_asyncErr (t : Thread) (n : Name) (c : NameCell) : (t.setName n c).asyncErr = t.asyncErr := by unfold Thread.setName; split <;> rfl
@[simp] theorem Thread.setName_frozen (t : Thread) (n : Name) (c : NameCell) : (t.setName n c).frozen = t.frozen := by unfold Thread.setName; split <;> rfl
@[simp] theorem Thread.setName_handler (t : Thread) (n : Name) (c : NameCell) : (t.setName n c).handler = t.handler := by unfold Thread.setName; split <;> rfl
@[simp] theorem Thread.setName_launch (t : Thread) (n : Name) (c : NameCell) : (t.setName n c).launch = t.launch := by unfold Thread.setName; split <;> rfl
@[simp] theorem Thread.setName_code (t : Thread) (n : Name) (c : NameCell) : (t.setName n c).code = t.code := by unfold Thread.setName; split <;> rfl
@[simp] theorem Thread.setName_codeView (t : Thread) (n : Name) (c : NameCell) : (t.setName n c).codeView = t.codeView := by unfold Thread.setName; split <;> rfl
@[simp] theorem Thread.setName_shadows (t : Thread) (n : Name) (c : NameCell) : (t.setName n c).shadows = t.shadows := by unfold Thread.setName; split <;> rfl
@[simp] theorem Thread.setName_exp (t : Thread) (n : Name) (c : NameCell) : (t.setName n c).exp = t.exp := by unfold Thread.setName; split <;> rfl
@[simp] theorem Thread.setName_retry (t : Thread) (n : Name) (c : NameCell) : (t.setName n c).retry = t.retry := by unfold Thread.setName; split <;> rfl
@[simp] theorem Thread.setName_acq (t : Thread) (n : Name) (c : NameCell) : (t.setName n c).acq = t.acq := by unfold Thread.setName; split <;> rfl
@[simp] theorem Thread.setName_placing (t : Thread) (n : Name) (c : NameCell) : (t.setName n c).placing = t.placing := by unfold Thread.setName; split <;> rfl
@[simp] theorem Thread.setName_out (t : Thread) (n : Name) (c : NameCell) : (t.setName n c).out = t.out := by unfold Thread.setName; split <;> rfl
@[simp] theorem Thread.setName_forgo (t : Thread) (n : Name) (c : NameCell) : (t.setName n c).forgo = t.forgo := by unfold Thread.setName; split <;> rfl
@[simp] theorem Thread.setName_stepover (t : Thread) (n : Name) (c : NameCell) : (t.setName n c).stepover = t.stepover := by unfold Thread.setName; split <;> rfl

/-! ## A thread: setPat -/

@[simp] theorem Thread.setPat_ctx (t : Thread) (n : Name) (p : Word) : (t.setPat n p).ctx = t.ctx := Thread.setName_ctx t n _
@[simp] theorem Thread.setPat_recIx (t : Thread) (n : Name) (p : Word) : (t.setPat n p).recIx = t.recIx := Thread.setName_recIx t n _
@[simp] theorem Thread.setPat_pc (t : Thread) (n : Name) (p : Word) : (t.setPat n p).pc = t.pc := Thread.setName_pc t n _
@[simp] theorem Thread.setPat_maph (t : Thread) (n : Name) (p : Word) : (t.setPat n p).maph = t.maph := Thread.setName_maph t n _
@[simp] theorem Thread.setPat_flags (t : Thread) (n : Name) (p : Word) : (t.setPat n p).flags = t.flags := Thread.setName_flags t n _
@[simp] theorem Thread.setPat_privl (t : Thread) (n : Name) (p : Word) : (t.setPat n p).privl = t.privl := Thread.setName_privl t n _
@[simp] theorem Thread.setPat_trapc (t : Thread) (n : Name) (p : Word) : (t.setPat n p).trapc = t.trapc := Thread.setName_trapc t n _
@[simp] theorem Thread.setPat_trappc (t : Thread) (n : Name) (p : Word) : (t.setPat n p).trappc = t.trappc := Thread.setName_trappc t n _
@[simp] theorem Thread.setPat_trapx (t : Thread) (n : Name) (p : Word) : (t.setPat n p).trapx = t.trapx := Thread.setName_trapx t n _
@[simp] theorem Thread.setPat_trapa (t : Thread) (n : Name) (p : Word) : (t.setPat n p).trapa = t.trapa := Thread.setName_trapa t n _
@[simp] theorem Thread.setPat_trapv (t : Thread) (n : Name) (p : Word) : (t.setPat n p).trapv = t.trapv := Thread.setName_trapv t n _
@[simp] theorem Thread.setPat_traprec (t : Thread) (n : Name) (p : Word) : (t.setPat n p).traprec = t.traprec := Thread.setName_traprec t n _
@[simp] theorem Thread.setPat_vregs (t : Thread) (n : Name) (p : Word) : (t.setPat n p).vregs = t.vregs := Thread.setName_vregs t n _
@[simp] theorem Thread.setPat_toks (t : Thread) (n : Name) (p : Word) : (t.setPat n p).toks = t.toks := Thread.setName_toks t n _
@[simp] theorem Thread.setPat_srngc (t : Thread) (n : Name) (p : Word) : (t.setPat n p).srngc = t.srngc := Thread.setName_srngc t n _
@[simp] theorem Thread.setPat_dbgctl (t : Thread) (n : Name) (p : Word) : (t.setPat n p).dbgctl = t.dbgctl := Thread.setName_dbgctl t n _
@[simp] theorem Thread.setPat_dbga (t : Thread) (n : Name) (p : Word) : (t.setPat n p).dbga = t.dbga := Thread.setName_dbga t n _
@[simp] theorem Thread.setPat_dbgm (t : Thread) (n : Name) (p : Word) : (t.setPat n p).dbgm = t.dbgm := Thread.setName_dbgm t n _
@[simp] theorem Thread.setPat_groups (t : Thread) (n : Name) (p : Word) : (t.setPat n p).groups = t.groups := Thread.setName_groups t n _
@[simp] theorem Thread.setPat_cmt (t : Thread) (n : Name) (p : Word) : (t.setPat n p).cmt = t.cmt := Thread.setName_cmt t n _
@[simp] theorem Thread.setPat_rsl (t : Thread) (n : Name) (p : Word) : (t.setPat n p).rsl = t.rsl := Thread.setName_rsl t n _
@[simp] theorem Thread.setPat_aff (t : Thread) (n : Name) (p : Word) : (t.setPat n p).aff = t.aff := Thread.setName_aff t n _
@[simp] theorem Thread.setPat_span (t : Thread) (n : Name) (p : Word) : (t.setPat n p).span = t.span := Thread.setName_span t n _
@[simp] theorem Thread.setPat_inflight (t : Thread) (n : Name) (p : Word) : (t.setPat n p).inflight = t.inflight := Thread.setName_inflight t n _
@[simp] theorem Thread.setPat_rep (t : Thread) (n : Name) (p : Word) : (t.setPat n p).rep = t.rep := Thread.setName_rep t n _
@[simp] theorem Thread.setPat_ir (t : Thread) (n : Name) (p : Word) : (t.setPat n p).ir = t.ir := Thread.setName_ir t n _
@[simp] theorem Thread.setPat_wait (t : Thread) (n : Name) (p : Word) : (t.setPat n p).wait = t.wait := Thread.setName_wait t n _
@[simp] theorem Thread.setPat_reads (t : Thread) (n : Name) (p : Word) : (t.setPat n p).reads = t.reads := Thread.setName_reads t n _
@[simp] theorem Thread.setPat_pops (t : Thread) (n : Name) (p : Word) : (t.setPat n p).pops = t.pops := Thread.setName_pops t n _
@[simp] theorem Thread.setPat_pushes (t : Thread) (n : Name) (p : Word) : (t.setPat n p).pushes = t.pushes := Thread.setName_pushes t n _
@[simp] theorem Thread.setPat_pushing (t : Thread) (n : Name) (p : Word) : (t.setPat n p).pushing = t.pushing := Thread.setName_pushing t n _
@[simp] theorem Thread.setPat_pendTrap (t : Thread) (n : Name) (p : Word) : (t.setPat n p).pendTrap = t.pendTrap := Thread.setName_pendTrap t n _
@[simp] theorem Thread.setPat_asyncErr (t : Thread) (n : Name) (p : Word) : (t.setPat n p).asyncErr = t.asyncErr := Thread.setName_asyncErr t n _
@[simp] theorem Thread.setPat_frozen (t : Thread) (n : Name) (p : Word) : (t.setPat n p).frozen = t.frozen := Thread.setName_frozen t n _
@[simp] theorem Thread.setPat_handler (t : Thread) (n : Name) (p : Word) : (t.setPat n p).handler = t.handler := Thread.setName_handler t n _
@[simp] theorem Thread.setPat_launch (t : Thread) (n : Name) (p : Word) : (t.setPat n p).launch = t.launch := Thread.setName_launch t n _
@[simp] theorem Thread.setPat_code (t : Thread) (n : Name) (p : Word) : (t.setPat n p).code = t.code := Thread.setName_code t n _
@[simp] theorem Thread.setPat_codeView (t : Thread) (n : Name) (p : Word) : (t.setPat n p).codeView = t.codeView := Thread.setName_codeView t n _
@[simp] theorem Thread.setPat_shadows (t : Thread) (n : Name) (p : Word) : (t.setPat n p).shadows = t.shadows := Thread.setName_shadows t n _
@[simp] theorem Thread.setPat_exp (t : Thread) (n : Name) (p : Word) : (t.setPat n p).exp = t.exp := Thread.setName_exp t n _
@[simp] theorem Thread.setPat_retry (t : Thread) (n : Name) (p : Word) : (t.setPat n p).retry = t.retry := Thread.setName_retry t n _
@[simp] theorem Thread.setPat_acq (t : Thread) (n : Name) (p : Word) : (t.setPat n p).acq = t.acq := Thread.setName_acq t n _
@[simp] theorem Thread.setPat_placing (t : Thread) (n : Name) (p : Word) : (t.setPat n p).placing = t.placing := Thread.setName_placing t n _
@[simp] theorem Thread.setPat_out (t : Thread) (n : Name) (p : Word) : (t.setPat n p).out = t.out := Thread.setName_out t n _
@[simp] theorem Thread.setPat_forgo (t : Thread) (n : Name) (p : Word) : (t.setPat n p).forgo = t.forgo := Thread.setName_forgo t n _
@[simp] theorem Thread.setPat_stepover (t : Thread) (n : Name) (p : Word) : (t.setPat n p).stepover = t.stepover := Thread.setName_stepover t n _

/-! ## Reads after writes -/

/-- A sparse list answers what was set under a key, and under another key what it answered before. -/
theorem getK_setK {α : Type} (d v : α) (k j : Nat) (l : List (Nat × α)) :
    getK d j (setK k v l) = if j = k then v else getK d j l := by
  induction l with
  | nil => simp [setK, getK, eq_comm]
  | cons x r ih =>
    obtain ⟨a, w⟩ := x
    unfold setK
    split
    · simp [getK, eq_comm]
    · split
      · rename_i h
        subst h
        by_cases hj : a = j
        · simp [getK, hj]
        · have e : ¬ j = a := fun hh => hj hh.symm
          simp [getK, hj, e]
      · rename_i h1 h2
        by_cases hj : a = j
        · subst hj; simp [getK, h2]
        · simp [getK, hj, ih]

/-- Of two writes under one key the last one stands. -/
theorem setK_setK {α : Type} (k : Nat) (v w : α) (l : List (Nat × α)) : setK k w (setK k v l) = setK k w l := by
  induction l with
  | nil => simp [setK]
  | cons x r ih =>
    obtain ⟨a, u⟩ := x
    by_cases h1 : k < a
    · simp [setK, h1]
    · by_cases h2 : a = k
      · simp [setK, h2]
      · simp [setK, h1, h2, ih]

@[simp] theorem State.setCore_setCore (s : State) (c : Nat) (v w : CoreSt) : (s.setCore c v).setCore c w = s.setCore c w := by
  simp [State.setCore, setK_setK]

@[simp] theorem State.setQuad_setQuad (s : State) (q : Nat) (v w : QuadSt) : (s.setQuad q v).setQuad q w = s.setQuad q w := by
  simp [State.setQuad, setK_setK]

theorem State.core_setCore (s : State) (c j : Nat) (v : CoreSt) : (s.setCore c v).core j = if j = c then v else s.core j :=
  getK_setK _ _ _ _ _

theorem State.quad_setQuad (s : State) (q j : Nat) (v : QuadSt) : (s.setQuad q v).quad j = if j = q then v else s.quad j :=
  getK_setK _ _ _ _ _

theorem Thread.name_setName (t : Thread) (n m : Name) (c : NameCell) :
    (t.setName n c).name m = if m = 63 ∨ m ≠ n then t.name m else c := by
  unfold Thread.setName Thread.name
  by_cases h : m = 63
  · simp [h]
  by_cases h2 : m = n
  · subst h2; simp [h]
  by_cases h3 : n = 63
  · simp [h, h3]
  · have e : n.val ≠ m.val := fun hh => h2 (Fin.ext hh.symm)
    simp [h, h2, h3, e]

theorem Thread.name_setPat (t : Thread) (n m : Name) (p : Word) :
    (t.setPat n p).name m = if m = 63 ∨ m ≠ n then t.name m else { t.name n with pat := p } := Thread.name_setName t n m _

theorem Thread.vreg_setVreg (t : Thread) (d v : VReg) (x : VRegVal) :
    (t.setVreg d x).vreg v = if v = d then x else t.vreg v := by
  by_cases h : v = d
  · subst h; simp [Thread.vreg, Thread.setVreg]
  · have e : d.val ≠ v.val := fun hh => h (Fin.ext hh.symm)
    simp [Thread.vreg, Thread.setVreg, h, e]

end Sys2Proof.Machine
end

