-- ==== Sys2Proof/Laws/Memory.lean ====
section
/-! SUPPORT. Memory laws: reading after writing, and that every operation on memory keeps its one form. -/

namespace Sys2Proof.Machine
open Sys2Proof

/-! ## Lists of cells -/

theorem cellsWfFrom_mono {a b : Nat} (l : List Host.Cell) (h : a ≤ b) (w : cellsWfFrom b l = true) :
    cellsWfFrom a l = true := by
  cases l with
  | nil => rfl
  | cons p r => simp only [cellsWfFrom, Bool.and_eq_true, decide_eq_true_eq] at w ⊢; exact ⟨⟨by omega, w.1.2⟩, w.2⟩

/-- Below its bound a list lists nothing. -/
theorem cellGet_below {lo : Nat} (l : List Host.Cell) (w : cellsWfFrom lo l = true) (a : Nat) (h : a < lo) :
    cellGet l a = 0 := by
  induction l generalizing lo with
  | nil => rfl
  | cons p r ih =>
    simp only [cellsWfFrom, Bool.and_eq_true, decide_eq_true_eq] at w
    simp only [cellGet]
    rw [if_neg (by omega)]
    exact ih w.2 (by omega)

/-- Writing keeps the form. -/
theorem cellSet_wfFrom {lo : Nat} (l : List Host.Cell) (a : Nat) (b : Byte) (w : cellsWfFrom lo l = true) (h : lo ≤ a) :
    cellsWfFrom lo (cellSet l a b) = true := by
  induction l generalizing lo with
  | nil =>
    unfold cellSet
    split
    · rfl
    · rename_i hb
      simp only [cellsWfFrom, Bool.and_eq_true, decide_eq_true_eq]
      exact ⟨⟨h, hb⟩, trivial⟩
  | cons p r ih =>
    simp only [cellsWfFrom, Bool.and_eq_true, decide_eq_true_eq] at w
    unfold cellSet
    split
    · simp only [cellsWfFrom, Bool.and_eq_true, decide_eq_true_eq]
      exact ⟨w.1, ih w.2 (by omega)⟩
    · split
      · split
        · exact cellsWfFrom_mono r (by omega) w.2
        · rename_i hb
          simp only [cellsWfFrom, Bool.and_eq_true, decide_eq_true_eq]
          exact ⟨⟨h, hb⟩, cellsWfFrom_mono r (by omega) w.2⟩
      · split
        · simp only [cellsWfFrom, Bool.and_eq_true, decide_eq_true_eq]; exact w
        · rename_i hb
          simp only [cellsWfFrom, Bool.and_eq_true, decide_eq_true_eq]
          exact ⟨⟨h, hb⟩, ⟨by omega, w.1.2⟩, w.2⟩

theorem cellSet_wf (l : List Host.Cell) (a : Nat) (b : Byte) (w : cellsWf l = true) : cellsWf (cellSet l a b) = true :=
  cellSet_wfFrom l a b w (Nat.zero_le a)

/-- A read after a write: the byte written at its address, the old byte elsewhere. -/
theorem cellGet_cellSet {lo : Nat} (l : List Host.Cell) (a : Nat) (b : Byte) (w : cellsWfFrom lo l = true) (x : Nat) :
    cellGet (cellSet l a b) x = if x = a then b else cellGet l x := by
  induction l generalizing lo with
  | nil =>
    unfold cellSet
    by_cases hx : x = a
    · subst hx; split <;> simp_all [cellGet]
    · have e : ¬ a = x := fun hh => hx hh.symm
      rw [if_neg hx]
      split <;> simp [cellGet, e]
  | cons p r ih =>
    simp only [cellsWfFrom, Bool.and_eq_true, decide_eq_true_eq] at w
    unfold cellSet
    by_cases h1 : p.1 < a
    · rw [if_pos h1]
      simp only [cellGet, ih w.2]
      by_cases hp : p.1 = x
      · have e : ¬ x = a := by omega
        simp [hp, e]
      · simp [hp]
    · rw [if_neg h1]
      by_cases h2 : p.1 = a
      · rw [if_pos h2]
        by_cases hx : x = a
        · subst hx
          by_cases hb : b = 0
          · rw [if_pos hb, cellGet_below r w.2 x (by omega)]; simp [hb]
          · rw [if_neg hb]; simp [cellGet]
        · have e1 : ¬ p.1 = x := by omega
          have e2 : ¬ a = x := fun hh => hx hh.symm
          by_cases hb : b = 0
          · rw [if_pos hb]; simp [cellGet, hx, e1]
          · rw [if_neg hb]; simp [cellGet, hx, e1, e2]
      · rw [if_neg h2]
        by_cases hx : x = a
        · subst hx
          by_cases hb : b = 0
          · rw [if_pos hb]
            simp only [cellGet]
            rw [if_neg h2, cellGet_below r w.2 x (by omega)]
            simp [hb]
          · rw [if_neg hb]; simp [cellGet]
        · have e2 : ¬ a = x := fun hh => hx hh.symm
          by_cases hb : b = 0
          · rw [if_pos hb]; simp [hx]
          · rw [if_neg hb]; simp [cellGet, hx, e2]

theorem cellsWrite_wf (l ps : List Host.Cell) (w : cellsWf l = true) : cellsWf (cellsWrite l ps) = true := by
  induction ps generalizing l with
  | nil => exact w
  | cons p r ih => exact ih (cellSet l p.1 p.2) (cellSet_wf l p.1 p.2 w)

/-- A byte that a write does not name reads as before. -/
theorem cellGet_cellsWrite_other (l ps : List Host.Cell) (w : cellsWf l = true) (x : Nat) (h : ∀ p ∈ ps, p.1 ≠ x) :
    cellGet (cellsWrite l ps) x = cellGet l x := by
  induction ps generalizing l with
  | nil => rfl
  | cons p r ih =>
    have e : cellGet (cellsWrite (cellSet l p.1 p.2) r) x = cellGet (cellSet l p.1 p.2) x :=
      ih (cellSet l p.1 p.2) (cellSet_wf l p.1 p.2 w) (fun q hq => h q (List.mem_cons_of_mem p hq))
    refine e.trans ?_
    rw [cellGet_cellSet l p.1 p.2 w x, if_neg (fun hh => h p List.mem_cons_self hh.symm)]

/-- What an address below those of a run of bytes reads. -/
theorem bytesAt_ne (a : Nat) (bs : List Byte) (x : Nat) (h : x < a) : ∀ p ∈ bytesAt a bs, p.1 ≠ x := by
  induction bs generalizing a with
  | nil => intro p hp; cases hp
  | cons b r ih =>
    intro p hp
    rcases List.mem_cons.1 hp with e | hp
    · subst e; exact fun hh => by simp only at hh; omega
    · exact ih (a + 1) (by omega) p hp

/-- A run of bytes written is read back. -/
theorem cellsRead_cellsWrite (l : List Host.Cell) (a : Nat) (bs : List Byte) (w : cellsWf l = true) :
    cellsRead (cellsWrite l (bytesAt a bs)) a bs.length = bs := by
  induction bs generalizing a l with
  | nil => rfl
  | cons b r ih =>
    have w1 := cellSet_wf l a b w
    have e : cellsWrite l (bytesAt a (b :: r)) = cellsWrite (cellSet l a b) (bytesAt (a + 1) r) := rfl
    simp only [List.length_cons, cellsRead, e]
    rw [ih (cellSet l a b) (a + 1) w1,
      cellGet_cellsWrite_other _ _ w1 a (bytesAt_ne (a + 1) r a (by omega)), cellGet_cellSet l a b w a, if_pos rfl]

theorem cellsWfFrom_filter {lo : Nat} (l : List Host.Cell) (f : Host.Cell → Bool) (w : cellsWfFrom lo l = true) :
    cellsWfFrom lo (l.filter f) = true := by
  induction l generalizing lo with
  | nil => rfl
  | cons p r ih =>
    simp only [cellsWfFrom, Bool.and_eq_true, decide_eq_true_eq] at w
    simp only [List.filter_cons]
    split
    · simp only [cellsWfFrom, Bool.and_eq_true, decide_eq_true_eq]; exact ⟨w.1, ih w.2⟩
    · exact ih (cellsWfFrom_mono r (by omega) w.2)

theorem cellsIn_wf (l : List Host.Cell) (lo n : Nat) (w : cellsWf l = true) : cellsWf (cellsIn l lo n) = true :=
  cellsWfFrom_filter l _ w

/-! ## The memory system -/

theorem Mem.wf_iff (m : Mem) : m.wf = true ↔
    cellsWf m.hbm = true ∧ (∀ x ∈ m.l2, cellsWf x.cells = true) ∧ (∀ x ∈ m.srams, cellsWf x.cells = true) := by
  simp [Mem.wf, and_assoc]

/-- A change of memory that leaves the three kinds of cells alone keeps the form. -/
theorem Mem.wf_of_cells {m n : Mem} (w : m.wf = true) (h1 : n.hbm = m.hbm) (h2 : n.l2 = m.l2) (h3 : n.srams = m.srams) :
    n.wf = true := by
  rw [Mem.wf_iff] at w ⊢; rw [h1, h2, h3]; exact w

theorem Mem.hbmWrite_wf (m : Mem) (ps : List Host.Cell) (w : m.wf = true) : (m.hbmWrite ps).wf = true := by
  rw [Mem.wf_iff] at w ⊢
  exact ⟨cellsWrite_wf m.hbm ps w.1, w.2⟩

theorem Mem.putSector_wf (m : Mem) (x : Sector) (w : m.wf = true) (h : cellsWf x.cells = true) :
    (m.putSector x).wf = true := by
  rw [Mem.wf_iff] at w ⊢
  refine ⟨w.1, ?_, w.2.2⟩
  intro y hy
  simp only [Mem.putSector, List.mem_cons, List.mem_filter] at hy
  rcases hy with e | hy
  · subst e; exact h
  · exact w.2.1 y hy.1

theorem Mem.writeBackSector_wf (m : Mem) (x : Sector) (w : m.wf = true) : (m.writeBackSector x).wf = true :=
  Mem.wf_of_cells (Mem.hbmWrite_wf m x.dirtyCells w) rfl rfl rfl

theorem Mem.writeBackSector_l2 (m : Mem) (x : Sector) : (m.writeBackSector x).l2 = m.l2 := rfl

/-- Writing a list of sectors back. -/
theorem Mem.writeBackAll_wf (m : Mem) (xs : List Sector) (w : m.wf = true) :
    (xs.foldl (fun m x => m.writeBackSector x) m).wf = true := by
  induction xs generalizing m with
  | nil => exact w
  | cons x r ih => exact ih (m.writeBackSector x) (m.writeBackSector_wf x w)

theorem Mem.mapL2_wf (m : Mem) (f : Sector → Sector) (w : m.wf = true) (h : ∀ x, (f x).cells = x.cells) :
    ({ m with l2 := m.l2.map f } : Mem).wf = true := by
  rw [Mem.wf_iff] at w ⊢
  refine ⟨w.1, ?_, w.2.2⟩
  intro y hy
  obtain ⟨x, hx, e⟩ := List.mem_map.1 hy
  subst e
  rw [h x]
  exact w.2.1 x hx

theorem Mem.filterL2_wf (m : Mem) (f : Sector → Bool) (w : m.wf = true) :
    ({ m with l2 := m.l2.filter f } : Mem).wf = true := by
  rw [Mem.wf_iff] at w ⊢
  exact ⟨w.1, fun y hy => w.2.1 y (List.mem_filter.1 hy).1, w.2.2⟩

theorem Mem.recall_wf (m : Mem) (block : Nat) (w : m.wf = true) : (m.recall block).wf = true := by
  refine Mem.mapL2_wf _ (fun x => if x.block = block then { x with dirty := [] } else x) (Mem.writeBackAll_wf m _ w) ?_
  intro x; split <;> rfl

theorem Mem.dropOthers_wf (m : Mem) (keep : Option Nat) (block : Nat) (w : m.wf = true) :
    (m.dropOthers keep block).wf = true :=
  Mem.filterL2_wf _ _ (Mem.writeBackAll_wf m _ w)

/-- The eviction that keeps a die's L2 within its size keeps the form. -/
theorem Mem.shrink_wf (m : Mem) (die : Nat) (w : m.wf = true) : (m.shrink die).wf = true := by
  unfold Mem.shrink
  split
  · exact w
  · split
    · exact w
    · rename_i x e
      have hx : x ∈ m.l2 := (List.mem_filter.1 (List.mem_of_getLast? e)).1
      extract_lets others m1
      split
      · have v := (Mem.wf_iff m).1 w
        refine (Mem.wf_iff _).2 ⟨v.1, ?_, v.2.2⟩
        intro y hy
        rcases List.mem_append.1 hy with h | h
        · exact v.2.1 y (List.mem_filter.1 h).1
        · rw [List.mem_singleton.1 h]; exact v.2.1 x hx
      · exact Mem.filterL2_wf _ _ (m.writeBackSector_wf x w)

/-- A fill keeps the form, and the sector that it answers has it. -/
theorem Mem.fill_wf (m : Mem) (die block : Nat) (col : Bool) (w : m.wf = true) :
    cellsWf (m.fill die block col).1.cells = true ∧ (m.fill die block col).2.wf = true := by
  unfold Mem.fill
  cases h : m.sector die block with
  | some x =>
    have c : cellsWf x.cells = true := ((Mem.wf_iff m).1 w).2.1 x (List.mem_of_find?_eq_some h)
    cases hc : (if col then x.colCopy else x.rowCopy) with
    | true => simp only [hc]; exact ⟨c, w⟩
    | false => simp only [hc]; exact ⟨c, Mem.shrink_wf _ die (Mem.putSector_wf m _ w c)⟩
  | none =>
    have w1 := m.recall_wf block w
    have c := cellsIn_wf _ (1024 * block) 1024 ((Mem.wf_iff _).1 w1).1
    exact ⟨c, Mem.shrink_wf _ die (Mem.putSector_wf _ _ w1 c)⟩

theorem Mem.l2Read_wf (m : Mem) (die pa n : Nat) (col : Bool) (w : m.wf = true) : (m.l2Read die pa n col).2.wf = true :=
  (m.fill_wf die (blockOf pa) col w).2

theorem Mem.l2Write_wf (m : Mem) (die owner : Nat) (ps : List Host.Cell) (w : m.wf = true) :
    (m.l2Write die owner ps).wf = true := by
  cases ps with
  | nil => exact w
  | cons p r =>
    have w1 := (m.fill_wf die (blockOf p.1) false w).2
    have w2 := Mem.dropOthers_wf _ (some die) (blockOf p.1) w1
    have w3 := Mem.fill_wf _ die (blockOf p.1) false w2
    exact Mem.putSector_wf _ _ w3.2 (cellsWrite_wf _ _ w3.1)

theorem Mem.homeRead_wf (m : Mem) (pa n : Nat) (w : m.wf = true) : (m.homeRead pa n).2.wf = true := m.recall_wf _ w

theorem Mem.homeWrite_wf (m : Mem) (ps : List Host.Cell) (w : m.wf = true) : (m.homeWrite ps).wf = true := by
  cases ps with
  | nil => exact w
  | cons p r => exact Mem.hbmWrite_wf _ _ (Mem.dropOthers_wf m none (blockOf p.1) w)

theorem Mem.homeStore_wf (m : Mem) (ps : List Host.Cell) (w : m.wf = true) : (m.homeStore ps).wf = true := by
  cases ps with
  | nil => exact w
  | cons p r =>
    refine Mem.mapL2_wf _ (fun x => if x.block = blockOf p.1 then { x with stale := true } else x)
      (Mem.hbmWrite_wf _ _ (m.recall_wf (blockOf p.1) w)) ?_
    intro x; split <;> rfl

theorem Mem.putLine_wf (m : Mem) (x : L1Line) (w : m.wf = true) : (m.putLine x).wf = true := Mem.wf_of_cells w rfl rfl rfl

theorem Mem.dropLine_wf (m : Mem) (core line : Nat) (w : m.wf = true) : (m.dropLine core line).wf = true :=
  Mem.wf_of_cells w rfl rfl rfl

theorem Mem.sram_wf (m : Mem) (core : Nat) (w : m.wf = true) : cellsWf (m.sram core).cells = true := by
  unfold Mem.sram
  cases h : m.srams.find? (fun x => decide (x.core = core)) with
  | some x => exact ((Mem.wf_iff m).1 w).2.2 x (List.mem_of_find?_eq_some h)
  | none => rfl

theorem Mem.putSram_wf (m : Mem) (x : Sram) (w : m.wf = true) (h : cellsWf x.cells = true) : (m.putSram x).wf = true := by
  rw [Mem.wf_iff] at w ⊢
  refine ⟨w.1, w.2.1, ?_⟩
  intro y hy
  simp only [Mem.putSram, List.mem_cons, List.mem_filter] at hy
  rcases hy with e | hy
  · subst e; exact h
  · exact w.2.2 y hy.1

theorem Mem.sramWrite_wf (m : Mem) (core : Nat) (ps : List Host.Cell) (w : m.wf = true) : (m.sramWrite core ps).wf = true :=
  m.putSram_wf _ w (cellsWrite_wf _ ps (m.sram_wf core w))

theorem Mem.clearUnits_wf (m : Mem) (core lo hi : Nat) (w : m.wf = true) : (m.clearUnits core lo hi).wf = true :=
  m.putSram_wf _ w (cellsWfFrom_filter _ _ (m.sram_wf core w))

theorem Mem.poisonSector_wf (m : Mem) (die block : Nat) (ws : List Nat) (w : m.wf = true) :
    (m.poisonSector die block ws).wf = true := by
  unfold Mem.poisonSector
  cases h : m.sector die block with
  | some x => exact m.putSector_wf _ w (((Mem.wf_iff m).1 w).2.1 x (List.mem_of_find?_eq_some h))
  | none => exact w

/-! ## The operations of the machine on memory -/

/-- What every step of a list keeps, the whole list keeps. -/
theorem foldl_keeps {α β : Type} (p : β → Prop) (f : β → α → β) (h : ∀ b x, p b → p (f b x)) (l : List α) (b : β)
    (hb : p b) : p (l.foldl f b) := by
  induction l generalizing b with
  | nil => exact hb
  | cons x r ih => exact ih (f b x) (h b x hb)

theorem State.belowWrite_wf (s : State) (die owner : Nat) (ps : List Host.Cell) (w : s.mem.wf = true) :
    (s.belowWrite die owner ps).mem.wf = true := by
  cases ps with
  | nil => exact w
  | cons p r =>
    unfold State.belowWrite
    simp only
    split
    · exact s.mem.l2Write_wf die owner _ w
    · exact w

theorem State.writeBackLine_wf (s : State) (x : L1Line) (w : s.mem.wf = true) : (s.writeBackLine x).mem.wf = true := by
  unfold State.writeBackLine
  split
  · exact w
  · refine Mem.putLine_wf _ _ ?_
    have w1 := s.belowWrite_wf (s.dev.dieOf x.core) x.owner x.dirtyCells w
    split
    · exact w1
    · exact Mem.poisonSector_wf _ _ _ _ w1

theorem State.flushLine_wf (s : State) (core line : Nat) (w : s.mem.wf = true) : (s.flushLine core line).mem.wf = true := by
  unfold State.flushLine
  split
  · exact Mem.dropLine_wf _ _ _ (s.writeBackLine_wf _ w)
  · exact w

theorem State.externalRead_mem (s : State) (pa n : Nat) : (s.externalRead pa n).2.mem = s.mem := rfl

theorem State.levelRead_wf (s : State) (lv : Level) (die pa n : Nat) (w : s.mem.wf = true) :
    (s.levelRead lv die pa n).2.mem.wf = true := by
  unfold State.levelRead
  split
  · simp only
    split
    · exact s.mem.homeRead_wf pa n w
    · exact s.mem.l2Read_wf die pa n false w
  · exact w

theorem State.levelWrite_wf (s : State) (lv : Level) (die owner : Nat) (ps : List Host.Cell) (w : s.mem.wf = true) :
    (s.levelWrite lv die owner ps).mem.wf = true := by
  cases ps with
  | nil => exact w
  | cons p r =>
    unfold State.levelWrite
    simp only
    split
    · split
      · exact s.mem.homeWrite_wf _ w
      · exact s.mem.l2Write_wf die owner _ w
    · exact w

theorem State.rmw_wf (s : State) (lv : Level) (die owner pa : Nat) (f : Word → Word) (w : s.mem.wf = true) :
    (s.rmw lv die owner pa f).2.mem.wf = true := by
  have w1 := s.levelRead_wf lv die pa 8 w
  unfold State.rmw
  simp only
  split
  · exact w1
  · exact State.levelWrite_wf _ lv die owner _ w1

theorem State.pushPartial_wf (s : State) (p : Partial) (w : s.mem.wf = true) : (s.pushPartial p).mem.wf = true := by
  have w1 : (s.modMem (fun m => { m with partials := m.partials.filter (fun x => decide (x ≠ p)) })).mem.wf = true :=
    Mem.wf_of_cells w rfl rfl rfl
  unfold State.pushPartial
  extract_lets s1
  by_cases h : s1.pushPoisoned (decide (scopeLevel p.scope = .home)) (s.dev.dieOf p.core) (8 * p.word) 8 = true
  · rw [if_pos h]; exact w1
  · rw [if_neg h]; exact State.rmw_wf _ _ _ _ _ _ w1

theorem State.pushRf_wf (s : State) (p : RfPartial) (w : s.mem.wf = true) : (s.pushRf p).mem.wf = true := by
  have w1 : (s.modMem (fun m => { m with rfPartials := m.rfPartials.filter (fun x => decide (x ≠ p)) })).mem.wf = true :=
    Mem.wf_of_cells w rfl rfl rfl
  have w2 := foldl_keeps (fun t : State => t.mem.wf = true)
    (fun t x => (t.writeBackLine x).modMem (fun m => m.dropLine x.core x.line))
    (fun t x h => (t.writeBackLine x).mem.dropLine_wf x.core x.line (t.writeBackLine_wf x h))
    (s.mem.l1.filter (fun x => decide (x.line = p.slot))) _ w1
  have w3 := State.levelRead_wf _ .home 0 (64 * p.slot) 64 w2
  unfold State.pushRf
  extract_lets s1
  split
  · exact w1
  rename_i s2 _
  split
  rename_i b s3 e
  have w4 : s3.mem.wf = true :=
    (congrArg (fun q : List Byte × State => q.2.mem.wf) e).symm.trans (show (s2.levelRead .home 0 (64 * p.slot) 64).2.mem.wf = true from w3)
  extract_lets x acc pinf ninf nan y
  by_cases h : s3.pushPoisoned true 0 (64 * p.slot) 64 = true
  · rw [if_pos h]; exact w4
  · rw [if_neg h]; exact Mem.wf_of_cells (State.levelWrite_wf _ .home 0 0 _ w4) rfl rfl rfl

/-- Pushing lists of partials keeps the form. -/
theorem State.pushAll_wf (s : State) (ps : List Partial) (rs : List RfPartial) (w : s.mem.wf = true) :
    (rs.foldl (fun t p => t.pushRf p) (ps.foldl (fun t p => t.pushPartial p) s)).mem.wf = true :=
  foldl_keeps (fun t : State => t.mem.wf = true) _ (fun t p h => t.pushRf_wf p h) rs _
    (foldl_keeps (fun t : State => t.mem.wf = true) _ (fun t p h => t.pushPartial_wf p h) ps s w)

theorem State.evictLine_wf (s : State) (core line : Nat) (w : s.mem.wf = true) : (s.evictLine core line).mem.wf = true :=
  State.flushLine_wf _ core line (s.pushAll_wf _ _ w)

theorem State.choose_mem (s : State) (k : Nat) : (s.choose k).2.mem = s.mem := by
  unfold State.choose; split <;> rfl

theorem State.makeRoom_wf (s : State) (core line : Nat) (w : s.mem.wf = true) : (s.makeRoom core line).mem.wf = true := by
  have w1 : ∀ k, (s.choose k).2.mem.wf = true := fun k => by rw [State.choose_mem]; exact w
  unfold State.makeRoom
  extract_lets sps held peers cap
  split
  · exact w
  · simp only
    split
    · exact State.evictLine_wf _ core _ (w1 _)
    · exact w1 _

theorem State.allocLine_wf (s : State) (core line : Nat) (w : s.mem.wf = true) : (s.allocLine core line).2.mem.wf = true := by
  unfold State.allocLine
  split
  · exact w
  · exact Mem.putLine_wf _ _ (s.makeRoom_wf core line w)

theorem State.settle_wf (s : State) (core pa n : Nat) (w : s.mem.wf = true) : (s.settle core pa n).mem.wf = true := by
  unfold State.settle
  split
  · exact w
  · exact s.pushAll_wf _ _ w

theorem State.fillLine_wf (s : State) (core line : Nat) (w : s.mem.wf = true) : (s.fillLine core line).2.mem.wf = true :=
  Mem.putLine_wf _ _ (State.levelRead_wf _ .l2 _ _ 64 (State.writeBackLine_wf _ _ (s.allocLine_wf core line w)))

/-- A load keeps the form of memory. -/
theorem State.load_wf (s : State) (core pol pa n : Nat) (w : s.mem.wf = true) : (s.load core pol pa n).2.mem.wf = true := by
  have w0 := s.settle_wf core pa n w
  have hit : ∀ b : Bool, (if b then (s.settle core pa n).allocLine core (pa / 64)
      else (s.settle core pa n).fillLine core (pa / 64)).2.mem.wf = true := by
    intro b
    split
    · exact State.allocLine_wf _ core _ w0
    · exact State.fillLine_wf _ core _ w0
  unfold State.load
  by_cases h1 : decide (pa / 64 ∈ (s.settle core pa n).mem.marks) = true
  · rw [if_pos h1]
    simp only
    split <;> exact State.levelRead_wf _ .home _ _ 64 w0
  · rw [if_neg h1]
    by_cases h2 : pol = 0
    · rw [if_pos h2]; exact hit _
    · rw [if_neg h2]; exact State.levelRead_wf _ _ _ pa n w0

theorem State.zeroSlot_wf (s : State) (slot owner : Nat) (w : s.mem.wf = true) : (s.zeroSlot slot owner).mem.wf = true :=
  Mem.wf_of_cells (State.levelWrite_wf s .home 0 owner _ w) rfl rfl rfl

/-- A store that is performed at a level keeps the form of memory. -/
theorem State.levelStore_wf (s : State) (lv : Level) (die owner pa : Nat) (bs : List Byte) (w : s.mem.wf = true) :
    (s.levelStore lv die owner pa bs).mem.wf = true := by
  unfold State.levelStore
  split
  · exact s.zeroSlot_wf _ _ w
  · exact State.levelWrite_wf s lv die owner _ w

/-- A store keeps the form of memory. -/
theorem State.store_wf (s : State) (core pol owner pa : Nat) (bs : List Byte) (w : s.mem.wf = true) :
    (s.store core pol owner pa bs).mem.wf = true := by
  have w0 := s.settle_wf core pa bs.length w
  unfold State.store
  simp only
  split
  · exact State.zeroSlot_wf _ _ owner w0
  · split
    · exact Mem.putLine_wf _ _ (State.allocLine_wf _ core _ w0)
    · split
      · exact State.levelWrite_wf _ .l2 _ owner _ w0
      · split
        · exact Mem.homeStore_wf _ _ w0
        · exact w0

/-- A store to a checked piece keeps the form of memory. -/
theorem State.storePiece_wf (s : State) (core : Nat) (x : Piece) (bs : List Byte) (w : s.mem.wf = true) :
    (s.storePiece core x bs).mem.wf = true := by
  unfold State.storePiece
  split
  · exact s.store_wf _ _ _ _ _ w
  · exact s.mem.sramWrite_wf _ _ w

/-- So do the late words of vector stores that reach memory. -/
theorem State.landStores_wf (s : State) (p : LateStore → Bool) (w : s.mem.wf = true) : (s.landStores p).mem.wf = true := by
  unfold State.landStores
  split
  · exact w
  · exact foldl_keeps (fun t : State => t.mem.wf = true) _ (fun t x h => t.storePiece_wf _ _ _ h) _ _ w

theorem State.releaseLines_wf (s : State) (core : Nat) (sc : Scope) (w : s.mem.wf = true) :
    (s.releaseLines core sc).mem.wf = true := by
  unfold State.releaseLines
  split
  · exact w
  · have w1 : ((s.mem.l1.filter (fun x => decide (x.core = core))).foldl (fun t x => t.writeBackLine x) s).mem.wf = true :=
      foldl_keeps (fun t : State => t.mem.wf = true) _ (fun t x h => t.writeBackLine_wf x h) _ s w
    have w2 := fun l => foldl_keeps (fun t : State => t.mem.wf = true) _ (fun t p h => t.pushPartial_wf p h) l _ w1
    have w3 := fun l1 l2 => foldl_keeps (fun t : State => t.mem.wf = true) _ (fun t p h => t.pushRf_wf p h) l1 _ (w2 l2)
    simp only
    split
    · exact foldl_keeps (fun m : Mem => m.wf = true) _ (fun m x h => m.recall_wf x.block h) _ _ (w3 _ _)
    · exact w3 _ _

/-- A release keeps the form of memory. -/
theorem State.release_wf (s : State) (core : Nat) (sc : Scope) (w : s.mem.wf = true) : (s.release core sc).mem.wf = true :=
  State.releaseLines_wf _ core sc (s.landStores_wf _ w)

/-- An acquire keeps the form of memory. -/
theorem State.acquire_wf (s : State) (core : Nat) (sc : Scope) (w : s.mem.wf = true) : (s.acquire core sc).mem.wf = true := by
  unfold State.acquire
  split
  · exact w
  · simp only
    split
    · refine foldl_keeps (fun m : Mem => m.wf = true) _ ?_ _ _ (Mem.wf_of_cells w rfl rfl rfl)
      intro m x h
      exact Mem.filterL2_wf _ _ (m.writeBackSector_wf x h)
    · exact Mem.wf_of_cells w rfl rfl rfl

end Sys2Proof.Machine
end

