-- ==== Sys2Proof/Laws/Thread.lean ====
section
/-! SUPPORT. Thread laws: what consuming operands, writing a result and retiring an instruction change in a thread. -/

namespace Sys2Proof.Machine
open Sys2Proof

/-- What no element of a list changes, the list does not change. -/
theorem foldl_same {α β : Type} (f : β → α → β) (l : List α) (b : β) (h : ∀ x ∈ l, f b x = b) : l.foldl f b = b := by
  induction l with
  | nil => rfl
  | cons x r ih =>
    rw [List.foldl_cons, h x List.mem_cons_self]
    exact ih (fun y hy => h y (List.mem_cons_of_mem x hy))

/-- Names that are bound to nothing pop no runnel. -/
theorem State.popsOf_unbound (s : State) (c : Nat) (t : Thread) (rd : List Name) (h : ∀ n ∈ rd, (t.name n).bind = .none) :
    s.popsOf c t rd = [] := by
  unfold State.popsOf
  refine List.filterMap_eq_nil_iff.2 ?_
  intro n hn
  simp [h n hn]

theorem Thread.clearHeld_unbound (t : Thread) (rd : List Name) (h : ∀ n ∈ rd, (t.name n).bind = .none) :
    t.clearHeld rd = t := by
  unfold Thread.clearHeld
  refine foldl_same _ _ _ ?_
  intro n hn
  simp [h n hn]

/-- Reading names that are not bound leaves nothing behind. -/
theorem State.consume_unbound (s : State) (rd : List Name) (h : ∀ n ∈ rd, (s.thr.name n).bind = .none) :
    s.consume rd = s := by
  have e1 : s.popsOf s.cur.1 s.thr rd.eraseDups = [] :=
    s.popsOf_unbound _ _ _ (fun n hn => h n (List.mem_eraseDups.1 hn))
  simp [State.consume, e1, State.popRunnels, State.modThr, s.thr.clearHeld_unbound rd h]

/-- A name that is bound to nothing is written in the row file. -/
theorem State.writeName_unbound (s : State) (n : Name) (p : Word) (h : (s.thr.name n).bind = .none) :
    s.writeName n p = { s with thr := s.thr.setPat n p } := by
  simp [State.writeName, h, State.modThr]

/-- STEPOV ends, and nothing is kept of the steps of the instruction; nothing else of the thread changes. -/
theorem Thread.stepDone_form (t : Thread) :
    t.stepDone = { t with
      stepover := t.stepDone.stepover, dbgctl := t.stepDone.dbgctl, pushing := [], shadows := t.stepDone.shadows, exp := none } := by
  unfold Thread.stepDone Thread.stepUsed; split <;> rfl

theorem Thread.setName_form (t : Thread) (n : Name) (c : NameCell) : t.setName n c = { t with names := (t.setName n c).names } := by
  unfold Thread.setName; split <;> rfl

theorem Thread.setPat_form (t : Thread) (n : Name) (p : Word) : t.setPat n p = { t with names := (t.setPat n p).names } :=
  t.setName_form n _

theorem Thread.setRp_form (t : Thread) (v : Nat) : t.setRp v = { t with names := (t.setRp v).names } := t.setName_form 61 _

@[simp] theorem Thread.stepDone_name (t : Thread) (n : Name) : t.stepDone.name n = t.name n := by
  rw [t.stepDone_form]; rfl

@[simp] theorem Thread.stepDone_rep (t : Thread) : t.stepDone.rep = t.rep := by rw [t.stepDone_form]

/-- An instruction that retires moves the PC or its repeat, and rp with that; nothing is kept of its steps, and nothing else of the
thread changes. -/
theorem Thread.retire_form (t : Thread) : t.retire = { t with
    names := t.retire.names, pc := t.retire.pc, rep := t.retire.rep, stepover := t.retire.stepover, dbgctl := t.retire.dbgctl,
    pushing := [], shadows := t.retire.shadows, exp := none } := by
  have e := t.stepDone_form
  unfold Thread.retire
  cases h : t.stepDone.rep with
  | none => simp only [h]; rw [e]
  | some r =>
    simp only [h]
    split
    · rw [Thread.setRp_form, e]
    · rw [Thread.setRp_form, e]

/-- Retiring keeps every name; while a repeat runs, every one but rp. -/
theorem Thread.retire_name (t : Thread) (n : Name) (h : t.rep = none ∨ n ≠ 61) : t.retire.name n = t.name n := by
  have key : ∀ v, n ≠ 61 → (t.stepDone.setRp v).name n = t.name n := by
    intro v hn
    rw [Thread.setRp, Thread.name_setPat, if_pos (Or.inr hn), Thread.stepDone_name]
  unfold Thread.retire
  cases hr : t.stepDone.rep with
  | none => simp only [hr]; exact t.stepDone_name n
  | some r =>
    have hn : n ≠ 61 := by
      rcases h with h | h
      · rw [Thread.stepDone_rep, h] at hr; cases hr
      · exact h
    simp only [hr]
    split
    · exact key (rpAfter r.iter (t.stepDone.name 61).pat.toNat) hn
    · exact key (rpAfter r.iter (t.stepDone.name 61).pat.toNat) hn

@[simp] theorem Thread.retire_vregs (t : Thread) : t.retire.vregs = t.vregs := by rw [t.retire_form]
@[simp] theorem Thread.retire_flags (t : Thread) : t.retire.flags = t.flags := by rw [t.retire_form]
@[simp] theorem Thread.retire_privl (t : Thread) : t.retire.privl = t.privl := by rw [t.retire_form]
@[simp] theorem Thread.retire_trapc (t : Thread) : t.retire.trapc = t.trapc := by rw [t.retire_form]
@[simp] theorem Thread.retire_trappc (t : Thread) : t.retire.trappc = t.trappc := by rw [t.retire_form]
@[simp] theorem Thread.retire_trapa (t : Thread) : t.retire.trapa = t.trapa := by rw [t.retire_form]
@[simp] theorem Thread.retire_trapx (t : Thread) : t.retire.trapx = t.trapx := by rw [t.retire_form]
@[simp] theorem Thread.retire_trapv (t : Thread) : t.retire.trapv = t.trapv := by rw [t.retire_form]
@[simp] theorem Thread.retire_traprec (t : Thread) : t.retire.traprec = t.traprec := by rw [t.retire_form]
@[simp] theorem Thread.retire_maph (t : Thread) : t.retire.maph = t.maph := by rw [t.retire_form]
@[simp] theorem Thread.retire_srngc (t : Thread) : t.retire.srngc = t.srngc := by rw [t.retire_form]
@[simp] theorem Thread.retire_groups (t : Thread) : t.retire.groups = t.groups := by rw [t.retire_form]
@[simp] theorem Thread.retire_toks (t : Thread) : t.retire.toks = t.toks := by rw [t.retire_form]
@[simp] theorem Thread.retire_wait (t : Thread) : t.retire.wait = t.wait := by rw [t.retire_form]
@[simp] theorem Thread.retire_frozen (t : Thread) : t.retire.frozen = t.frozen := by rw [t.retire_form]
@[simp] theorem Thread.retire_inflight (t : Thread) : t.retire.inflight = t.inflight := by rw [t.retire_form]
@[simp] theorem Thread.retire_ctx (t : Thread) : t.retire.ctx = t.ctx := by rw [t.retire_form]
@[simp] theorem Thread.retire_recIx (t : Thread) : t.retire.recIx = t.recIx := by rw [t.retire_form]

@[simp] theorem State.retire_mem (s : State) : s.retire.mem = s.mem := rfl
@[simp] theorem State.retire_dev (s : State) : s.retire.dev = s.dev := rfl
@[simp] theorem State.retire_thr (s : State) : s.retire.thr = s.thr.retire := rfl

end Sys2Proof.Machine
end

