-- ==== Sys2Proof/Laws/Operations.lean ====
section
/-! SUPPORT. Operation laws: what each shared operation does once its checks have passed, in the words of the claims. -/

namespace Sys2Proof.Claims
open Sys2Proof Sys2Proof.Machine

/-! ## The checks before an instruction's own work -/

/-- An instruction that may execute goes on in the state that its operands bring. -/
theorem guarded_ready {s s1 : State} {u : Use} {k : State → Out} (h : Ready s u s1) : s.guarded u k = k s1 := by
  simp [State.guarded, h.1, h.2]

theorem guardedIf_ready {s s1 : State} {u : Use} {pre : State → Option Trap} {k : State → Out} (h : Ready s u s1)
    (hp : pre s = none) : s.guardedIf u pre k = k s1 := by
  simp [State.guardedIf, h.1, h.2, hp]

/-- An instruction whose checks fail takes the trap that they name. -/
theorem guarded_fail {s : State} {u : Use} {x : Trap} {k : State → Out} (h : s.useFail u = some x) :
    s.guarded u k = s.trap x := by
  simp [State.guarded, h]

/-- With no operand bound, the operands are at hand. -/
theorem ready_unbound {s : State} {u : Use} (h : s.useFail u = none) (hb : s.unbound u = true) : Ready s u s := by
  refine ⟨h, ?_⟩
  unfold State.gather
  rw [if_pos hb]

/-! ## Results -/

/-- In wrap mode every result is held (R35). -/
theorem narrow_wrap (k : Kind) (w : Nat) (v : Int) : (narrow k w .wrap v).isSome = true := by
  unfold narrow narrowVal
  split <;> simp_all
  split at * <;> simp_all

theorem narrowInto_some {s : State} {rd : List Name} {d : Name} {x : Int} {g : FlagWrite → FlagWrite} {r : Narrowed}
    (h : s.thr.narrow d x = some r) : s.narrowInto rd d x g = .next (After s rd (put1 d r.pat (g r.flags))) := by
  simp [State.narrowInto, h, State.finish, After, put1, State.done]

theorem narrowAfter_some {s : State} {rd : List Name} {d : Name} {x : Int} {g : FlagWrite → FlagWrite} {r : Narrowed}
    (h : s.thr.narrow d x = some r) : s.narrowAfter rd d x g = .next (After s rd (put1 d r.pat (g r.flags))) := by
  simp [State.narrowAfter, h, State.finish, After, put1, State.done]

/-- A long-latency instruction completes, or leaves its window open (R17). -/
theorem finishLong_eq (s : State) (l : Nat) (rd : List Name) (r : Pending) :
    s.finishLong l rd r = .next (AfterLong s l rd r) := by
  unfold State.finishLong AfterLong; split <;> rfl

theorem narrowLong_some {s : State} {l : Nat} {rd : List Name} {d : Name} {x : Int} {r : Narrowed}
    (h : s.thr.narrow d x = some r) : s.narrowLong l rd d x =
      .next (AfterLong s (if (s.thr.name d).mode = .trap then 0 else l) rd (put1 d r.pat r.flags)) := by
  simp [State.narrowLong, h, finishLong_eq]; rfl

theorem narrowLongAfter_some {s : State} {l : Nat} {rd : List Name} {d : Name} {x : Int} {r : Narrowed}
    (h : s.thr.narrow d x = some r) : s.narrowLongAfter l rd d x =
      .next (AfterLong s (if (s.thr.name d).mode = .trap then 0 else l) rd (put1 d r.pat r.flags)) := by
  simp [State.narrowLongAfter, h, finishLong_eq]; rfl

theorem putVreg_eq (s : State) (rd : List Name) (d : VReg) (x : VRegVal) :
    s.putVreg rd d x = .next (After s rd (putV d x)) := rfl

/-! ## Frames of results -/

/-- One name written, no operand bound: the thread alone changes. -/
theorem after_put1 {s : State} {rd : List Name} (h : ∀ n ∈ rd, (s.thr.name n).bind = .none) {d : Name}
    (hd : (s.thr.name d).bind = .none) (p : Word) (f : FlagWrite) :
    After s rd (put1 d p f) = { s with thr := ((s.thr.setPat d p).putFlags f).retire } := by
  simp [After, State.consume_unbound s rd h, State.apply, put1, Pending.none, State.writeName, hd, State.modThr, State.retire]

/-- One vector register written, no operand bound: the thread alone changes. -/
theorem after_putV {s : State} {rd : List Name} (h : ∀ n ∈ rd, (s.thr.name n).bind = .none) (d : VReg) (x : VRegVal) :
    After s rd (putV d x) = { s with thr := ((s.thr.setVreg d x).putFlags FlagWrite.none).retire } := by
  simp [After, State.consume_unbound s rd h, State.apply, putV, Pending.none, State.modThr, State.retire]

/-! ## Accesses -/

theorem accessAll_one {s s1 : State} {k : AccKind} {p n al : Nat} {ps : List Piece} (h : Hit s k p n al ps s1) :
    s.accessAll k [(p, n, al)] = (.ok ps, s1) := by
  unfold Hit at h; simp [State.accessAll, h]

theorem loading_one {s s1 s2 : State} {p n al : Nat} {ps : List Piece} {bs : List Byte} {k : List Byte → State → Out}
    (h : Hit s .read p n al ps s1) (g : Got s1 ps bs s2) : s.loading [(p, n, al)] k = k bs s2 := by
  simp only [State.loading, accessAll_one h, State.loadBytes, g.1, g.2]

theorem loading_all {s s1 s2 : State} {parts : List (Nat × Nat × Nat)} {ps : List Piece} {bs : List Byte}
    {k : List Byte → State → Out} (h : HitAll s .read parts ps s1) (g : Got s1 ps bs s2) : s.loading parts k = k bs s2 := by
  unfold HitAll at h; simp only [State.loading, h, State.loadBytes, g.1, g.2]

theorem storing_one {s s1 : State} {p n al : Nat} {ps : List Piece} {bs : List Byte} {k : State → Out}
    (h : Hit s .write p n al ps s1) : s.storing [(p, n, al)] bs k = k (s1.storePieces s1.cur.1 ps bs) := by
  simp only [State.storing, accessAll_one h]

theorem storing_all {s s1 : State} {parts : List (Nat × Nat × Nat)} {ps : List Piece} {bs : List Byte} {k : State → Out}
    (h : HitAll s .write parts ps s1) : s.storing parts bs k = k (s1.storePieces s1.cur.1 ps bs) := by
  unfold HitAll at h; simp only [State.storing, h]

theorem wordAccess_at {s s1 : State} {k : AccKind} {p : Nat} {x : Piece} {f : Piece → State → Out} (h : WordAt s k p x s1) :
    s.wordAccess k p f = f x s1 := by
  obtain ⟨r, h⟩ := h; simp [State.wordAccess, h]

theorem cleanWord_clean {s : State} {lv : Level} {x : Piece} {f : State → Out} (h : s.levelPoison lv x = none) :
    s.cleanWord lv x f = f s := by simp [State.cleanWord, h]

theorem withBasin_hit {s s2 : State} {k : AccKind} {p pa : Nat} {w : Basin} {f : Nat → Basin → State → Out}
    (h : BasinHit s k p pa w s2) : s.withBasin k p f = f pa w s2 := by
  obtain ⟨s1, q, pol, ow, n, bs, h1, h2, h3, h4, rfl, h6⟩ := h
  simp only [State.withBasin, h1, h2]
  rw [if_neg (by simp), wordAccess_at h3.1]
  simp only [cleanWord_clean h3.2, h4, h6]
  rfl

/-! ## Vector instructions -/

theorem vissue_ready {s s2 : State} {u : Use} {pre : State → Option Trap} {k : State → Out} (h : VReady s u pre s2) :
    s.vissue u pre k = k s2 := by
  obtain ⟨s1, h1, h2, h3, rfl⟩ := h
  simp [State.vissue, State.guardedIf, h1.1, h1.2, h2, State.vqFull, show ¬ 4 ≤ (s1.core s1.cur.1).vq.length by omega]

/-! ## The vector dispatch queue -/

/-- What a change to the thread of a slot changes: a core's slots, or the thread that runs (R128). -/
theorem modThread_form (s : State) (c i : Nat) (f : Thread → Thread) :
    (∃ cs, s.modThread c i f = { s with cores := cs }) ∨ s.modThread c i f = { s with thr := f s.thr } := by
  unfold State.modThread State.threadAt State.putThread
  split
  · exact .inl ⟨s.cores, rfl⟩
  · rename_i t ht
    cases h : ((s.core c).slot i).occ with
    | free => exact .inl ⟨s.cores, rfl⟩
    | thread _ => exact .inl ⟨_, rfl⟩
    | running =>
      rw [h] at ht
      by_cases hc : s.cur = (c, i)
      · rw [if_pos hc] at ht; cases ht; exact .inr (if_pos hc)
      · rw [if_neg hc] at ht; cases ht

/-- What the end of a hand-off changes: queues, slots, and of the thread that runs a token and its wait for the slot (R156, R291). -/
theorem handOver_form (s : State) (c i id : Nat) :
    ∃ cs ks o, s.handOver c i id = { s with cores := cs, thr := { s.thr with toks := ks, out := o } } := by
  unfold State.handOver
  dsimp only
  rcases modThread_form _ c i _ with ⟨cs, h⟩ | h <;> rw [h]
  · exact ⟨_, s.thr.toks, s.thr.out, rfl⟩
  · split <;> exact ⟨_, _, _, rfl⟩

/-- What a take of the vector unit changes: queues, slots and the core served last, and of the thread that runs a token and its wait
for the slot (R154, R156). -/
theorem vectorTake_form (q : Nat) (l : List Nat) (s : State) : ∃ cs qs ks o,
    s.vectorTake q l = { s with cores := cs, quads := qs, thr := { s.thr with toks := ks, out := o } } := by
  induction l with
  | nil => exact ⟨s.cores, s.quads, s.thr.toks, s.thr.out, rfl⟩
  | cons c r ih =>
    unfold State.vectorTake
    dsimp only
    split
    · exact ih
    · rename_i e rest _
      cases e with
      | op _ => exact ⟨_, _, s.thr.toks, s.thr.out, rfl⟩
      | handoff j k =>
        obtain ⟨a, b, d, h⟩ := handOver_form ((s.setCore (4 * q + c) { s.core (4 * q + c) with vq := rest }).setQuad q
          { s.quad q with lastVec := c }) (4 * q + c) j k
        exact ⟨a, _, b, d, h⟩

/-- What the vector unit's work up to a slot's last entry changes (R153 to R155). -/
theorem vectorDrain_form (c i n : Nat) (s : State) : ∃ cs qs ks o,
    s.vectorDrain c i n = { s with cores := cs, quads := qs, thr := { s.thr with toks := ks, out := o } } := by
  induction n generalizing s with
  | zero => exact ⟨s.cores, s.quads, s.thr.toks, s.thr.out, rfl⟩
  | succ n ih =>
    unfold State.vectorDrain
    split
    · obtain ⟨_, _, _, _, h1⟩ := vectorTake_form (c / 4) (rotation (s.quad (c / 4)).lastVec) s
      obtain ⟨a, q, b, d, h⟩ := ih (s.vectorTake (c / 4) (rotation (s.quad (c / 4)).lastVec))
      rw [h, h1]
      exact ⟨a, q, b, d, rfl⟩
    · exact ⟨s.cores, s.quads, s.thr.toks, s.thr.out, rfl⟩

theorem vectorDone_form (s : State) (c i : Nat) : ∃ cs qs ks o,
    s.vectorDone c i = { s with cores := cs, quads := qs, thr := { s.thr with toks := ks, out := o } } :=
  vectorDrain_form c i _ s

@[simp] theorem vectorDone_cur (s : State) (c i : Nat) : (s.vectorDone c i).cur = s.cur := by
  obtain ⟨_, _, _, _, h⟩ := vectorDone_form s c i; rw [h]

/-! ## Parking -/

/-- What reserving push entries can change: runnels, the serial numbers, what the thread has reserved (R160). -/
theorem reservePushes_form (ns : List Name) (s : State) :
    ∃ rs n ps, s.reservePushes ns = { s with runnels := rs, serial := n, thr := { s.thr with pushes := ps } } := by
  induction ns generalizing s with
  | nil => exact ⟨s.runnels, s.serial, s.thr.pushes, rfl⟩
  | cons n r ih =>
    unfold State.reservePushes
    split
    · split
      · obtain ⟨a, b, c, h⟩ := ih _; exact ⟨a, b, c, h⟩
      · exact ih s
    · exact ih s

/-- What parking changes: the thread's wait and what it will consume and fill, the order of the parked, reserved entries. -/
theorem park_form (s : State) (reads : List Name) (w : Wait) : ∃ rs n ps, s.park reads w =
    { s with
      runnels := rs, serial := n, parkOrder := s.parkOrder.filter (fun p => decide (p ≠ s.cur)) ++ [s.cur]
      thr := { s.thr with
        wait := some w, reads := reads.eraseDups, pops := s.popsOf s.cur.1 s.thr reads.eraseDups, pushes := ps } } := by
  obtain ⟨a, b, c, h⟩ := reservePushes_form s.thr.pushing ((s.parkBare w).modThr
    (fun t => { t with reads := reads.eraseDups, pops := s.popsOf s.cur.1 s.thr reads.eraseDups }))
  exact ⟨a, b, c, h⟩

/-! ## The noria's queues -/

/-- Every core of a quad is examined in a rotation (R289). -/
theorem mem_rotation (last c : Nat) (h : c < 4) : c ∈ rotation last := by
  simp [Sys2Proof.Machine.rotation, List.range, List.range.loop]; omega

/-- The one entry of a quad's queues is taken, if it can start (R289). -/
theorem noriaTake_alone {s : State} {q core : Nat} {e : NqEntry} (he : (s.core core).nq = [e])
    (hs : (s.quad q).canStart e = true) (l : List Nat) (ho : ∀ c ∈ l, 4 * q + c ≠ core → (s.core (4 * q + c)).nq = [])
    (hm : ∃ c ∈ l, 4 * q + c = core) :
    s.noriaTake q l = (s.setCore core { s.core core with nq := [] }).takeEntry core e := by
  induction l with
  | nil => obtain ⟨c, hc, _⟩ := hm; cases hc
  | cons c r ih =>
    unfold State.noriaTake
    by_cases h : 4 * q + c = core
    · simp only [h, he, hs, if_true]
    · simp only [ho c List.mem_cons_self h]
      refine ih (fun x hx => ho x (List.mem_cons_of_mem c hx)) ?_
      obtain ⟨x, hx, hxc⟩ := hm
      rcases List.mem_cons.1 hx with rfl | hx
      · exact absurd hxc h
      · exact ⟨x, hx, hxc⟩

/-- An entry that a noria takes at once: the only one, with no release under way (R289, log 102). -/
theorem noriaTurn_alone {s x : State} {op : NoriaOp} (hq : s.queued s.myQuad = [])
    (hr : (s.quad s.myQuad).releases = [])
    (hc : x.cores = (s.nqPush op).2.cores) (hd : x.quads = s.quads)
    (hs : (s.quad s.myQuad).canStart ⟨s.serial, s.cur.2, s.thr.ctx, s.thr.recIx, op⟩ = true) :
    x.noriaTurn s.myQuad = (x.setCore s.cur.1 { x.core s.cur.1 with nq := [] }).takeEntry s.cur.1
      ⟨s.serial, s.cur.2, s.thr.ctx, s.thr.recIx, op⟩ := by
  have hquad : x.quad s.myQuad = s.quad s.myQuad := by unfold State.quad; rw [hd]
  have hcore (c : Nat) : x.core c = (s.nqPush op).2.core c := by unfold State.core; rw [hc]
  have hmod : 4 * s.myQuad + s.cur.1 % 4 = s.cur.1 := by unfold State.myQuad; omega
  have hnil (c : Nat) (h : c < 4) : (s.core (4 * s.myQuad + c)).nq = [] := by
    have := List.flatMap_eq_nil_iff.1 hq c (List.mem_range.2 h); exact this
  unfold State.noriaTurn
  rw [hquad, hr]
  simp only [List.foldl_nil]
  refine noriaTake_alone ?_ (by rw [hquad]; exact hs) _ ?_ ⟨s.cur.1 % 4, mem_rotation _ _ (by omega), hmod⟩
  · rw [hcore]; simp only [State.nqPush, State.fresh]
    rw [State.core_setCore, if_pos rfl]
    have := hnil (s.cur.1 % 4) (by omega); rw [hmod] at this
    simp only [State.core] at this ⊢; simp [this]
  · intro c hcm hne
    rw [hcore]; simp only [State.nqPush, State.fresh]
    rw [State.core_setCore, if_neg hne]
    refine hnil c ?_
    simp only [Sys2Proof.Machine.rotation, List.mem_map] at hcm
    obtain ⟨i, _, rfl⟩ := hcm; omega

/-- What the noria makes of a request that it takes at once (R289, log 102). -/
theorem awaitNoria_alone {s s2 : State} {reads : List Name} {d : Name} {op : NoriaOp} {e : NqEntry}
    (h : AtNoria s reads d op e s2) (hs : (s.quad s.myQuad).canStart e = true) :
    ∃ y : State, s2 = y.setQuad s.myQuad { y.quad s.myQuad with lastNoria := s.cur.1 % 4 } ∧
      s.awaitNoria reads d op = .next (y.takeEntry s.cur.1 e) := by
  obtain ⟨h1, h2, rfl, h4⟩ := h
  refine ⟨_, h4, ?_⟩
  unfold State.awaitNoria State.askNoria
  simp only [h1, List.isEmpty_nil, if_true]
  have hp : (s.nqPush op).1 = s.serial := rfl
  obtain ⟨a, b, c, hf⟩ := park_form (s.nqPush op).2 reads (.noria s.serial d)
  refine congrArg Host.Outcome.next ?_
  exact noriaTurn_alone h1 h2 (by rw [hp, hf]) (by rw [hp, hf]; rfl) hs

/-- A noria step that may issue goes on in the state that its operands bring (R289, R293). -/
theorem noriaStep_ready {s s1 : State} {u : Use} {w : State → Nat} {k : State → Out} (h : NReady s u s1) :
    s.noriaStep u w k = k s1 := by
  simp [State.noriaStep, guarded_ready h.1, h.2.1]

theorem nqFull_false {s s1 : State} {u : Use} (h : NReady s u s1) : s1.nqFull = false := by simp [State.nqFull, h.2.2]

/-- A registration ends, or begins, on the core that is named, whoever's turn it is (R292). -/
theorem reserve_cur (core : Nat) (on : Bool) (l : List Nat) (s : State) : (s.reserve core l on).cur = s.cur := by
  unfold State.reserve
  induction l generalizing s with
  | nil => rfl
  | cons i r ih => exact ih _

theorem unregister_cur (s : State) (core : Nat) : (s.unregister core).cur = s.cur := by
  unfold State.unregister
  split
  · rfl
  · exact reserve_cur _ _ _ _

theorem choose_cur (s : State) (k : Nat) : (s.choose k).2.cur = s.cur := by unfold State.choose; split <;> rfl

theorem takeRecord_cur (s : State) (ctx : Nat) : (s.takeRecord ctx).2.cur = s.cur := by
  unfold State.takeRecord
  split
  · rfl
  · split
    · rfl
    · exact choose_cur _ _

theorem takeRecords_cur (ctx n : Nat) (s : State) : (s.takeRecords ctx n).2.cur = s.cur := by
  induction n generalizing s with
  | zero => rfl
  | succ n ih =>
    have h := takeRecord_cur s ctx
    unfold State.takeRecords
    split
    · rename_i s1 h1; rw [h1] at h; exact h
    · rename_i k s1 h1; rw [h1] at h; exact (ih _).trans h

theorem registerHandler_cur (s : State) (core n : Nat) (t : Thread) (handle pc maph : Word) :
    (s.registerHandler core t n handle pc maph).cur = s.cur :=
  (reserve_cur core true _ _).trans (takeRecords_cur _ _ _)

/-! ## The split of a core's memory -/

/-- Every core keeps its scratchpad units and their owner. -/
def SameSplit (s t : State) : Prop := ∀ c, (t.core c).sps = (s.core c).sps ∧ (t.core c).own = (s.core c).own

theorem SameSplit.trans {s t u : State} (a : SameSplit s t) (b : SameSplit t u) : SameSplit s u :=
  fun c => ⟨(b c).1.trans (a c).1, (b c).2.trans (a c).2⟩

theorem sameSplit_cores {s t : State} (h : t.cores = s.cores) : SameSplit s t := fun c => by simp [State.core, h]

theorem sameSplit_foldl {α : Type} (f : State → α → State) (h : ∀ (t : State) (x : α), SameSplit t (f t x)) (l : List α) (s : State) :
    SameSplit s (l.foldl f s) := by
  induction l generalizing s with
  | nil => exact fun _ => ⟨rfl, rfl⟩
  | cons x r ih => exact (h s x).trans (ih (f s x))

theorem modThread_split (s : State) (c i : Nat) (f : Thread → Thread) : SameSplit s (s.modThread c i f) := by
  unfold State.modThread State.putThread
  split
  · exact fun _ => ⟨rfl, rfl⟩
  · split
    · exact fun _ => ⟨rfl, rfl⟩
    · split <;> exact fun _ => ⟨rfl, rfl⟩
    · intro j
      rw [State.core_setCore]
      split
      · subst_vars; exact ⟨rfl, rfl⟩
      · exact ⟨rfl, rfl⟩

theorem homeStorePieces_only (ps : List Piece) (bs : List Byte) (s : State) : s.MemOnly (s.homeStorePieces ps bs) := by
  induction ps generalizing s bs with
  | nil => exact State.MemOnly.refl s
  | cons x r ih =>
    unfold State.homeStorePieces
    refine State.MemOnly.trans ?_ (ih _ _)
    split
    · exact State.levelStore_only _ _ _ _ _ _
    · exact State.modMem_only _ _

theorem sysWrite_only (s : State) (ctx va : Nat) (bs : List Byte) : s.MemOnly (s.sysWrite ctx va bs) := by
  unfold State.sysWrite
  split
  · exact homeStorePieces_only _ _ s
  · exact State.MemOnly.refl s

theorem dropPushes_cores (s : State) (t : Thread) : (s.dropPushes t).cores = s.cores := by
  unfold State.dropPushes
  induction t.pushes generalizing s with
  | nil => rfl
  | cons x r ih => exact (ih _).trans rfl

/-- The end of a wait leaves every core's split as it is. -/
theorem wakeParty_split (s : State) (p : Party) (acq : Option Scope) (f : Thread → Thread) : SameSplit s (s.wakeParty p acq f) := by
  cases p with
  | remote _ => exact fun _ => ⟨rfl, rfl⟩
  | record ctx k =>
    refine sameSplit_cores ?_
    simp only [State.wakeParty, State.enqueueReady, State.writeRecord]
    split <;> split <;> first
      | rfl
      | exact ((sysWrite_only _ _ _ _).trans (sysWrite_only _ _ _ _)).cores
  | slot c i =>
    simp only [State.wakeParty]
    have h : ∀ u : State, SameSplit u (u.unparkOrder c i) := fun _ _ => ⟨rfl, rfl⟩
    refine SameSplit.trans ?_ (h _)
    refine SameSplit.trans ?_ (modThread_split _ _ _ _)
    split
    · exact sameSplit_cores (dropPushes_cores _ _)
    · exact fun _ => ⟨rfl, rfl⟩

theorem expelSram_split (s : State) (core : Nat) : SameSplit s (s.expelSram core) := by
  unfold State.expelSram
  exact SameSplit.trans (sameSplit_cores rfl) (sameSplit_foldl _ (fun t p => wakeParty_split t p _ _) _ _)

/-- After a change of a core's split it holds the units and the owner asked for, none where it holds no unit (R190 to R192). -/
theorem setSplit_split (s : State) (core sps own : Nat) :
    ((s.setSplit core sps own).core core).sps = sps ∧ ((s.setSplit core sps own).core core).own = if sps = 0 then 0 else own := by
  unfold State.setSplit
  dsimp only
  have h : ∀ (p : Prop) [Decidable p] (t : State) (f g : Mem → Mem),
      (if p then t.modMem f else t.modMem g).core core = t.core core := fun p _ t f g => by split <;> rfl
  exact ⟨((expelSram_split _ core) core).1.trans (by rw [h, State.core_setCore, if_pos rfl]),
    ((expelSram_split _ core) core).2.trans (by rw [h, State.core_setCore, if_pos rfl])⟩
end Sys2Proof.Claims
end

