-- ==== Sys2Proof/Laws/PerInstr.lean ====
section
/-! SUPPORT. PerInstr: facts stated of each instruction of the syntax. -/

namespace Sys2Proof.Laws.Length
open Sys2Proof
set_option Elab.async false

/-- An instruction has a word exactly when its length is not 0, and bit 0 of the word is 1 exactly for the words of four
bytes (R72). -/
def Statement (i : Instr) : Prop := (i.hasWord = true ↔ encodeLen i ≠ 0) ∧ (encode i % 2 = 1 ↔ encodeLen i = 4)

theorem step {k a x r : Nat} (hk : k % 2 = r) (ha : a % 2 = 0) : (k + a * x) % 2 = r := by
  rw [Nat.add_mod, Nat.mul_mod, ha, hk]; simp; omega

theorem four {i : Instr} (h : i.hasWord = true) (l : encodeLen i = 4) (e : encode i % 2 = 1) : Statement i := by
  refine ⟨?_, ?_⟩ <;> simp [h, l, e]

theorem two {i : Instr} (h : i.hasWord = true) (l : encodeLen i = 2) (e : encode i % 2 = 0) : Statement i := by
  refine ⟨?_, ?_⟩ <;> simp [h, l, e]

theorem none {i : Instr} (h : i.hasWord = false) (l : encodeLen i = 0) (e : encode i = 0) : Statement i := by
  refine ⟨?_, ?_⟩ <;> simp [h, l, e]

theorem add : ∀ x0 x1 x2, Statement (.add x0 x1 x2) := fun _ _ _ => four rfl rfl (by unfold encode; repeat (first | rfl | refine step ?_ rfl))
theorem sub : ∀ x0 x1 x2, Statement (.sub x0 x1 x2) := fun _ _ _ => four rfl rfl (by unfold encode; repeat (first | rfl | refine step ?_ rfl))
theorem mul : ∀ x0 x1 x2, Statement (.mul x0 x1 x2) := fun _ _ _ => four rfl rfl (by unfold encode; repeat (first | rfl | refine step ?_ rfl))
theorem mulh : ∀ x0 x1 x2, Statement (.mulh x0 x1 x2) := fun _ _ _ => four rfl rfl (by unfold encode; repeat (first | rfl | refine step ?_ rfl))
theorem div : ∀ x0 x1 x2, Statement (.div x0 x1 x2) := fun _ _ _ => four rfl rfl (by unfold encode; repeat (first | rfl | refine step ?_ rfl))
theorem divu : ∀ x0 x1 x2, Statement (.divu x0 x1 x2) := fun _ _ _ => four rfl rfl (by unfold encode; repeat (first | rfl | refine step ?_ rfl))
theorem rem : ∀ x0 x1 x2, Statement (.rem x0 x1 x2) := fun _ _ _ => four rfl rfl (by unfold encode; repeat (first | rfl | refine step ?_ rfl))
theorem remu : ∀ x0 x1 x2, Statement (.remu x0 x1 x2) := fun _ _ _ => four rfl rfl (by unfold encode; repeat (first | rfl | refine step ?_ rfl))
theorem and : ∀ x0 x1 x2, Statement (.and x0 x1 x2) := fun _ _ _ => four rfl rfl (by unfold encode; repeat (first | rfl | refine step ?_ rfl))
theorem or : ∀ x0 x1 x2, Statement (.or x0 x1 x2) := fun _ _ _ => four rfl rfl (by unfold encode; repeat (first | rfl | refine step ?_ rfl))
theorem xor : ∀ x0 x1 x2, Statement (.xor x0 x1 x2) := fun _ _ _ => four rfl rfl (by unfold encode; repeat (first | rfl | refine step ?_ rfl))
theorem andn : ∀ x0 x1 x2, Statement (.andn x0 x1 x2) := fun _ _ _ => four rfl rfl (by unfold encode; repeat (first | rfl | refine step ?_ rfl))
theorem shl : ∀ x0 x1 x2, Statement (.shl x0 x1 x2) := fun _ _ _ => four rfl rfl (by unfold encode; repeat (first | rfl | refine step ?_ rfl))
theorem shr : ∀ x0 x1 x2, Statement (.shr x0 x1 x2) := fun _ _ _ => four rfl rfl (by unfold encode; repeat (first | rfl | refine step ?_ rfl))
theorem sra : ∀ x0 x1 x2, Statement (.sra x0 x1 x2) := fun _ _ _ => four rfl rfl (by unfold encode; repeat (first | rfl | refine step ?_ rfl))
theorem rol : ∀ x0 x1 x2, Statement (.rol x0 x1 x2) := fun _ _ _ => four rfl rfl (by unfold encode; repeat (first | rfl | refine step ?_ rfl))
theorem min : ∀ x0 x1 x2, Statement (.min x0 x1 x2) := fun _ _ _ => four rfl rfl (by unfold encode; repeat (first | rfl | refine step ?_ rfl))
theorem minu : ∀ x0 x1 x2, Statement (.minu x0 x1 x2) := fun _ _ _ => four rfl rfl (by unfold encode; repeat (first | rfl | refine step ?_ rfl))
theorem max : ∀ x0 x1 x2, Statement (.max x0 x1 x2) := fun _ _ _ => four rfl rfl (by unfold encode; repeat (first | rfl | refine step ?_ rfl))
theorem maxu : ∀ x0 x1 x2, Statement (.maxu x0 x1 x2) := fun _ _ _ => four rfl rfl (by unfold encode; repeat (first | rfl | refine step ?_ rfl))
theorem ceq : ∀ x0 x1 x2, Statement (.ceq x0 x1 x2) := fun _ _ _ => four rfl rfl (by unfold encode; repeat (first | rfl | refine step ?_ rfl))
theorem cne : ∀ x0 x1 x2, Statement (.cne x0 x1 x2) := fun _ _ _ => four rfl rfl (by unfold encode; repeat (first | rfl | refine step ?_ rfl))
theorem clt : ∀ x0 x1 x2, Statement (.clt x0 x1 x2) := fun _ _ _ => four rfl rfl (by unfold encode; repeat (first | rfl | refine step ?_ rfl))
theorem cltu : ∀ x0 x1 x2, Statement (.cltu x0 x1 x2) := fun _ _ _ => four rfl rfl (by unfold encode; repeat (first | rfl | refine step ?_ rfl))
theorem cle : ∀ x0 x1 x2, Statement (.cle x0 x1 x2) := fun _ _ _ => four rfl rfl (by unfold encode; repeat (first | rfl | refine step ?_ rfl))
theorem cleu : ∀ x0 x1 x2, Statement (.cleu x0 x1 x2) := fun _ _ _ => four rfl rfl (by unfold encode; repeat (first | rfl | refine step ?_ rfl))
theorem sel : ∀ x0 x1 x2, Statement (.sel x0 x1 x2) := fun _ _ _ => four rfl rfl (by unfold encode; repeat (first | rfl | refine step ?_ rfl))
theorem bfx : ∀ x0 x1 x2, Statement (.bfx x0 x1 x2) := fun _ _ _ => four rfl rfl (by unfold encode; repeat (first | rfl | refine step ?_ rfl))
theorem bfi : ∀ x0 x1 x2, Statement (.bfi x0 x1 x2) := fun _ _ _ => four rfl rfl (by unfold encode; repeat (first | rfl | refine step ?_ rfl))
theorem clz : ∀ x0 x1, Statement (.clz x0 x1) := fun _ _ => four rfl rfl (by unfold encode; repeat (first | rfl | refine step ?_ rfl))
theorem popc : ∀ x0 x1, Statement (.popc x0 x1) := fun _ _ => four rfl rfl (by unfold encode; repeat (first | rfl | refine step ?_ rfl))
theorem abs : ∀ x0 x1, Statement (.abs x0 x1) := fun _ _ => four rfl rfl (by unfold encode; repeat (first | rfl | refine step ?_ rfl))
theorem neg : ∀ x0 x1, Statement (.neg x0 x1) := fun _ _ => four rfl rfl (by unfold encode; repeat (first | rfl | refine step ?_ rfl))
theorem not : ∀ x0 x1, Statement (.not x0 x1) := fun _ _ => four rfl rfl (by unfold encode; repeat (first | rfl | refine step ?_ rfl))
theorem mov : ∀ x0 x1, Statement (.mov x0 x1) := fun _ _ => four rfl rfl (by unfold encode; repeat (first | rfl | refine step ?_ rfl))
theorem addi : ∀ x0 x1 x2, Statement (.addi x0 x1 x2) := fun _ _ _ => four rfl rfl (by unfold encode; repeat (first | rfl | refine step ?_ rfl))
theorem andi : ∀ x0 x1 x2, Statement (.andi x0 x1 x2) := fun _ _ _ => four rfl rfl (by unfold encode; repeat (first | rfl | refine step ?_ rfl))
theorem ori : ∀ x0 x1 x2, Statement (.ori x0 x1 x2) := fun _ _ _ => four rfl rfl (by unfold encode; repeat (first | rfl | refine step ?_ rfl))
theorem xori : ∀ x0 x1 x2, Statement (.xori x0 x1 x2) := fun _ _ _ => four rfl rfl (by unfold encode; repeat (first | rfl | refine step ?_ rfl))
theorem shli : ∀ x0 x1 x2, Statement (.shli x0 x1 x2) := fun _ _ _ => four rfl rfl (by unfold encode; repeat (first | rfl | refine step ?_ rfl))
theorem shri : ∀ x0 x1 x2, Statement (.shri x0 x1 x2) := fun _ _ _ => four rfl rfl (by unfold encode; repeat (first | rfl | refine step ?_ rfl))
theorem srai : ∀ x0 x1 x2, Statement (.srai x0 x1 x2) := fun _ _ _ => four rfl rfl (by unfold encode; repeat (first | rfl | refine step ?_ rfl))
theorem clti : ∀ x0 x1 x2, Statement (.clti x0 x1 x2) := fun _ _ _ => four rfl rfl (by unfold encode; repeat (first | rfl | refine step ?_ rfl))
theorem ldk : ∀ x0 x1, Statement (.ldk x0 x1) := fun _ _ => four rfl rfl (by unfold encode; repeat (first | rfl | refine step ?_ rfl))
theorem ldks : ∀ x0 x1, Statement (.ldks x0 x1) := fun _ _ => four rfl rfl (by unfold encode; repeat (first | rfl | refine step ?_ rfl))
theorem resize : ∀ x0 x1, Statement (.resize x0 x1) := fun _ _ => four rfl rfl (by unfold encode; repeat (first | rfl | refine step ?_ rfl))
theorem mode : ∀ x0 x1, Statement (.mode x0 x1) := fun _ _ => four rfl rfl (by unfold encode; repeat (first | rfl | refine step ?_ rfl))
theorem width : ∀ x0 x1, Statement (.width x0 x1) := fun _ _ => four rfl rfl (by unfold encode; repeat (first | rfl | refine step ?_ rfl))
theorem mff : ∀ x0, Statement (.mff x0) := fun _ => four rfl rfl (by unfold encode; repeat (first | rfl | refine step ?_ rfl))
theorem mtf : ∀ x0, Statement (.mtf x0) := fun _ => four rfl rfl (by unfold encode; repeat (first | rfl | refine step ?_ rfl))
theorem sfclr : Statement .sfclr := four rfl rfl (by rfl)
theorem beq : ∀ x0 x1 x2, Statement (.beq x0 x1 x2) := fun _ _ _ => four rfl rfl (by unfold encode; repeat (first | rfl | refine step ?_ rfl))
theorem bne : ∀ x0 x1 x2, Statement (.bne x0 x1 x2) := fun _ _ _ => four rfl rfl (by unfold encode; repeat (first | rfl | refine step ?_ rfl))
theorem blt : ∀ x0 x1 x2, Statement (.blt x0 x1 x2) := fun _ _ _ => four rfl rfl (by unfold encode; repeat (first | rfl | refine step ?_ rfl))
theorem bge : ∀ x0 x1 x2, Statement (.bge x0 x1 x2) := fun _ _ _ => four rfl rfl (by unfold encode; repeat (first | rfl | refine step ?_ rfl))
theorem bltu : ∀ x0 x1 x2, Statement (.bltu x0 x1 x2) := fun _ _ _ => four rfl rfl (by unfold encode; repeat (first | rfl | refine step ?_ rfl))
theorem bgeu : ∀ x0 x1 x2, Statement (.bgeu x0 x1 x2) := fun _ _ _ => four rfl rfl (by unfold encode; repeat (first | rfl | refine step ?_ rfl))
theorem bsf : ∀ x0, Statement (.bsf x0) := fun _ => four rfl rfl (by unfold encode; repeat (first | rfl | refine step ?_ rfl))
theorem jmp : ∀ x0, Statement (.jmp x0) := fun _ => four rfl rfl (by unfold encode; repeat (first | rfl | refine step ?_ rfl))
theorem call : ∀ x0, Statement (.call x0) := fun _ => four rfl rfl (by unfold encode; repeat (first | rfl | refine step ?_ rfl))
theorem jmpr : ∀ x0 x1, Statement (.jmpr x0 x1) := fun _ _ => four rfl rfl (by unfold encode; repeat (first | rfl | refine step ?_ rfl))
theorem callr : ∀ x0 x1, Statement (.callr x0 x1) := fun _ _ => four rfl rfl (by unfold encode; repeat (first | rfl | refine step ?_ rfl))
theorem fadd : ∀ x0 x1 x2, Statement (.fadd x0 x1 x2) := fun _ _ _ => four rfl rfl (by unfold encode; repeat (first | rfl | refine step ?_ rfl))
theorem fsub : ∀ x0 x1 x2, Statement (.fsub x0 x1 x2) := fun _ _ _ => four rfl rfl (by unfold encode; repeat (first | rfl | refine step ?_ rfl))
theorem fmul : ∀ x0 x1 x2, Statement (.fmul x0 x1 x2) := fun _ _ _ => four rfl rfl (by unfold encode; repeat (first | rfl | refine step ?_ rfl))
theorem fdiv : ∀ x0 x1 x2, Statement (.fdiv x0 x1 x2) := fun _ _ _ => four rfl rfl (by unfold encode; repeat (first | rfl | refine step ?_ rfl))
theorem fsqrt : ∀ x0 x1, Statement (.fsqrt x0 x1) := fun _ _ => four rfl rfl (by unfold encode; repeat (first | rfl | refine step ?_ rfl))
theorem fmin : ∀ x0 x1 x2, Statement (.fmin x0 x1 x2) := fun _ _ _ => four rfl rfl (by unfold encode; repeat (first | rfl | refine step ?_ rfl))
theorem fmax : ∀ x0 x1 x2, Statement (.fmax x0 x1 x2) := fun _ _ _ => four rfl rfl (by unfold encode; repeat (first | rfl | refine step ?_ rfl))
theorem fceq : ∀ x0 x1 x2, Statement (.fceq x0 x1 x2) := fun _ _ _ => four rfl rfl (by unfold encode; repeat (first | rfl | refine step ?_ rfl))
theorem fclt : ∀ x0 x1 x2, Statement (.fclt x0 x1 x2) := fun _ _ _ => four rfl rfl (by unfold encode; repeat (first | rfl | refine step ?_ rfl))
theorem fcle : ∀ x0 x1 x2, Statement (.fcle x0 x1 x2) := fun _ _ _ => four rfl rfl (by unfold encode; repeat (first | rfl | refine step ?_ rfl))
theorem fclass : ∀ x0 x1, Statement (.fclass x0 x1) := fun _ _ => four rfl rfl (by unfold encode; repeat (first | rfl | refine step ?_ rfl))
theorem fneg : ∀ x0 x1, Statement (.fneg x0 x1) := fun _ _ => four rfl rfl (by unfold encode; repeat (first | rfl | refine step ?_ rfl))
theorem fabs : ∀ x0 x1, Statement (.fabs x0 x1) := fun _ _ => four rfl rfl (by unfold encode; repeat (first | rfl | refine step ?_ rfl))
theorem fcvt : ∀ x0 x1 x2, Statement (.fcvt x0 x1 x2) := fun _ _ _ => four rfl rfl (by unfold encode; repeat (first | rfl | refine step ?_ rfl))
theorem fcvti : ∀ x0 x1 x2, Statement (.fcvti x0 x1 x2) := fun _ _ _ => four rfl rfl (by unfold encode; repeat (first | rfl | refine step ?_ rfl))
theorem fcvtf : ∀ x0 x1 x2, Statement (.fcvtf x0 x1 x2) := fun _ _ _ => four rfl rfl (by unfold encode; repeat (first | rfl | refine step ?_ rfl))
theorem fma : ∀ x0 x1 x2 x3, Statement (.fma x0 x1 x2 x3) := fun _ _ _ _ => four rfl rfl (by unfold encode; repeat (first | rfl | refine step ?_ rfl))
theorem fms : ∀ x0 x1 x2 x3, Statement (.fms x0 x1 x2 x3) := fun _ _ _ _ => four rfl rfl (by unfold encode; repeat (first | rfl | refine step ?_ rfl))
theorem fnma : ∀ x0 x1 x2 x3, Statement (.fnma x0 x1 x2 x3) := fun _ _ _ _ => four rfl rfl (by unfold encode; repeat (first | rfl | refine step ?_ rfl))
theorem bmov : ∀ x0 x1 x2, Statement (.bmov x0 x1 x2) := fun _ _ _ => four rfl rfl (by unfold encode; repeat (first | rfl | refine step ?_ rfl))
theorem bset : ∀ x0 x1 x2, Statement (.bset x0 x1 x2) := fun _ _ _ => four rfl rfl (by unfold encode; repeat (first | rfl | refine step ?_ rfl))
theorem trap : ∀ x0, Statement (.trap x0) := fun _ => four rfl rfl (by unfold encode; repeat (first | rfl | refine step ?_ rfl))
theorem eret : Statement .eret := four rfl rfl (by rfl)
theorem csrr : ∀ x0 x1, Statement (.csrr x0 x1) := fun _ _ => four rfl rfl (by unfold encode; repeat (first | rfl | refine step ?_ rfl))
theorem csrw : ∀ x0 x1, Statement (.csrw x0 x1) := fun _ _ => four rfl rfl (by unfold encode; repeat (first | rfl | refine step ?_ rfl))
theorem brk : Statement .brk := four rfl rfl (by rfl)
theorem fencei : Statement .fencei := four rfl rfl (by rfl)
theorem ldb : ∀ x0 x1 x2 x3, Statement (.ldb x0 x1 x2 x3) := fun _ _ _ _ => four rfl rfl (by unfold encode; repeat (first | rfl | refine step ?_ rfl))
theorem ldh : ∀ x0 x1 x2 x3, Statement (.ldh x0 x1 x2 x3) := fun _ _ _ _ => four rfl rfl (by unfold encode; repeat (first | rfl | refine step ?_ rfl))
theorem ldw : ∀ x0 x1 x2 x3, Statement (.ldw x0 x1 x2 x3) := fun _ _ _ _ => four rfl rfl (by unfold encode; repeat (first | rfl | refine step ?_ rfl))
theorem ldd : ∀ x0 x1 x2 x3, Statement (.ldd x0 x1 x2 x3) := fun _ _ _ _ => four rfl rfl (by unfold encode; repeat (first | rfl | refine step ?_ rfl))
theorem ldbu : ∀ x0 x1 x2 x3, Statement (.ldbu x0 x1 x2 x3) := fun _ _ _ _ => four rfl rfl (by unfold encode; repeat (first | rfl | refine step ?_ rfl))
theorem ldhu : ∀ x0 x1 x2 x3, Statement (.ldhu x0 x1 x2 x3) := fun _ _ _ _ => four rfl rfl (by unfold encode; repeat (first | rfl | refine step ?_ rfl))
theorem ldwu : ∀ x0 x1 x2 x3, Statement (.ldwu x0 x1 x2 x3) := fun _ _ _ _ => four rfl rfl (by unfold encode; repeat (first | rfl | refine step ?_ rfl))
theorem ldff : ∀ x0 x1 x2, Statement (.ldff x0 x1 x2) := fun _ _ _ => four rfl rfl (by unfold encode; repeat (first | rfl | refine step ?_ rfl))
theorem stb : ∀ x0 x1 x2 x3, Statement (.stb x0 x1 x2 x3) := fun _ _ _ _ => four rfl rfl (by unfold encode; repeat (first | rfl | refine step ?_ rfl))
theorem sth : ∀ x0 x1 x2 x3, Statement (.sth x0 x1 x2 x3) := fun _ _ _ _ => four rfl rfl (by unfold encode; repeat (first | rfl | refine step ?_ rfl))
theorem stw : ∀ x0 x1 x2 x3, Statement (.stw x0 x1 x2 x3) := fun _ _ _ _ => four rfl rfl (by unfold encode; repeat (first | rfl | refine step ?_ rfl))
theorem std : ∀ x0 x1 x2 x3, Statement (.std x0 x1 x2 x3) := fun _ _ _ _ => four rfl rfl (by unfold encode; repeat (first | rfl | refine step ?_ rfl))
theorem vld : ∀ x0 x1 x2 x3, Statement (.vld x0 x1 x2 x3) := fun _ _ _ _ => four rfl rfl (by unfold encode; repeat (first | rfl | refine step ?_ rfl))
theorem vst : ∀ x0 x1 x2 x3, Statement (.vst x0 x1 x2 x3) := fun _ _ _ _ => four rfl rfl (by unfold encode; repeat (first | rfl | refine step ?_ rfl))
theorem vldx : ∀ x0 x1 x2 x3, Statement (.vldx x0 x1 x2 x3) := fun _ _ _ _ => four rfl rfl (by unfold encode; repeat (first | rfl | refine step ?_ rfl))
theorem vstx : ∀ x0 x1 x2 x3, Statement (.vstx x0 x1 x2 x3) := fun _ _ _ _ => four rfl rfl (by unfold encode; repeat (first | rfl | refine step ?_ rfl))
theorem vldb : ∀ x0 x1 x2 x3, Statement (.vldb x0 x1 x2 x3) := fun _ _ _ _ => four rfl rfl (by unfold encode; repeat (first | rfl | refine step ?_ rfl))
theorem vgath : ∀ x0 x1 x2 x3, Statement (.vgath x0 x1 x2 x3) := fun _ _ _ _ => four rfl rfl (by unfold encode; repeat (first | rfl | refine step ?_ rfl))
theorem vscat : ∀ x0 x1 x2 x3, Statement (.vscat x0 x1 x2 x3) := fun _ _ _ _ => four rfl rfl (by unfold encode; repeat (first | rfl | refine step ?_ rfl))
theorem lde : ∀ x0 x1 x2, Statement (.lde x0 x1 x2) := fun _ _ _ => four rfl rfl (by unfold encode; repeat (first | rfl | refine step ?_ rfl))
theorem stf : ∀ x0 x1 x2, Statement (.stf x0 x1 x2) := fun _ _ _ => four rfl rfl (by unfold encode; repeat (first | rfl | refine step ?_ rfl))
theorem stff : ∀ x0 x1 x2 x3, Statement (.stff x0 x1 x2 x3) := fun _ _ _ _ => four rfl rfl (by unfold encode; repeat (first | rfl | refine step ?_ rfl))
theorem feq : ∀ x0 x1 x2 x3, Statement (.feq x0 x1 x2 x3) := fun _ _ _ _ => four rfl rfl (by unfold encode; repeat (first | rfl | refine step ?_ rfl))
theorem fempty : ∀ x0 x1 x2, Statement (.fempty x0 x1 x2) := fun _ _ _ => four rfl rfl (by unfold encode; repeat (first | rfl | refine step ?_ rfl))
theorem fefill : ∀ x0 x1 x2, Statement (.fefill x0 x1 x2) := fun _ _ _ => four rfl rfl (by unfold encode; repeat (first | rfl | refine step ?_ rfl))
theorem aadd : ∀ x0 x1 x2 x3, Statement (.aadd x0 x1 x2 x3) := fun _ _ _ _ => four rfl rfl (by unfold encode; repeat (first | rfl | refine step ?_ rfl))
theorem amin : ∀ x0 x1 x2 x3, Statement (.amin x0 x1 x2 x3) := fun _ _ _ _ => four rfl rfl (by unfold encode; repeat (first | rfl | refine step ?_ rfl))
theorem aminu : ∀ x0 x1 x2 x3, Statement (.aminu x0 x1 x2 x3) := fun _ _ _ _ => four rfl rfl (by unfold encode; repeat (first | rfl | refine step ?_ rfl))
theorem amax : ∀ x0 x1 x2 x3, Statement (.amax x0 x1 x2 x3) := fun _ _ _ _ => four rfl rfl (by unfold encode; repeat (first | rfl | refine step ?_ rfl))
theorem amaxu : ∀ x0 x1 x2 x3, Statement (.amaxu x0 x1 x2 x3) := fun _ _ _ _ => four rfl rfl (by unfold encode; repeat (first | rfl | refine step ?_ rfl))
theorem aand : ∀ x0 x1 x2 x3, Statement (.aand x0 x1 x2 x3) := fun _ _ _ _ => four rfl rfl (by unfold encode; repeat (first | rfl | refine step ?_ rfl))
theorem aor : ∀ x0 x1 x2 x3, Statement (.aor x0 x1 x2 x3) := fun _ _ _ _ => four rfl rfl (by unfold encode; repeat (first | rfl | refine step ?_ rfl))
theorem axor : ∀ x0 x1 x2 x3, Statement (.axor x0 x1 x2 x3) := fun _ _ _ _ => four rfl rfl (by unfold encode; repeat (first | rfl | refine step ?_ rfl))
theorem aswp : ∀ x0 x1 x2 x3, Statement (.aswp x0 x1 x2 x3) := fun _ _ _ _ => four rfl rfl (by unfold encode; repeat (first | rfl | refine step ?_ rfl))
theorem acas : ∀ x0 x1 x2 x3, Statement (.acas x0 x1 x2 x3) := fun _ _ _ _ => four rfl rfl (by unfold encode; repeat (first | rfl | refine step ?_ rfl))
theorem radd : ∀ x0 x1 x2, Statement (.radd x0 x1 x2) := fun _ _ _ => four rfl rfl (by unfold encode; repeat (first | rfl | refine step ?_ rfl))
theorem rmin : ∀ x0 x1 x2, Statement (.rmin x0 x1 x2) := fun _ _ _ => four rfl rfl (by unfold encode; repeat (first | rfl | refine step ?_ rfl))
theorem rmax : ∀ x0 x1 x2, Statement (.rmax x0 x1 x2) := fun _ _ _ => four rfl rfl (by unfold encode; repeat (first | rfl | refine step ?_ rfl))
theorem ror : ∀ x0 x1 x2, Statement (.ror x0 x1 x2) := fun _ _ _ => four rfl rfl (by unfold encode; repeat (first | rfl | refine step ?_ rfl))
theorem rfadd : ∀ x0 x1 x2, Statement (.rfadd x0 x1 x2) := fun _ _ _ => four rfl rfl (by unfold encode; repeat (first | rfl | refine step ?_ rfl))
theorem lrw : ∀ x0 x1 x2, Statement (.lrw x0 x1 x2) := fun _ _ _ => four rfl rfl (by unfold encode; repeat (first | rfl | refine step ?_ rfl))
theorem sch : ∀ x0 x1 x2, Statement (.sch x0 x1 x2) := fun _ _ _ => four rfl rfl (by unfold encode; repeat (first | rfl | refine step ?_ rfl))
theorem lrx : ∀ x0 x1, Statement (.lrx x0 x1) := fun _ _ => four rfl rfl (by unfold encode; repeat (first | rfl | refine step ?_ rfl))
theorem phaseRel : ∀ x0, Statement (.phaseRel x0) := fun _ => four rfl rfl (by unfold encode; repeat (first | rfl | refine step ?_ rfl))
theorem phaseAcq : ∀ x0, Statement (.phaseAcq x0) := fun _ => four rfl rfl (by unfold encode; repeat (first | rfl | refine step ?_ rfl))
theorem phaseAr : ∀ x0, Statement (.phaseAr x0) := fun _ => four rfl rfl (by unfold encode; repeat (first | rfl | refine step ?_ rfl))
theorem enq : ∀ x0 x1, Statement (.enq x0 x1) := fun _ _ => four rfl rfl (by unfold encode; repeat (first | rfl | refine step ?_ rfl))
theorem deq : ∀ x0 x1, Statement (.deq x0 x1) := fun _ _ => four rfl rfl (by unfold encode; repeat (first | rfl | refine step ?_ rfl))
theorem enqn : ∀ x0 x1 x2 x3, Statement (.enqn x0 x1 x2 x3) := fun _ _ _ _ => four rfl rfl (by unfold encode; repeat (first | rfl | refine step ?_ rfl))
theorem deqn : ∀ x0 x1 x2, Statement (.deqn x0 x1 x2) := fun _ _ _ => four rfl rfl (by unfold encode; repeat (first | rfl | refine step ?_ rfl))
theorem enqw : ∀ x0 x1 x2, Statement (.enqw x0 x1 x2) := fun _ _ _ => four rfl rfl (by unfold encode; repeat (first | rfl | refine step ?_ rfl))
theorem deqw : ∀ x0 x1 x2, Statement (.deqw x0 x1 x2) := fun _ _ _ => four rfl rfl (by unfold encode; repeat (first | rfl | refine step ?_ rfl))
theorem qstat : ∀ x0 x1 x2 x3, Statement (.qstat x0 x1 x2 x3) := fun _ _ _ _ => four rfl rfl (by unfold encode; repeat (first | rfl | refine step ?_ rfl))
theorem qbind : ∀ x0 x1, Statement (.qbind x0 x1) := fun _ _ => four rfl rfl (by unfold encode; repeat (first | rfl | refine step ?_ rfl))
theorem sptest : ∀ x0 x1, Statement (.sptest x0 x1) := fun _ _ => four rfl rfl (by unfold encode; repeat (first | rfl | refine step ?_ rfl))
theorem spcast : ∀ x0 x1, Statement (.spcast x0 x1) := fun _ _ => four rfl rfl (by unfold encode; repeat (first | rfl | refine step ?_ rfl))
theorem spmake : ∀ x0 x1, Statement (.spmake x0 x1) := fun _ _ => four rfl rfl (by unfold encode; repeat (first | rfl | refine step ?_ rfl))
theorem spcore : ∀ x0 x1, Statement (.spcore x0 x1) := fun _ _ => four rfl rfl (by unfold encode; repeat (first | rfl | refine step ?_ rfl))
theorem split : ∀ x0, Statement (.split x0) := fun _ => four rfl rfl (by unfold encode; repeat (first | rfl | refine step ?_ rfl))
theorem spawn : ∀ x0 x1 x2, Statement (.spawn x0 x1 x2) := fun _ _ _ => four rfl rfl (by unfold encode; repeat (first | rfl | refine step ?_ rfl))
theorem quit : Statement .quit := four rfl rfl (by rfl)
theorem yield : Statement .yield := four rfl rfl (by rfl)
theorem tid : ∀ x0 x1, Statement (.tid x0 x1) := fun _ _ => four rfl rfl (by unfold encode; repeat (first | rfl | refine step ?_ rfl))
theorem join : ∀ x0 x1 x2, Statement (.join x0 x1 x2) := fun _ _ _ => four rfl rfl (by unfold encode; repeat (first | rfl | refine step ?_ rfl))
theorem leave : ∀ x0, Statement (.leave x0) := fun _ => four rfl rfl (by unfold encode; repeat (first | rfl | refine step ?_ rfl))
theorem gbar : ∀ x0, Statement (.gbar x0) := fun _ => four rfl rfl (by unfold encode; repeat (first | rfl | refine step ?_ rfl))
theorem gcnt : ∀ x0 x1 x2, Statement (.gcnt x0 x1 x2) := fun _ _ _ => four rfl rfl (by unfold encode; repeat (first | rfl | refine step ?_ rfl))
theorem rotr : ∀ x0, Statement (.rotr x0) := fun _ => four rfl rfl (by unfold encode; repeat (first | rfl | refine step ?_ rfl))
theorem rotw : ∀ x0, Statement (.rotw x0) := fun _ => four rfl rfl (by unfold encode; repeat (first | rfl | refine step ?_ rfl))
theorem link : ∀ x0 x1, Statement (.link x0 x1) := fun _ _ => four rfl rfl (by unfold encode; repeat (first | rfl | refine step ?_ rfl))
theorem unlink : ∀ x0, Statement (.unlink x0) := fun _ => four rfl rfl (by unfold encode; repeat (first | rfl | refine step ?_ rfl))
theorem ldir : ∀ x0, Statement (.ldir x0) := fun _ => four rfl rfl (by unfold encode; repeat (first | rfl | refine step ?_ rfl))
theorem ldirr : ∀ x0, Statement (.ldirr x0) := fun _ => four rfl rfl (by unfold encode; repeat (first | rfl | refine step ?_ rfl))
theorem vadd : ∀ x0 x1 x2, Statement (.vadd x0 x1 x2) := fun _ _ _ => four rfl rfl (by unfold encode; repeat (first | rfl | refine step ?_ rfl))
theorem vsub : ∀ x0 x1 x2, Statement (.vsub x0 x1 x2) := fun _ _ _ => four rfl rfl (by unfold encode; repeat (first | rfl | refine step ?_ rfl))
theorem vmul : ∀ x0 x1 x2, Statement (.vmul x0 x1 x2) := fun _ _ _ => four rfl rfl (by unfold encode; repeat (first | rfl | refine step ?_ rfl))
theorem vmin : ∀ x0 x1 x2, Statement (.vmin x0 x1 x2) := fun _ _ _ => four rfl rfl (by unfold encode; repeat (first | rfl | refine step ?_ rfl))
theorem vmax : ∀ x0 x1 x2, Statement (.vmax x0 x1 x2) := fun _ _ _ => four rfl rfl (by unfold encode; repeat (first | rfl | refine step ?_ rfl))
theorem vminu : ∀ x0 x1 x2, Statement (.vminu x0 x1 x2) := fun _ _ _ => four rfl rfl (by unfold encode; repeat (first | rfl | refine step ?_ rfl))
theorem vmaxu : ∀ x0 x1 x2, Statement (.vmaxu x0 x1 x2) := fun _ _ _ => four rfl rfl (by unfold encode; repeat (first | rfl | refine step ?_ rfl))
theorem vand : ∀ x0 x1 x2, Statement (.vand x0 x1 x2) := fun _ _ _ => four rfl rfl (by unfold encode; repeat (first | rfl | refine step ?_ rfl))
theorem vor : ∀ x0 x1 x2, Statement (.vor x0 x1 x2) := fun _ _ _ => four rfl rfl (by unfold encode; repeat (first | rfl | refine step ?_ rfl))
theorem vxor : ∀ x0 x1 x2, Statement (.vxor x0 x1 x2) := fun _ _ _ => four rfl rfl (by unfold encode; repeat (first | rfl | refine step ?_ rfl))
theorem vshl : ∀ x0 x1 x2, Statement (.vshl x0 x1 x2) := fun _ _ _ => four rfl rfl (by unfold encode; repeat (first | rfl | refine step ?_ rfl))
theorem vshr : ∀ x0 x1 x2, Statement (.vshr x0 x1 x2) := fun _ _ _ => four rfl rfl (by unfold encode; repeat (first | rfl | refine step ?_ rfl))
theorem vsra : ∀ x0 x1 x2, Statement (.vsra x0 x1 x2) := fun _ _ _ => four rfl rfl (by unfold encode; repeat (first | rfl | refine step ?_ rfl))
theorem vabs : ∀ x0 x1, Statement (.vabs x0 x1) := fun _ _ => four rfl rfl (by unfold encode; repeat (first | rfl | refine step ?_ rfl))
theorem vneg : ∀ x0 x1, Statement (.vneg x0 x1) := fun _ _ => four rfl rfl (by unfold encode; repeat (first | rfl | refine step ?_ rfl))
theorem vceq : ∀ x0 x1 x2, Statement (.vceq x0 x1 x2) := fun _ _ _ => four rfl rfl (by unfold encode; repeat (first | rfl | refine step ?_ rfl))
theorem vclt : ∀ x0 x1 x2, Statement (.vclt x0 x1 x2) := fun _ _ _ => four rfl rfl (by unfold encode; repeat (first | rfl | refine step ?_ rfl))
theorem vcle : ∀ x0 x1 x2, Statement (.vcle x0 x1 x2) := fun _ _ _ => four rfl rfl (by unfold encode; repeat (first | rfl | refine step ?_ rfl))
theorem vsel : ∀ x0 x1 x2, Statement (.vsel x0 x1 x2) := fun _ _ _ => four rfl rfl (by unfold encode; repeat (first | rfl | refine step ?_ rfl))
theorem vmov : ∀ x0 x1, Statement (.vmov x0 x1) := fun _ _ => four rfl rfl (by unfold encode; repeat (first | rfl | refine step ?_ rfl))
theorem vbcast : ∀ x0 x1 x2, Statement (.vbcast x0 x1 x2) := fun _ _ _ => four rfl rfl (by unfold encode; repeat (first | rfl | refine step ?_ rfl))
theorem vext : ∀ x0 x1 x2, Statement (.vext x0 x1 x2) := fun _ _ _ => four rfl rfl (by unfold encode; repeat (first | rfl | refine step ?_ rfl))
theorem vins : ∀ x0 x1 x2, Statement (.vins x0 x1 x2) := fun _ _ _ => four rfl rfl (by unfold encode; repeat (first | rfl | refine step ?_ rfl))
theorem vperm : ∀ x0 x1 x2, Statement (.vperm x0 x1 x2) := fun _ _ _ => four rfl rfl (by unfold encode; repeat (first | rfl | refine step ?_ rfl))
theorem vradd : ∀ x0 x1, Statement (.vradd x0 x1) := fun _ _ => four rfl rfl (by unfold encode; repeat (first | rfl | refine step ?_ rfl))
theorem vrmax : ∀ x0 x1, Statement (.vrmax x0 x1) := fun _ _ => four rfl rfl (by unfold encode; repeat (first | rfl | refine step ?_ rfl))
theorem vrmin : ∀ x0 x1, Statement (.vrmin x0 x1) := fun _ _ => four rfl rfl (by unfold encode; repeat (first | rfl | refine step ?_ rfl))
theorem vfma : ∀ x0 x1 x2 x3, Statement (.vfma x0 x1 x2 x3) := fun _ _ _ _ => four rfl rfl (by unfold encode; repeat (first | rfl | refine step ?_ rfl))
theorem vfms : ∀ x0 x1 x2 x3, Statement (.vfms x0 x1 x2 x3) := fun _ _ _ _ => four rfl rfl (by unfold encode; repeat (first | rfl | refine step ?_ rfl))
theorem vdiv : ∀ x0 x1 x2 x3, Statement (.vdiv x0 x1 x2 x3) := fun _ _ _ _ => four rfl rfl (by unfold encode; repeat (first | rfl | refine step ?_ rfl))
theorem vsqrt : ∀ x0 x1 x2, Statement (.vsqrt x0 x1 x2) := fun _ _ _ => four rfl rfl (by unfold encode; repeat (first | rfl | refine step ?_ rfl))
theorem vcvt : ∀ x0 x1 x2 x3, Statement (.vcvt x0 x1 x2 x3) := fun _ _ _ _ => four rfl rfl (by unfold encode; repeat (first | rfl | refine step ?_ rfl))
theorem vdxq : ∀ x0 x1 x2 x3, Statement (.vdxq x0 x1 x2 x3) := fun _ _ _ _ => four rfl rfl (by unfold encode; repeat (first | rfl | refine step ?_ rfl))
theorem vtag : ∀ x0 x1, Statement (.vtag x0 x1) := fun _ _ => four rfl rfl (by unfold encode; repeat (first | rfl | refine step ?_ rfl))
theorem vretag : ∀ x0 x1 x2, Statement (.vretag x0 x1 x2) := fun _ _ _ => four rfl rfl (by unfold encode; repeat (first | rfl | refine step ?_ rfl))
theorem vsexr : ∀ x0 x1 x2, Statement (.vsexr x0 x1 x2) := fun _ _ _ => four rfl rfl (by unfold encode; repeat (first | rfl | refine step ?_ rfl))
theorem vsexw : ∀ x0 x1 x2, Statement (.vsexw x0 x1 x2) := fun _ _ _ => four rfl rfl (by unfold encode; repeat (first | rfl | refine step ?_ rfl))
theorem cpy : ∀ x0 x1 x2, Statement (.cpy x0 x1 x2) := fun _ _ _ => four rfl rfl (by unfold encode; repeat (first | rfl | refine step ?_ rfl))
theorem toks : ∀ x0 x1, Statement (.toks x0 x1) := fun _ _ => four rfl rfl (by unfold encode; repeat (first | rfl | refine step ?_ rfl))
theorem barm : ∀ x0 x1 x2 x3, Statement (.barm x0 x1 x2 x3) := fun _ _ _ _ => four rfl rfl (by unfold encode; repeat (first | rfl | refine step ?_ rfl))
theorem bwait : ∀ x0 x1 x2, Statement (.bwait x0 x1 x2) := fun _ _ _ => four rfl rfl (by unfold encode; repeat (first | rfl | refine step ?_ rfl))
theorem bpoll : ∀ x0 x1 x2 x3, Statement (.bpoll x0 x1 x2 x3) := fun _ _ _ _ => four rfl rfl (by unfold encode; repeat (first | rfl | refine step ?_ rfl))
theorem berr : ∀ x0 x1 x2, Statement (.berr x0 x1 x2) := fun _ _ _ => four rfl rfl (by unfold encode; repeat (first | rfl | refine step ?_ rfl))
theorem bclr : ∀ x0 x1 x2, Statement (.bclr x0 x1 x2) := fun _ _ _ => four rfl rfl (by unfold encode; repeat (first | rfl | refine step ?_ rfl))
theorem lpatch : ∀ x0 x1 x2 x3, Statement (.lpatch x0 x1 x2 x3) := fun _ _ _ _ => four rfl rfl (by unfold encode; repeat (first | rfl | refine step ?_ rfl))
theorem larm : ∀ x0 x1, Statement (.larm x0 x1) := fun _ _ => four rfl rfl (by unfold encode; repeat (first | rfl | refine step ?_ rfl))
theorem lfire : ∀ x0 x1, Statement (.lfire x0 x1) := fun _ _ => four rfl rfl (by unfold encode; repeat (first | rfl | refine step ?_ rfl))
theorem lstat : ∀ x0 x1 x2, Statement (.lstat x0 x1 x2) := fun _ _ _ => four rfl rfl (by unfold encode; repeat (first | rfl | refine step ?_ rfl))
theorem mldb : ∀ x0 x1, Statement (.mldb x0 x1) := fun _ _ => four rfl rfl (by unfold encode; repeat (first | rfl | refine step ?_ rfl))
theorem mmac : ∀ x0 x1 x2 x3, Statement (.mmac x0 x1 x2 x3) := fun _ _ _ _ => four rfl rfl (by unfold encode; repeat (first | rfl | refine step ?_ rfl))
theorem mrun : ∀ x0 x1 x2, Statement (.mrun x0 x1 x2) := fun _ _ _ => four rfl rfl (by unfold encode; repeat (first | rfl | refine step ?_ rfl))
theorem mdrn : ∀ x0 x1 x2, Statement (.mdrn x0 x1 x2) := fun _ _ _ => four rfl rfl (by unfold encode; repeat (first | rfl | refine step ?_ rfl))
theorem mhnd : ∀ x0 x1, Statement (.mhnd x0 x1) := fun _ _ => four rfl rfl (by unfold encode; repeat (first | rfl | refine step ?_ rfl))
theorem mchk : ∀ x0 x1 x2, Statement (.mchk x0 x1 x2) := fun _ _ _ => four rfl rfl (by unfold encode; repeat (first | rfl | refine step ?_ rfl))
theorem macq : ∀ x0, Statement (.macq x0) := fun _ => four rfl rfl (by unfold encode; repeat (first | rfl | refine step ?_ rfl))
theorem mrel : ∀ x0, Statement (.mrel x0) := fun _ => four rfl rfl (by unfold encode; repeat (first | rfl | refine step ?_ rfl))
theorem srng : ∀ x0 x1 x2, Statement (.srng x0 x1 x2) := fun _ _ _ => four rfl rfl (by unfold encode; repeat (first | rfl | refine step ?_ rfl))
theorem commit : Statement .commit := four rfl rfl (by rfl)
theorem ctxsv : ∀ x0 x1, Statement (.ctxsv x0 x1) := fun _ _ => four rfl rfl (by unfold encode; repeat (first | rfl | refine step ?_ rfl))
theorem ctxld : ∀ x0 x1, Statement (.ctxld x0 x1) := fun _ _ => four rfl rfl (by unfold encode; repeat (first | rfl | refine step ?_ rfl))
theorem preempt : ∀ x0 x1 x2, Statement (.preempt x0 x1 x2) := fun _ _ _ => four rfl rfl (by unfold encode; repeat (first | rfl | refine step ?_ rfl))
theorem unfreeze : ∀ x0 x1 x2, Statement (.unfreeze x0 x1 x2) := fun _ _ _ => four rfl rfl (by unfold encode; repeat (first | rfl | refine step ?_ rfl))
theorem errpop : ∀ x0 x1, Statement (.errpop x0 x1) := fun _ _ => four rfl rfl (by unfold encode; repeat (first | rfl | refine step ?_ rfl))
theorem dtset : ∀ x0 x1 x2, Statement (.dtset x0 x1 x2) := fun _ _ _ => four rfl rfl (by unfold encode; repeat (first | rfl | refine step ?_ rfl))
theorem dtget : ∀ x0 x1, Statement (.dtget x0 x1) := fun _ _ => four rfl rfl (by unfold encode; repeat (first | rfl | refine step ?_ rfl))
theorem spill : ∀ x0 x1, Statement (.spill x0 x1) := fun _ _ => four rfl rfl (by unfold encode; repeat (first | rfl | refine step ?_ rfl))
theorem rinv : ∀ x0 x1 x2 x3, Statement (.rinv x0 x1 x2 x3) := fun _ _ _ _ => four rfl rfl (by unfold encode; repeat (first | rfl | refine step ?_ rfl))
theorem rinvw : ∀ x0 x1 x2, Statement (.rinvw x0 x1 x2) := fun _ _ _ => four rfl rfl (by unfold encode; repeat (first | rfl | refine step ?_ rfl))
theorem rstat : ∀ x0 x1 x2 x3, Statement (.rstat x0 x1 x2 x3) := fun _ _ _ _ => four rfl rfl (by unfold encode; repeat (first | rfl | refine step ?_ rfl))
theorem tbr : ∀ x0 x1, Statement (.tbr x0 x1) := fun _ _ => four rfl rfl (by unfold encode; repeat (first | rfl | refine step ?_ rfl))
theorem waitt : ∀ x0 x1, Statement (.waitt x0 x1) := fun _ _ => four rfl rfl (by unfold encode; repeat (first | rfl | refine step ?_ rfl))
theorem coll : ∀ x0 x1 x2, Statement (.coll x0 x1 x2) := fun _ _ _ => four rfl rfl (by unfold encode; repeat (first | rfl | refine step ?_ rfl))
theorem add16 : ∀ x0 x1, Statement (.add16 x0 x1) := fun _ _ => two rfl rfl (by unfold encode; repeat (first | rfl | refine step ?_ rfl))
theorem sub16 : ∀ x0 x1, Statement (.sub16 x0 x1) := fun _ _ => two rfl rfl (by unfold encode; repeat (first | rfl | refine step ?_ rfl))
theorem mul16 : ∀ x0 x1, Statement (.mul16 x0 x1) := fun _ _ => two rfl rfl (by unfold encode; repeat (first | rfl | refine step ?_ rfl))
theorem and16 : ∀ x0 x1, Statement (.and16 x0 x1) := fun _ _ => two rfl rfl (by unfold encode; repeat (first | rfl | refine step ?_ rfl))
theorem or16 : ∀ x0 x1, Statement (.or16 x0 x1) := fun _ _ => two rfl rfl (by unfold encode; repeat (first | rfl | refine step ?_ rfl))
theorem xor16 : ∀ x0 x1, Statement (.xor16 x0 x1) := fun _ _ => two rfl rfl (by unfold encode; repeat (first | rfl | refine step ?_ rfl))
theorem shl16 : ∀ x0 x1, Statement (.shl16 x0 x1) := fun _ _ => two rfl rfl (by unfold encode; repeat (first | rfl | refine step ?_ rfl))
theorem shr16 : ∀ x0 x1, Statement (.shr16 x0 x1) := fun _ _ => two rfl rfl (by unfold encode; repeat (first | rfl | refine step ?_ rfl))
theorem sra16 : ∀ x0 x1, Statement (.sra16 x0 x1) := fun _ _ => two rfl rfl (by unfold encode; repeat (first | rfl | refine step ?_ rfl))
theorem min16 : ∀ x0 x1, Statement (.min16 x0 x1) := fun _ _ => two rfl rfl (by unfold encode; repeat (first | rfl | refine step ?_ rfl))
theorem max16 : ∀ x0 x1, Statement (.max16 x0 x1) := fun _ _ => two rfl rfl (by unfold encode; repeat (first | rfl | refine step ?_ rfl))
theorem mov16 : ∀ x0 x1, Statement (.mov16 x0 x1) := fun _ _ => two rfl rfl (by unfold encode; repeat (first | rfl | refine step ?_ rfl))
theorem neg16 : ∀ x0 x1, Statement (.neg16 x0 x1) := fun _ _ => two rfl rfl (by unfold encode; repeat (first | rfl | refine step ?_ rfl))
theorem not16 : ∀ x0 x1, Statement (.not16 x0 x1) := fun _ _ => two rfl rfl (by unfold encode; repeat (first | rfl | refine step ?_ rfl))
theorem abs16 : ∀ x0 x1, Statement (.abs16 x0 x1) := fun _ _ => two rfl rfl (by unfold encode; repeat (first | rfl | refine step ?_ rfl))
theorem clt16 : ∀ x0 x1, Statement (.clt16 x0 x1) := fun _ _ => two rfl rfl (by unfold encode; repeat (first | rfl | refine step ?_ rfl))
theorem vadd16 : ∀ x0 x1, Statement (.vadd16 x0 x1) := fun _ _ => two rfl rfl (by unfold encode; repeat (first | rfl | refine step ?_ rfl))
theorem vsub16 : ∀ x0 x1, Statement (.vsub16 x0 x1) := fun _ _ => two rfl rfl (by unfold encode; repeat (first | rfl | refine step ?_ rfl))
theorem vmul16 : ∀ x0 x1, Statement (.vmul16 x0 x1) := fun _ _ => two rfl rfl (by unfold encode; repeat (first | rfl | refine step ?_ rfl))
theorem vand16 : ∀ x0 x1, Statement (.vand16 x0 x1) := fun _ _ => two rfl rfl (by unfold encode; repeat (first | rfl | refine step ?_ rfl))
theorem vor16 : ∀ x0 x1, Statement (.vor16 x0 x1) := fun _ _ => two rfl rfl (by unfold encode; repeat (first | rfl | refine step ?_ rfl))
theorem vxor16 : ∀ x0 x1, Statement (.vxor16 x0 x1) := fun _ _ => two rfl rfl (by unfold encode; repeat (first | rfl | refine step ?_ rfl))
theorem vshl16 : ∀ x0 x1, Statement (.vshl16 x0 x1) := fun _ _ => two rfl rfl (by unfold encode; repeat (first | rfl | refine step ?_ rfl))
theorem vshr16 : ∀ x0 x1, Statement (.vshr16 x0 x1) := fun _ _ => two rfl rfl (by unfold encode; repeat (first | rfl | refine step ?_ rfl))
theorem vsra16 : ∀ x0 x1, Statement (.vsra16 x0 x1) := fun _ _ => two rfl rfl (by unfold encode; repeat (first | rfl | refine step ?_ rfl))
theorem vmin16 : ∀ x0 x1, Statement (.vmin16 x0 x1) := fun _ _ => two rfl rfl (by unfold encode; repeat (first | rfl | refine step ?_ rfl))
theorem vmax16 : ∀ x0 x1, Statement (.vmax16 x0 x1) := fun _ _ => two rfl rfl (by unfold encode; repeat (first | rfl | refine step ?_ rfl))
theorem vmov16 : ∀ x0 x1, Statement (.vmov16 x0 x1) := fun _ _ => two rfl rfl (by unfold encode; repeat (first | rfl | refine step ?_ rfl))
theorem vneg16 : ∀ x0 x1, Statement (.vneg16 x0 x1) := fun _ _ => two rfl rfl (by unfold encode; repeat (first | rfl | refine step ?_ rfl))
theorem vabs16 : ∀ x0 x1, Statement (.vabs16 x0 x1) := fun _ _ => two rfl rfl (by unfold encode; repeat (first | rfl | refine step ?_ rfl))
theorem vclt16 : ∀ x0 x1, Statement (.vclt16 x0 x1) := fun _ _ => two rfl rfl (by unfold encode; repeat (first | rfl | refine step ?_ rfl))
theorem rep : ∀ x0 x1 x2 x3, Statement (.rep x0 x1 x2 x3) := fun _ _ _ _ => two rfl rfl (by unfold encode; repeat (first | rfl | refine step ?_ rfl))
theorem waitk : ∀ x0 x1, Statement (.waitk x0 x1) := fun _ _ => two rfl rfl (by unfold encode; repeat (first | rfl | refine step ?_ rfl))
theorem movis : ∀ x0 x1, Statement (.movis x0 x1) := fun _ _ => two rfl rfl (by unfold encode; repeat (first | rfl | refine step ?_ rfl))
theorem nop : Statement .nop := two rfl rfl (by rfl)
theorem yield16 : Statement .yield16 := two rfl rfl (by rfl)
theorem quit16 : Statement .quit16 := two rfl rfl (by rfl)
theorem rdone : Statement .rdone := two rfl rfl (by rfl)
theorem fencei16 : Statement .fencei16 := two rfl rfl (by rfl)
theorem firmwareExpansion : ∀ x0 x1, Statement (.firmwareExpansion x0 x1) := fun _ _ => four rfl rfl (by unfold encode; repeat (first | rfl | refine step ?_ rfl))
theorem longLatencyCompletion : ∀ x0 x1 x2, Statement (.longLatencyCompletion x0 x1 x2) := fun _ _ _ => none rfl rfl rfl
theorem repackOperation : ∀ x0, Statement (.repackOperation x0) := fun _ => none rfl rfl rfl
theorem recordPlacement : ∀ x0, Statement (.recordPlacement x0) := fun _ => none rfl rfl rfl
theorem parkedThreadSpill : ∀ x0, Statement (.parkedThreadSpill x0) := fun _ => none rfl rfl rfl
theorem vectorUnitTake : ∀ x0, Statement (.vectorUnitTake x0) := fun _ => none rfl rfl rfl
theorem runnelTransfer : ∀ x0 x1, Statement (.runnelTransfer x0 x1) := fun _ _ => none rfl rfl rfl
theorem l1Eviction : ∀ x0 x1, Statement (.l1Eviction x0 x1) := fun _ _ => none rfl rfl rfl
theorem reservationAdmission : ∀ x0, Statement (.reservationAdmission x0) := fun _ => none rfl rfl rfl
theorem flumeEnqueueOperation : ∀ x0 x1, Statement (.flumeEnqueueOperation x0 x1) := fun _ _ => none rfl rfl rfl
theorem flumeDequeueOperation : ∀ x0 x1, Statement (.flumeDequeueOperation x0 x1) := fun _ _ => none rfl rfl rfl
theorem flumeWaitExpiry : ∀ x0 x1, Statement (.flumeWaitExpiry x0 x1) := fun _ _ => none rfl rfl rfl
theorem copyPacketDequeue : ∀ x0 x1, Statement (.copyPacketDequeue x0 x1) := fun _ _ => none rfl rfl rfl
theorem copyPacketNotBefore : ∀ x0, Statement (.copyPacketNotBefore x0) := fun _ => none rfl rfl rfl
theorem copyPacketExecute : ∀ x0, Statement (.copyPacketExecute x0) := fun _ => none rfl rfl rfl
theorem heldSeqUpdate : ∀ x0, Statement (.heldSeqUpdate x0) := fun _ => none rfl rfl rfl
theorem srcEvent : ∀ x0, Statement (.srcEvent x0) := fun _ => none rfl rfl rfl
theorem visEvent : ∀ x0, Statement (.visEvent x0) := fun _ => none rfl rfl rfl
theorem launchDecrement : ∀ x0, Statement (.launchDecrement x0) := fun _ => none rfl rfl rfl
theorem nbtReached : ∀ x0 x1, Statement (.nbtReached x0 x1) := fun _ _ => none rfl rfl rfl
theorem launchTake : ∀ x0, Statement (.launchTake x0) := fun _ => none rfl rfl rfl
theorem noriaTake : ∀ x0, Statement (.noriaTake x0) := fun _ => none rfl rfl rfl
theorem rowWritten : ∀ x0, Statement (.rowWritten x0) := fun _ => none rfl rfl rfl
theorem slotLoaded : ∀ x0 x1, Statement (.slotLoaded x0 x1) := fun _ _ => none rfl rfl rfl
theorem rowDrain : ∀ x0 x1, Statement (.rowDrain x0 x1) := fun _ _ => none rfl rfl rfl
theorem handlerDispatch : ∀ x0, Statement (.handlerDispatch x0) := fun _ => none rfl rfl rfl
theorem asyncErrorDelivery : ∀ x0 x1, Statement (.asyncErrorDelivery x0 x1) := fun _ _ => none rfl rfl rfl
theorem contextDrained : ∀ x0, Statement (.contextDrained x0) := fun _ => none rfl rfl rfl
theorem quadStateRestore : ∀ x0 x1, Statement (.quadStateRestore x0 x1) := fun _ _ => none rfl rfl rfl
theorem codePageCheck : ∀ x0 x1 x2, Statement (.codePageCheck x0 x1 x2) := fun _ _ _ => none rfl rfl rfl
theorem schedulerTakeOver : ∀ x0, Statement (.schedulerTakeOver x0) := fun _ => none rfl rfl rfl
theorem noiseHealthFailure : ∀ x0 x1, Statement (.noiseHealthFailure x0 x1) := fun _ _ => none rfl rfl rfl
theorem fabricRequest : ∀ x0 x1, Statement (.fabricRequest x0 x1) := fun _ _ => none rfl rfl rfl
theorem hostPortRequest : ∀ x0, Statement (.hostPortRequest x0) := fun _ => none rfl rfl rfl
theorem linkMarkedDown : ∀ x0, Statement (.linkMarkedDown x0) := fun _ => none rfl rfl rfl
theorem offtakeArrival : ∀ x0, Statement (.offtakeArrival x0) := fun _ => none rfl rfl rfl
theorem offtakeStatusTimeout : ∀ x0, Statement (.offtakeStatusTimeout x0) := fun _ => none rfl rfl rfl
theorem rinvwRetry : ∀ x0 x1 x2, Statement (.rinvwRetry x0 x1 x2) := fun _ _ _ => none rfl rfl rfl
theorem offtakeDispatch : Statement .offtakeDispatch := none rfl rfl rfl
theorem collectiveExecute : ∀ x0 x1, Statement (.collectiveExecute x0 x1) := fun _ _ => none rfl rfl rfl
theorem collectiveTimeout : ∀ x0, Statement (.collectiveTimeout x0) := fun _ => none rfl rfl rfl
theorem waittWake : ∀ x0 x1, Statement (.waittWake x0 x1) := fun _ _ => none rfl rfl rfl
theorem timeSyncSend : ∀ x0, Statement (.timeSyncSend x0) := fun _ => none rfl rfl rfl
theorem timeSyncFlit : ∀ x0 x1, Statement (.timeSyncFlit x0 x1) := fun _ _ => none rfl rfl rfl
theorem timeSyncLoss : Statement .timeSyncLoss := none rfl rfl rfl
theorem bootStart : ∀ x0, Statement (.bootStart x0) := fun _ => none rfl rfl rfl
theorem bootReady : Statement .bootReady := none rfl rfl rfl
theorem bootTimeout : Statement .bootTimeout := none rfl rfl rfl
theorem powerLoss : Statement .powerLoss := none rfl rfl rfl
theorem clockStepUp : ∀ x0, Statement (.clockStepUp x0) := fun _ => none rfl rfl rfl
theorem clockStepDown : ∀ x0, Statement (.clockStepDown x0) := fun _ => none rfl rfl rfl
theorem protectiveShutdown : ∀ x0, Statement (.protectiveShutdown x0) := fun _ => none rfl rfl rfl
theorem bootcmdClearMinimal : Statement .bootcmdClearMinimal := none rfl rfl rfl
theorem bootcmdReset : Statement .bootcmdReset := none rfl rfl rfl
theorem tlbinvAll : Statement .tlbinvAll := none rfl rfl rfl
theorem tlbinvContext : ∀ x0, Statement (.tlbinvContext x0) := fun _ => none rfl rfl rfl
theorem tlbinvPage : ∀ x0 x1, Statement (.tlbinvPage x0 x1) := fun _ _ => none rfl rfl rfl
theorem tlbinvComplete : Statement .tlbinvComplete := none rfl rfl rfl
theorem wqclr : Statement .wqclr := none rfl rfl rfl
theorem deviceRegisterWrite : ∀ x0 x1, Statement (.deviceRegisterWrite x0 x1) := fun _ _ => none rfl rfl rfl
theorem noiseFaultCleared : ∀ x0, Statement (.noiseFaultCleared x0) := fun _ => none rfl rfl rfl
theorem applicationCoreContextCommand : ∀ x0 x1, Statement (.applicationCoreContextCommand x0 x1) := fun _ _ => none rfl rfl rfl
theorem l2SectorEviction : ∀ x0 x1, Statement (.l2SectorEviction x0 x1) := fun _ _ => none rfl rfl rfl
theorem standbySchedulerFailure : ∀ x0, Statement (.standbySchedulerFailure x0) := fun _ => none rfl rfl rfl
theorem linkRestored : ∀ x0, Statement (.linkRestored x0) := fun _ => none rfl rfl rfl

end Sys2Proof.Laws.Length
end

