-- ==== Sys2Proof/Tests/Slice0.lean ====
section
/-! SUPPORT. Tests: ill-formed terms, the word of each instruction, single steps, and for each obligation's hypotheses a
state and operands that meet them. -/

namespace Sys2Proof.Tests
open Sys2Proof Sys2Proof.Machine Sys2Proof.Claims

set_option Elab.async false

/-! ## Well-formedness: one ill-formed term for each check -/

theorem test_wf_immediates : Instr.wf (.addi 1 2 512) = false ∧ Instr.wf (.addi 1 2 (-513)) = false ∧
    Instr.wf (.addi 1 2 (-512)) = true ∧ Instr.wf (.andi 1 2 512) = false ∧ Instr.wf (.ori 1 2 512) = false ∧
    Instr.wf (.xori 1 2 512) = false ∧ Instr.wf (.clti 1 2 512) = false ∧ Instr.wf (.shli 1 2 65) = false ∧
    Instr.wf (.shli 1 2 64) = true ∧ Instr.wf (.shri 1 2 65) = false ∧ Instr.wf (.srai 1 2 65) = false ∧
    Instr.wf (.ldk 1 262144) = false ∧ Instr.wf (.ldks 1 524288) = false ∧ Instr.wf (.resize 1 0) = false ∧
    Instr.wf (.resize 1 65) = false ∧ Instr.wf (.trap 262144) = false := by decide

theorem test_wf_offsets : Instr.wf (.beq 1 2 512) = false ∧ Instr.wf (.bne 1 2 512) = false ∧ Instr.wf (.blt 1 2 512) = false ∧
    Instr.wf (.bge 1 2 512) = false ∧ Instr.wf (.bltu 1 2 512) = false ∧ Instr.wf (.bgeu 1 2 512) = false ∧
    Instr.wf (.bsf 512) = false ∧ Instr.wf (.jmp 16777216) = false ∧ Instr.wf (.call (-16777217)) = false ∧
    Instr.wf (.jmpr 1 512) = false ∧ Instr.wf (.callr 1 512) = false ∧ Instr.wf (.movis 1 64) = false ∧
    Instr.wf (.movis 1 (-64)) = true := by decide

theorem test_wf_memory : Instr.wf (.ldb 1 2 32 0) = false ∧ Instr.wf (.ldh 1 2 32 0) = false ∧ Instr.wf (.ldw 1 2 32 0) = false ∧
    Instr.wf (.ldd 1 2 (-33) 0) = false ∧ Instr.wf (.ldbu 1 2 32 0) = false ∧ Instr.wf (.ldhu 1 2 32 0) = false ∧
    Instr.wf (.ldwu 1 2 32 0) = false ∧ Instr.wf (.ldff 1 2 32) = false ∧ Instr.wf (.stb 1 2 32 0) = false ∧
    Instr.wf (.sth 1 2 32 0) = false ∧ Instr.wf (.stw 1 2 32 0) = false ∧ Instr.wf (.std 1 2 32 0) = false ∧
    Instr.wf (.lde 1 2 32) = false ∧ Instr.wf (.stf 1 2 32) = false ∧ Instr.wf (.stff 1 2 32 0) = false ∧
    Instr.wf (.feq 1 2 32 0) = false ∧ Instr.wf (.fempty 2 32 0) = false ∧ Instr.wf (.fefill 2 32 0) = false := by decide

theorem test_wf_vector_memory : Instr.wf (.vldx 1 63 (.tag .dx8) 0) = false ∧ Instr.wf (.vldx 1 63 (.tag .fp32) 0) = true ∧
    Instr.wf (.vstx 1 63 .mxfp6a 0) = false ∧ Instr.wf (.vldb 1 2 .dx8 0) = false ∧ Instr.wf (.vgath 1 2 .raw 0) = false ∧
    Instr.wf (.vgath 31 2 .i8 0) = false ∧ Instr.wf (.vscat 31 2 .i8 0) = false ∧ Instr.wf (.vscat 1 2 .dx8 0) = false := by
  decide

theorem test_wf_vector_operands : [Instr.vadd 1 (.bcast 2) (.bcast 3), .vsub 1 (.bcast 2) (.bcast 3),
    .vmul 1 (.bcast 2) (.bcast 3), .vmin 1 (.bcast 2) (.bcast 3), .vmax 1 (.bcast 2) (.bcast 3), .vminu 1 (.bcast 2) (.bcast 3),
    .vmaxu 1 (.bcast 2) (.bcast 3), .vand 1 (.bcast 2) (.bcast 3), .vor 1 (.bcast 2) (.bcast 3), .vxor 1 (.bcast 2) (.bcast 3),
    .vshl 1 (.bcast 2) (.bcast 3), .vshr 1 (.bcast 2) (.bcast 3), .vsra 1 (.bcast 2) (.bcast 3), .vceq 1 (.bcast 2) (.bcast 3),
    .vclt 1 (.bcast 2) (.bcast 3), .vcle 1 (.bcast 2) (.bcast 3), .vsel 1 (.bcast 2) (.bcast 3),
    .vdiv 1 (.bcast 2) (.bcast 3) 0].all (fun i => !i.wf) = true := by decide

theorem test_wf_codes : Instr.wf (.vbcast 1 2 .dx8) = false ∧ Instr.wf (.vcvt 1 2 .raw .rne) = false ∧
    Instr.wf (.vcvt 1 2 .dx8 .rne) = false ∧ Instr.wf (.vdxq 1 2 .fp32 .rne) = false ∧ Instr.wf (.csrw 1 .temps) = false ∧
    Instr.wf (.csrw 1 .trapv) = true ∧ Instr.wf (.rfadd 1 2 .die) = false ∧ Instr.wf (.rfadd 1 2 .dev) = true ∧
    Instr.wf (.spawn 61 1 2) = false ∧ Instr.wf (.lpatch 1 12 32 0) = false ∧ Instr.wf (.lpatch 1 11 32 0) = true ∧
    Instr.wf (.rinv 1 62 2 0) = false ∧ Instr.wf (.rinvw 1 61 2) = false ∧ Instr.wf (.waitk 0 .src) = false ∧
    Instr.wf (.waitk 256 .src) = false ∧ Instr.wf (.add16 0 0) = false ∧ Instr.wf (.add16 0 1) = true ∧
    Instr.wf (.firmwareExpansion true 33554432) = false := by decide

/-! ## Decoding: each word is the sum of its row's fixed bits and the field values of the instruction -/

/-- Words of major 0x01 (R84). -/
theorem test_decode_major_01 :
    (decodeWord 0x00BCC283).toOption = some (.add 5 38 23) ∧
    (decodeWord 0x02BCC283).toOption = some (.sub 5 38 23) ∧
    (decodeWord 0x04BCC283).toOption = some (.mul 5 38 23) ∧
    (decodeWord 0x06BCC283).toOption = some (.mulh 5 38 23) ∧
    (decodeWord 0x08BCC283).toOption = some (.div 5 38 23) ∧
    (decodeWord 0x0ABCC283).toOption = some (.divu 5 38 23) ∧
    (decodeWord 0x0CBCC283).toOption = some (.rem 5 38 23) ∧
    (decodeWord 0x0EBCC283).toOption = some (.remu 5 38 23) ∧
    (decodeWord 0x10BCC283).toOption = some (.and 5 38 23) ∧
    (decodeWord 0x12BCC283).toOption = some (.or 5 38 23) ∧
    (decodeWord 0x14BCC283).toOption = some (.xor 5 38 23) ∧
    (decodeWord 0x16BCC283).toOption = some (.andn 5 38 23) ∧
    (decodeWord 0x18BCC283).toOption = some (.shl 5 38 23) ∧
    (decodeWord 0x1ABCC283).toOption = some (.shr 5 38 23) ∧
    (decodeWord 0x1CBCC283).toOption = some (.sra 5 38 23) ∧
    (decodeWord 0x1EBCC283).toOption = some (.rol 5 38 23) ∧
    (decodeWord 0x20BCC283).toOption = some (.min 5 38 23) ∧
    (decodeWord 0x22BCC283).toOption = some (.minu 5 38 23) ∧
    (decodeWord 0x24BCC283).toOption = some (.max 5 38 23) ∧
    (decodeWord 0x26BCC283).toOption = some (.maxu 5 38 23) ∧
    (decodeWord 0x28BCC283).toOption = some (.ceq 5 38 23) ∧
    (decodeWord 0x2ABCC283).toOption = some (.cne 5 38 23) ∧
    (decodeWord 0x2CBCC283).toOption = some (.clt 5 38 23) ∧
    (decodeWord 0x2EBCC283).toOption = some (.cltu 5 38 23) ∧
    (decodeWord 0x30BCC283).toOption = some (.cle 5 38 23) ∧
    (decodeWord 0x32BCC283).toOption = some (.cleu 5 38 23) ∧
    (decodeWord 0x34BCC283).toOption = some (.sel 5 38 23) ∧
    (decodeWord 0x36BCC283).toOption = some (.bfx 5 38 23) ∧
    (decodeWord 0x38BCC283).toOption = some (.bfi 5 38 23) ∧
    (decodeWord 0x3A04C283).toOption = some (.clz 5 38) ∧
    (decodeWord 0x3C04C283).toOption = some (.popc 5 38) ∧
    (decodeWord 0x3E04C283).toOption = some (.abs 5 38) ∧
    (decodeWord 0x4004C283).toOption = some (.neg 5 38) ∧
    (decodeWord 0x4204C283).toOption = some (.not 5 38) ∧
    (decodeWord 0x4404C283).toOption = some (.mov 5 38) := by
  decide +kernel

/-- Words of major 0x02 (R84). -/
theorem test_decode_major_02 :
    (decodeWord 0xFF44C285).toOption = some (.addi 5 38 (-3)) ∧
    (decodeWord 0xFF4CC285).toOption = some (.andi 5 38 (-3)) ∧
    (decodeWord 0xFF54C285).toOption = some (.ori 5 38 (-3)) ∧
    (decodeWord 0xFF5CC285).toOption = some (.xori 5 38 (-3)) ∧
    (decodeWord 0x0964C285).toOption = some (.shli 5 38 37) ∧
    (decodeWord 0x096CC285).toOption = some (.shri 5 38 37) ∧
    (decodeWord 0x0974C285).toOption = some (.srai 5 38 37) ∧
    (decodeWord 0xFF7CC285).toOption = some (.clti 5 38 (-3)) := by
  decide +kernel

/-- Words of major 0x03 (R84). -/
theorem test_decode_major_03 :
    (decodeWord 0xFFFFA287).toOption = some (.ldk 5 (-3)) := by
  decide +kernel

/-- Words of major 0x04 (R84). -/
theorem test_decode_major_04 :
    (decodeWord 0xB4B4A289).toOption = some (.ldks 5 0x5a5a5) := by
  decide +kernel

/-- Words of major 0x05 (R84). -/
theorem test_decode_major_05 :
    (decodeWord 0x1000028B).toOption = some (.resize 5 64) ∧
    (decodeWord 0x0088028B).toOption = some (.mode 5 .trap) ∧
    (decodeWord 0x0014C28B).toOption = some (.width 5 38) ∧
    (decodeWord 0x0018028B).toOption = some (.mff 5) ∧
    (decodeWord 0x0024C00B).toOption = some (.mtf 38) ∧
    (decodeWord 0x0028000B).toOption = some .sfclr := by
  decide +kernel

/-- Words of major 0x06 (R84). -/
theorem test_decode_major_06 :
    (decodeWord 0xFF42F30D).toOption = some (.beq 38 23 (-3)) ∧
    (decodeWord 0xFF4AF30D).toOption = some (.bne 38 23 (-3)) ∧
    (decodeWord 0xFF52F30D).toOption = some (.blt 38 23 (-3)) ∧
    (decodeWord 0xFF5AF30D).toOption = some (.bge 38 23 (-3)) ∧
    (decodeWord 0xFF62F30D).toOption = some (.bltu 38 23 (-3)) ∧
    (decodeWord 0xFF6AF30D).toOption = some (.bgeu 38 23 (-3)) ∧
    (decodeWord 0xFF70000D).toOption = some (.bsf (-3)) := by
  decide +kernel

/-- Words of major 0x07 (R84). -/
theorem test_decode_major_07 :
    (decodeWord 0xFFFFFE8F).toOption = some (.jmp (-3)) := by
  decide +kernel

/-- Words of major 0x08 (R84). -/
theorem test_decode_major_08 :
    (decodeWord 0xFFFFFE91).toOption = some (.call (-3)) := by
  decide +kernel

/-- Words of major 0x09 (R84). -/
theorem test_decode_major_09 :
    (decodeWord 0xFF44C013).toOption = some (.jmpr 38 (-3)) ∧
    (decodeWord 0xFF4CC013).toOption = some (.callr 38 (-3)) := by
  decide +kernel

/-- Words of major 0x0A (R84). -/
theorem test_decode_major_0A :
    (decodeWord 0x00BCC295).toOption = some (.fadd 5 38 23) ∧
    (decodeWord 0x02BCC295).toOption = some (.fsub 5 38 23) ∧
    (decodeWord 0x04BCC295).toOption = some (.fmul 5 38 23) ∧
    (decodeWord 0x06BCC295).toOption = some (.fdiv 5 38 23) ∧
    (decodeWord 0x0804C295).toOption = some (.fsqrt 5 38) ∧
    (decodeWord 0x0ABCC295).toOption = some (.fmin 5 38 23) ∧
    (decodeWord 0x0CBCC295).toOption = some (.fmax 5 38 23) ∧
    (decodeWord 0x0EBCC295).toOption = some (.fceq 5 38 23) ∧
    (decodeWord 0x10BCC295).toOption = some (.fclt 5 38 23) ∧
    (decodeWord 0x12BCC295).toOption = some (.fcle 5 38 23) ∧
    (decodeWord 0x1404C295).toOption = some (.fclass 5 38) ∧
    (decodeWord 0x1604C295).toOption = some (.fneg 5 38) ∧
    (decodeWord 0x1804C295).toOption = some (.fabs 5 38) ∧
    (decodeWord 0x1A1CC295).toOption = some (.fcvt 5 38 .rup) ∧
    (decodeWord 0x1C1CC295).toOption = some (.fcvti 5 38 .rup) ∧
    (decodeWord 0x1E1CC295).toOption = some (.fcvtf 5 38 .rup) := by
  decide +kernel

/-- Words of major 0x0B (R84). -/
theorem test_decode_major_0B :
    (decodeWord 0x14BCC297).toOption = some (.fma 5 38 23 10) ∧
    (decodeWord 0x34BCC297).toOption = some (.fms 5 38 23 10) ∧
    (decodeWord 0x54BCC297).toOption = some (.fnma 5 38 23 10) := by
  decide +kernel

/-- Words of major 0x0C (R84). -/
theorem test_decode_major_0C :
    (decodeWord 0x00BCC299).toOption = some (.bmov 5 38 23) ∧
    (decodeWord 0x20BCC299).toOption = some (.bset 5 38 23) := by
  decide +kernel

/-- Words of major 0x0D (R84). -/
theorem test_decode_major_0D :
    (decodeWord 0x0155E69B).toOption = some (.trap 0x2abcd) ∧
    (decodeWord 0x0200001B).toOption = some .eret ∧
    (decodeWord 0x0402A29B).toOption = some (.csrr 5 .dbgm) ∧
    (decodeWord 0x0602A29B).toOption = some (.csrw 5 .dbgm) ∧
    (decodeWord 0x0800001B).toOption = some .brk ∧
    (decodeWord 0x0A00001B).toOption = some .fencei := by
  decide +kernel

/-- Words of major 0x10 (R84). -/
theorem test_decode_major_10 :
    (decodeWord 0x15ECC2A1).toOption = some (.ldb 5 38 (-3) 10) ∧
    (decodeWord 0x35ECC2A1).toOption = some (.ldh 5 38 (-3) 10) ∧
    (decodeWord 0x55ECC2A1).toOption = some (.ldw 5 38 (-3) 10) ∧
    (decodeWord 0x75ECC2A1).toOption = some (.ldd 5 38 (-3) 10) ∧
    (decodeWord 0x95ECC2A1).toOption = some (.ldbu 5 38 (-3) 10) ∧
    (decodeWord 0xB5ECC2A1).toOption = some (.ldhu 5 38 (-3) 10) ∧
    (decodeWord 0xD5ECC2A1).toOption = some (.ldwu 5 38 (-3) 10) ∧
    (decodeWord 0xE1ECC2A1).toOption = some (.ldff 5 38 (-3)) := by
  decide +kernel

/-- Words of major 0x11 (R84). -/
theorem test_decode_major_11 :
    (decodeWord 0x15ECC2A3).toOption = some (.stb 5 38 (-3) 10) ∧
    (decodeWord 0x35ECC2A3).toOption = some (.sth 5 38 (-3) 10) ∧
    (decodeWord 0x55ECC2A3).toOption = some (.stw 5 38 (-3) 10) ∧
    (decodeWord 0x75ECC2A3).toOption = some (.std 5 38 (-3) 10) := by
  decide +kernel

/-- Words of major 0x12 (R84). -/
theorem test_decode_major_12 :
    (decodeWord 0x146CC9A5).toOption = some (.vld 19 38 .mxe5m2 10) ∧
    (decodeWord 0x344CC9A5).toOption = some (.vst 19 38 .dx8 10) ∧
    (decodeWord 0x548CC9A5).toOption = some (.vldx 19 38 .mxfp6b 10) ∧
    (decodeWord 0x748CC9A5).toOption = some (.vstx 19 38 .mxfp6b 10) ∧
    (decodeWord 0x942CC9A5).toOption = some (.vldb 19 38 .bf16 10) ∧
    (decodeWord 0xB42CC9A5).toOption = some (.vgath 19 38 .bf16 10) ∧
    (decodeWord 0xD42CC9A5).toOption = some (.vscat 19 38 .bf16 10) := by
  decide +kernel

/-- Words of major 0x13 (R84). -/
theorem test_decode_major_13 :
    (decodeWord 0x01ECC2A7).toOption = some (.lde 5 38 (-3)) ∧
    (decodeWord 0x21ECC2A7).toOption = some (.stf 5 38 (-3)) ∧
    (decodeWord 0x55ECC2A7).toOption = some (.stff 5 38 (-3) 10) ∧
    (decodeWord 0x75ECC2A7).toOption = some (.feq 5 38 (-3) 10) ∧
    (decodeWord 0x95ECC027).toOption = some (.fempty 38 (-3) 10) ∧
    (decodeWord 0xB5ECC027).toOption = some (.fefill 38 (-3) 10) := by
  decide +kernel

/-- Words of major 0x14 (R84). -/
theorem test_decode_major_14 :
    (decodeWord 0x08BCC2A9).toOption = some (.aadd 5 38 23 .host) ∧
    (decodeWord 0x18BCC2A9).toOption = some (.amin 5 38 23 .host) ∧
    (decodeWord 0x28BCC2A9).toOption = some (.aminu 5 38 23 .host) ∧
    (decodeWord 0x38BCC2A9).toOption = some (.amax 5 38 23 .host) ∧
    (decodeWord 0x48BCC2A9).toOption = some (.amaxu 5 38 23 .host) ∧
    (decodeWord 0x58BCC2A9).toOption = some (.aand 5 38 23 .host) ∧
    (decodeWord 0x68BCC2A9).toOption = some (.aor 5 38 23 .host) ∧
    (decodeWord 0x78BCC2A9).toOption = some (.axor 5 38 23 .host) ∧
    (decodeWord 0x88BCC2A9).toOption = some (.aswp 5 38 23 .host) ∧
    (decodeWord 0x98BCC2A9).toOption = some (.acas 5 38 23 .host) ∧
    (decodeWord 0xA8BCC029).toOption = some (.radd 38 23 .host) ∧
    (decodeWord 0xB8BCC029).toOption = some (.rmin 38 23 .host) ∧
    (decodeWord 0xC8BCC029).toOption = some (.rmax 38 23 .host) ∧
    (decodeWord 0xD8BCC029).toOption = some (.ror 38 23 .host) ∧
    (decodeWord 0xE8BCC029).toOption = some (.rfadd 38 23 .host) := by
  decide +kernel

/-- Words of major 0x15 (R84). -/
theorem test_decode_major_15 :
    (decodeWord 0x0804C2AB).toOption = some (.lrw 5 38 .host) ∧
    (decodeWord 0x18BCC02B).toOption = some (.sch 38 23 .host) ∧
    (decodeWord 0x2804C02B).toOption = some (.lrx 38 .host) ∧
    (decodeWord 0x3800002B).toOption = some (.phaseRel .host) ∧
    (decodeWord 0x4800002B).toOption = some (.phaseAcq .host) ∧
    (decodeWord 0x5800002B).toOption = some (.phaseAr .host) := by
  decide +kernel

/-- Words of major 0x16 (R84). -/
theorem test_decode_major_16 :
    (decodeWord 0x00BCC02D).toOption = some (.enq 38 23) ∧
    (decodeWord 0x2004C2AD).toOption = some (.deq 5 38) ∧
    (decodeWord 0x54BCC2AD).toOption = some (.enqn 5 38 23 10) ∧
    (decodeWord 0x7404C2AD).toOption = some (.deqn 5 38 10) ∧
    (decodeWord 0x80BCC2AD).toOption = some (.enqw 5 38 23) ∧
    (decodeWord 0xA0BCC2AD).toOption = some (.deqw 5 38 23) ∧
    (decodeWord 0xD42CC2AD).toOption = some (.qstat 5 38 5 10) ∧
    (decodeWord 0xE004C2AD).toOption = some (.qbind 5 38) := by
  decide +kernel

/-- Words of major 0x17 (R84). -/
theorem test_decode_major_17 :
    (decodeWord 0x0004C2AF).toOption = some (.sptest 5 38) ∧
    (decodeWord 0x000CC2AF).toOption = some (.spcast 5 38) ∧
    (decodeWord 0x0014C2AF).toOption = some (.spmake 5 38) ∧
    (decodeWord 0x001CC2AF).toOption = some (.spcore 5 38) ∧
    (decodeWord 0x0120002F).toOption = some (.split 4) := by
  decide +kernel

/-- Words of major 0x18 (R84). -/
theorem test_decode_major_18 :
    (decodeWord 0x00BCD4B1).toOption = some (.spawn 41 38 23) ∧
    (decodeWord 0x02000031).toOption = some .quit ∧
    (decodeWord 0x04000031).toOption = some .yield ∧
    (decodeWord 0x062802B1).toOption = some (.tid 5 5) ∧
    (decodeWord 0x0824C131).toOption = some (.join 2 38 .host) ∧
    (decodeWord 0x0A000131).toOption = some (.leave 2) ∧
    (decodeWord 0x0C000131).toOption = some (.gbar 2) ∧
    (decodeWord 0x0E1042B1).toOption = some (.gcnt 5 2 2) ∧
    (decodeWord 0x100002B1).toOption = some (.rotr 5) ∧
    (decodeWord 0x1204C031).toOption = some (.rotw 38) := by
  decide +kernel

/-- Words of major 0x19 (R84). -/
theorem test_decode_major_19 :
    (decodeWord 0x001802B3).toOption = some (.link 5 3) ∧
    (decodeWord 0x020002B3).toOption = some (.unlink 5) ∧
    (decodeWord 0x0404C033).toOption = some (.ldir 38) ∧
    (decodeWord 0x060002B3).toOption = some (.ldirr 5) := by
  decide +kernel

/-- Words of major 0x1A (R84). -/
theorem test_decode_major_1A :
    (decodeWord 0x014AC9B5).toOption = some (.vadd 19 (.reg 22) (.bcast 9)) ∧
    (decodeWord 0x034AC9B5).toOption = some (.vsub 19 (.reg 22) (.bcast 9)) ∧
    (decodeWord 0x054AC9B5).toOption = some (.vmul 19 (.reg 22) (.bcast 9)) ∧
    (decodeWord 0x074AC9B5).toOption = some (.vmin 19 (.reg 22) (.bcast 9)) ∧
    (decodeWord 0x094AC9B5).toOption = some (.vmax 19 (.reg 22) (.bcast 9)) ∧
    (decodeWord 0x0B4AC9B5).toOption = some (.vminu 19 (.reg 22) (.bcast 9)) ∧
    (decodeWord 0x0D4AC9B5).toOption = some (.vmaxu 19 (.reg 22) (.bcast 9)) ∧
    (decodeWord 0x0F4AC9B5).toOption = some (.vand 19 (.reg 22) (.bcast 9)) ∧
    (decodeWord 0x114AC9B5).toOption = some (.vor 19 (.reg 22) (.bcast 9)) ∧
    (decodeWord 0x134AC9B5).toOption = some (.vxor 19 (.reg 22) (.bcast 9)) ∧
    (decodeWord 0x154AC9B5).toOption = some (.vshl 19 (.reg 22) (.bcast 9)) ∧
    (decodeWord 0x174AC9B5).toOption = some (.vshr 19 (.reg 22) (.bcast 9)) ∧
    (decodeWord 0x194AC9B5).toOption = some (.vsra 19 (.reg 22) (.bcast 9)) ∧
    (decodeWord 0x1A00C9B5).toOption = some (.vabs 19 6) ∧
    (decodeWord 0x1C00C9B5).toOption = some (.vneg 19 6) ∧
    (decodeWord 0x1F4AC9B5).toOption = some (.vceq 19 (.reg 22) (.bcast 9)) ∧
    (decodeWord 0x214AC9B5).toOption = some (.vclt 19 (.reg 22) (.bcast 9)) ∧
    (decodeWord 0x234AC9B5).toOption = some (.vcle 19 (.reg 22) (.bcast 9)) ∧
    (decodeWord 0x254AC9B5).toOption = some (.vsel 19 (.reg 22) (.bcast 9)) ∧
    (decodeWord 0x2600C9B5).toOption = some (.vmov 19 6) ∧
    (decodeWord 0x282D69B5).toOption = some (.vbcast 19 11 .bf16) ∧
    (decodeWord 0x2AB8C2B5).toOption = some (.vext 5 6 23) ∧
    (decodeWord 0x2CBCC9B5).toOption = some (.vins 19 38 23) ∧
    (decodeWord 0x2F48C9B5).toOption = some (.vperm 19 6 (.bcast 9)) ∧
    (decodeWord 0x3000C9B5).toOption = some (.vradd 19 6) ∧
    (decodeWord 0x3200C9B5).toOption = some (.vrmax 19 6) ∧
    (decodeWord 0x3400C9B5).toOption = some (.vrmin 19 6) := by
  decide +kernel

/-- Words of major 0x1B (R84). -/
theorem test_decode_major_1B :
    (decodeWord 0x154AC9B7).toOption = some (.vfma 19 (.reg 22) (.bcast 9) 10) ∧
    (decodeWord 0x354AC9B7).toOption = some (.vfms 19 (.reg 22) (.bcast 9) 10) ∧
    (decodeWord 0x554AC9B7).toOption = some (.vdiv 19 (.reg 22) (.bcast 9) 10) ∧
    (decodeWord 0x7400C9B7).toOption = some (.vsqrt 19 6 10) := by
  decide +kernel

/-- Words of major 0x1C (R84). -/
theorem test_decode_major_1C :
    (decodeWord 0x0F80C9B9).toOption = some (.vcvt 19 6 .mxfp4 .rup) ∧
    (decodeWord 0x0E88C9B9).toOption = some (.vdxq 19 6 .dx6 .rup) ∧
    (decodeWord 0x0010C2B9).toOption = some (.vtag 5 6) ∧
    (decodeWord 0x02D8C9B9).toOption = some (.vretag 19 6 .dx4) ∧
    (decodeWord 0x0120C2B9).toOption = some (.vsexr 5 6 4) ∧
    (decodeWord 0x00ECC9B9).toOption = some (.vsexw 19 38 3) := by
  decide +kernel

/-- Words of major 0x1D (R84). -/
theorem test_decode_major_1D :
    (decodeWord 0x00B8C2BB).toOption = some (.cpy 5 6 23) ∧
    (decodeWord 0x340002BB).toOption = some (.toks 5 10) ∧
    (decodeWord 0x54BCC2BB).toOption = some (.barm 5 38 23 10) ∧
    (decodeWord 0x60BCC2BB).toOption = some (.bwait 5 38 23) ∧
    (decodeWord 0x94BCC2BB).toOption = some (.bpoll 5 38 23 10) ∧
    (decodeWord 0xB404C2BB).toOption = some (.berr 5 38 10) ∧
    (decodeWord 0xD404C2BB).toOption = some (.bclr 5 38 10) := by
  decide +kernel

/-- Words of major 0x1E (R84). -/
theorem test_decode_major_1E :
    (decodeWord 0x14B922BD).toOption = some (.lpatch 5 9 23 10) ∧
    (decodeWord 0x340002BD).toOption = some (.larm 5 10) ∧
    (decodeWord 0x540002BD).toOption = some (.lfire 5 10) ∧
    (decodeWord 0x7404C2BD).toOption = some (.lstat 5 38 10) := by
  decide +kernel

/-- Words of major 0x1F (R84). -/
theorem test_decode_major_1F :
    (decodeWord 0x1400C03F).toOption = some (.mldb 6 10) ∧
    (decodeWord 0x34B8C2BF).toOption = some (.mmac 5 6 23 10) ∧
    (decodeWord 0x40BCC2BF).toOption = some (.mrun 5 38 23) ∧
    (decodeWord 0x74BCC03F).toOption = some (.mdrn 38 23 10) ∧
    (decodeWord 0x80BCC03F).toOption = some (.mhnd 38 23) ∧
    (decodeWord 0xB404C2BF).toOption = some (.mchk 5 38 10) ∧
    (decodeWord 0xC004C03F).toOption = some (.macq 38) ∧
    (decodeWord 0xE004C03F).toOption = some (.mrel 38) := by
  decide +kernel

/-- Words of major 0x20 (R84). -/
theorem test_decode_major_20 :
    (decodeWord 0x0084C2C1).toOption = some (.srng 5 38 2) := by
  decide +kernel

/-- Words of major 0x21 (R84). -/
theorem test_decode_major_21 :
    (decodeWord 0x00000043).toOption = some .commit ∧
    (decodeWord 0x0204C2C3).toOption = some (.ctxsv 5 38) ∧
    (decodeWord 0x0404C2C3).toOption = some (.ctxld 5 38) ∧
    (decodeWord 0x060CC2C3).toOption = some (.preempt 5 38 true) ∧
    (decodeWord 0x0814C2C3).toOption = some (.unfreeze 5 38 2) ∧
    (decodeWord 0x0AD802C3).toOption = some (.errpop 5 27) ∧
    (decodeWord 0x0C14C2C3).toOption = some (.dtset 5 38 2) ∧
    (decodeWord 0x0E1802C3).toOption = some (.dtget 5 3) ∧
    (decodeWord 0x1004C2C3).toOption = some (.spill 5 38) := by
  decide +kernel

/-- Words of major 0x22 (R84). -/
theorem test_decode_major_22 :
    (decodeWord 0x14DCC2C5).toOption = some (.rinv 5 38 27 10) ∧
    (decodeWord 0x20DCC2C5).toOption = some (.rinvw 5 38 27) ∧
    (decodeWord 0x542CC2C5).toOption = some (.rstat 5 38 5 10) ∧
    (decodeWord 0x740002C5).toOption = some (.tbr 5 10) ∧
    (decodeWord 0x8004C2C5).toOption = some (.waitt 5 38) ∧
    (decodeWord 0xA0B8C2C5).toOption = some (.coll 5 6 23) := by
  decide +kernel

/-- Words of short scalar (R79 to R83). -/
theorem test_decode_short_scalar :
    (decodeWord 0x3680).toOption = some (.add16 13 6) ∧
    (decodeWord 0x3688).toOption = some (.sub16 13 6) ∧
    (decodeWord 0x3690).toOption = some (.mul16 13 6) ∧
    (decodeWord 0x3698).toOption = some (.and16 13 6) ∧
    (decodeWord 0x36A0).toOption = some (.or16 13 6) ∧
    (decodeWord 0x36A8).toOption = some (.xor16 13 6) ∧
    (decodeWord 0x36B0).toOption = some (.shl16 13 6) ∧
    (decodeWord 0x36B8).toOption = some (.shr16 13 6) ∧
    (decodeWord 0x36C0).toOption = some (.sra16 13 6) ∧
    (decodeWord 0x36C8).toOption = some (.min16 13 6) ∧
    (decodeWord 0x36D0).toOption = some (.max16 13 6) ∧
    (decodeWord 0x36D8).toOption = some (.mov16 13 6) ∧
    (decodeWord 0x36E0).toOption = some (.neg16 13 6) ∧
    (decodeWord 0x36E8).toOption = some (.not16 13 6) ∧
    (decodeWord 0x36F0).toOption = some (.abs16 13 6) ∧
    (decodeWord 0x36F8).toOption = some (.clt16 13 6) := by
  decide +kernel

/-- Words of short vector (R79 to R83). -/
theorem test_decode_short_vector :
    (decodeWord 0xB680).toOption = some (.vadd16 13 6) ∧
    (decodeWord 0xB688).toOption = some (.vsub16 13 6) ∧
    (decodeWord 0xB690).toOption = some (.vmul16 13 6) ∧
    (decodeWord 0xB698).toOption = some (.vand16 13 6) ∧
    (decodeWord 0xB6A0).toOption = some (.vor16 13 6) ∧
    (decodeWord 0xB6A8).toOption = some (.vxor16 13 6) ∧
    (decodeWord 0xB6B0).toOption = some (.vshl16 13 6) ∧
    (decodeWord 0xB6B8).toOption = some (.vshr16 13 6) ∧
    (decodeWord 0xB6C0).toOption = some (.vsra16 13 6) ∧
    (decodeWord 0xB6C8).toOption = some (.vmin16 13 6) ∧
    (decodeWord 0xB6D0).toOption = some (.vmax16 13 6) ∧
    (decodeWord 0xB6D8).toOption = some (.vmov16 13 6) ∧
    (decodeWord 0xB6E0).toOption = some (.vneg16 13 6) ∧
    (decodeWord 0xB6F0).toOption = some (.vabs16 13 6) ∧
    (decodeWord 0xB6F8).toOption = some (.vclt16 13 6) := by
  decide +kernel

/-- Words of rep and waitk (R79 to R83). -/
theorem test_decode_rep_and_waitk :
    (decodeWord 0x73EA).toOption = some (.rep 61 1 2 3) ∧
    (decodeWord 0x952A).toOption = some (.waitk 0xA5 .both) := by
  decide +kernel

/-- Words of movis (R79 to R83). -/
theorem test_decode_movis :
    (decodeWord 0x3EEC).toOption = some (.movis 13 (-3)) := by
  decide +kernel

/-- Words of short miscellaneous (R79 to R83). -/
theorem test_decode_short_miscellaneous :
    (decodeWord 0x0006).toOption = some .nop ∧
    (decodeWord 0x000E).toOption = some .yield16 ∧
    (decodeWord 0x0016).toOption = some .quit16 ∧
    (decodeWord 0x001E).toOption = some .rdone ∧
    (decodeWord 0x0026).toOption = some .fencei16 := by
  decide +kernel

/-- Words of major 0x3F (R84). -/
theorem test_decode_major_3F :
    (decodeWord 0x91A2B3FF).toOption = some (.firmwareExpansion true 0x1234567) := by
  decide +kernel

/-! ## A small state -/

/-- The loader's thread at core 0, slot 0 (log 1): every name 64 bits, unsigned, wrap; system privilege. -/
def tst : State := State.reset.withLoader

/-- Names declared anew: index, width, kind, mode, value. -/
def names (l : List (Name × Nat × Kind × OvMode × Int)) (s : State) : State :=
  l.foldl (fun s p => s.modThr (fun t =>
    t.setName p.1 ⟨p.2.1, p.2.2.1, p.2.2.2.1, BitVec.ofInt 64 (p.2.2.2.2 % 2 ^ p.2.1), .none⟩)) s

/-- Values of 64-bit unsigned names. -/
def vals (l : List (Name × Nat)) (s : State) : State := names (l.map (fun p => (p.1, 64, .unsigned, .wrap, (p.2 : Int)))) s

/-- Vector registers: index, data, side field, tag. -/
def vecs (l : List (VReg × Nat × Nat × Tag)) (s : State) : State :=
  l.foldl (fun s p => s.modThr (fun t => t.setVreg p.1 ⟨BitVec.ofNat 512 p.2.1, BitVec.ofNat 64 p.2.2.1, p.2.2.2⟩)) s

/-- The state after a step that goes on. -/
def nextOf (o : Out) : State :=
  match o with
  | .next t => t
  | _ => State.reset

/-- The flags as Z N C V SF. -/
def flagsOf (s : State) : List Bool := [s.thr.flags.z, s.thr.flags.n, s.thr.flags.c, s.thr.flags.v, s.thr.flags.sf]

/-- What an instruction uses is ready, with no operand bound. -/
def okNow (s : State) (u : Use) : Bool := (s.useFail u).isNone && s.unbound u

theorem ready_now {s : State} {u : Use} (h : okNow s u = true) : Ready s u s := by
  simp only [okNow, Bool.and_eq_true, Option.isNone_iff_eq_none] at h
  exact ready_unbound h.1 h.2

/-! ## Single steps -/

/-- The table after R37, row 1. -/
theorem test_add_mixed : let s := nextOf (exec (.add 3 1 2) (names [(1, 5, .signed, .wrap, -3), (2, 3, .unsigned, .wrap, 7),
    (3, 8, .unsigned, .wrap, 0)] tst)); s.pat 3 = 4 ∧ flagsOf s = [false, false, false, false, false] := by decide +kernel

/-- The table after R37, row 2. -/
theorem test_add_wraps : let s := nextOf (exec (.add 3 1 2) (names [(1, 8, .unsigned, .wrap, 250), (2, 3, .unsigned, .wrap, 7),
    (3, 8, .unsigned, .wrap, 0)] tst)); s.pat 3 = 1 ∧ flagsOf s = [false, false, true, true, false] := by decide +kernel

/-- The table after R37, row 3. -/
theorem test_sub_saturates : let s := nextOf (exec (.sub 3 1 2) (names [(1, 7, .signed, .wrap, -60),
    (2, 8, .unsigned, .wrap, 200), (3, 7, .signed, .sat, 0)] tst)); s.val 3 = -64 ∧ flagsOf s = [false, true, true, true, true] := by
  decide +kernel

/-- The table after R37, row 7. -/
theorem test_div_overflow_traps : let s := nextOf (exec (.div 3 1 2) (names [(1, 8, .signed, .wrap, -128),
    (2, 8, .signed, .wrap, -1), (3, 8, .signed, .trap, 5)] tst)); s.thr.trapc = BitVec.ofNat 64 Cause.widthOverflow.code ∧
    s.thr.pc = 0x20000 ∧ s.val 3 = 5 ∧ s.thr.privl = ⟨true, true, true, false⟩ := by decide +kernel

/-- The table after R37, row 5. -/
theorem test_not_saturates : let s := nextOf (exec (.not 2 1) (names [(1, 8, .unsigned, .wrap, 0), (2, 8, .unsigned, .sat, 9)] tst))
    s.pat 2 = 0 ∧ flagsOf s = [true, false, true, true, true] := by decide +kernel

/-- R37: a zero divisor traps in wrap mode too, X0 the dividend. -/
theorem test_divu_by_zero : let s := nextOf (exec (.divu 3 1 2) (vals [(1, 77), (2, 0)] tst))
    s.thr.trapc = BitVec.ofNat 64 Cause.divideByZero.code ∧ s.thr.trapx = 77 := by decide +kernel

/-- The table after R107: DIV, REM, DIVU, MULH, SRA, ROL, CLZ of 8-bit names. -/
theorem test_table_107 :
    (nextOf (exec (.div 3 1 2) (names [(1, 8, .signed, .wrap, -7), (2, 8, .signed, .wrap, 2), (3, 8, .signed, .wrap, 0)] tst))).val 3 = -3 ∧
    (nextOf (exec (.rem 3 1 2) (names [(1, 8, .signed, .wrap, -7), (2, 8, .signed, .wrap, 2), (3, 8, .signed, .wrap, 0)] tst))).val 3 = -1 ∧
    (nextOf (exec (.divu 3 1 2) (names [(1, 8, .signed, .wrap, -7), (2, 8, .signed, .wrap, 2), (3, 8, .signed, .wrap, 0)] tst))).val 3 = 124 ∧
    (nextOf (exec (.mulh 3 1 2) (names [(1, 8, .signed, .wrap, 100), (2, 8, .signed, .wrap, 100), (3, 8, .signed, .wrap, 0)] tst))).val 3 = 39 ∧
    (nextOf (exec (.sra 3 1 2) (names [(1, 8, .signed, .wrap, -7), (2, 8, .signed, .wrap, 1), (3, 8, .signed, .wrap, 0)] tst))).val 3 = -4 ∧
    (nextOf (exec (.rol 3 1 2) (names [(1, 8, .unsigned, .wrap, 0x81), (2, 8, .signed, .wrap, 1), (3, 8, .signed, .wrap, 0)] tst))).val 3 = 3 ∧
    (nextOf (exec (.clz 3 1) (names [(1, 8, .unsigned, .wrap, 0x10), (3, 8, .signed, .wrap, 0)] tst))).val 3 = 3 := by decide +kernel

/-- The example of R106: 4 bits at position 5. -/
theorem test_bfx : (nextOf (exec (.bfx 3 7 8) (vals [(7, 0b110100000), (8, 0x0205)] tst))).pat 3 = 0b1101 := by decide +kernel

/-- The sequence after R109, its second line. -/
theorem test_ldks : (nextOf (exec (.ldks 5 0x0D159) (vals [(5, 9)] tst))).pat 5 = 0x48D159 := by decide +kernel

/-- R42: a RESIZE that overflows in wrap mode. -/
theorem test_resize : let s := nextOf (exec (.resize 2 8) (names [(2, 16, .unsigned, .wrap, 0x1FF)] tst))
    (s.thr.name 2).width = 8 ∧ s.pat 2 = 0xFF ∧ flagsOf s = [false, false, true, true, false] := by decide +kernel

/-- R112: the BNE of the worked encodings, −12 bytes. -/
theorem test_bne : (nextOf (exec (.bne 3 63 (-6)) (vals [(3, 1)] tst))).thr.pc = 0xFFF4 := by decide +kernel

/-- R113: CALL writes PC + 4. -/
theorem test_call : let s := nextOf (exec (.call 8) tst); s.thr.pc = 0x10010 ∧ s.pat 62 = 0x10004 := by decide +kernel

/-- R14, R114: an odd target is ALIGN with the target as address. -/
theorem test_jmpr_odd : let s := nextOf (exec (.jmpr 1 1) (vals [(1, 0x2000)] tst))
    s.thr.trapc = BitVec.ofNat 64 Cause.align.code ∧ s.thr.trapa = 0x2001 ∧ s.thr.trappc = 0x10000 := by decide +kernel

/-- R118: 1.5 × 2 + 0.25 in binary32. -/
theorem test_fma : let f (x : Int) : Nat × Kind × OvMode × Int := (32, .f32, .wrap, x)
    (nextOf (exec (.fma 3 1 2 0) (names [(1, f 0x3FC00000), (2, f 0x40000000), (3, f 0x3E800000)] tst))).pat 3 = 0x40500000 := by
  decide +kernel

/-- The conversions after R71, rows 1, 2 and 7. -/
theorem test_fcvt : let s := names [(1, 32, .f32, .wrap, 0x3F808000), (2, 16, .bf16, .wrap, 0), (3, 16, .f16, .wrap, 1),
      (4, 32, .f32, .wrap, 0)] tst
    (nextOf (exec (.fcvt 2 1 .rne) s)).pat 2 = 0x3F80 ∧ (nextOf (exec (.fcvt 2 1 .rup) s)).pat 2 = 0x3F81 ∧
    (nextOf (exec (.fcvt 4 3 .rne) s)).pat 4 = 0x33800000 := by decide +kernel

/-- R55: 1.0625 into E4M3 under noise words 0x4000 and 0x8000. -/
theorem test_stochastic : (Fmt.e4m3).round .sr 0x4000 (Fmt.b32.value 0x3F880000) = 0x38 ∧
    (Fmt.e4m3).round .sr 0x8000 (Fmt.b32.value 0x3F880000) = 0x39 := by decide +kernel

/-- R71, R115: −2.5 toward minus infinity. -/
theorem test_fcvti : (nextOf (exec (.fcvti 2 1 .rdn) (names [(1, 32, .f32, .wrap, 0xC0200000), (2, 8, .signed, .wrap, 0)] tst))).val 2 =
    -3 := by decide +kernel

/-- R122: TRAP delivers its immediate. -/
theorem test_trap : let s := nextOf (exec (.trap 0x2ABCD) tst)
    s.thr.trapc = BitVec.ofNat 64 Cause.trapInstr.code ∧ s.thr.trapx = 0x2ABCD ∧ s.thr.trappc = 0x10000 := by decide +kernel

/-- R236, R237, R239: a halfword stored is read back with its sign. -/
theorem test_sth_ldh : let s := nextOf (exec (.sth 1 2 (-1) 0) (vals [(1, 0x18001), (2, 0x5000)] tst))
    (nextOf (exec (.ldh 3 2 (-1) 0) (names [(3, 32, .signed, .wrap, 0)] s))).val 3 = -32767 ∧
    (nextOf (exec (.ldhu 3 2 (-1) 0) s)).pat 3 = 0x8001 := by decide +kernel

/-- R186: a misaligned word. -/
theorem test_ldw_misaligned : let s := nextOf (exec (.ldw 3 2 0 0) (vals [(2, 0x5002)] tst))
    s.thr.trapc = BitVec.ofNat 64 Cause.align.code ∧ s.thr.trapa = 0x5002 := by decide +kernel

/-- R190, R239: a scratchpad word through the pointer of core 0. -/
theorem test_scratchpad : let s := nextOf (exec (.split 1) tst)
    let t := nextOf (exec (.std 1 2 0 0) (vals [(1, 0x1122334455667788), (2, 0x4000000000000010)] s))
    s.thr.flags.z = true ∧ (nextOf (exec (.ldbu 3 2 7 0) t)).pat 3 = 0x11 := by decide +kernel

/-- R247: AADD answers the prior word; ACAS that finds another word stores nothing. -/
theorem test_atomics : let s := nextOf (exec (.std 1 2 0 0) (vals [(1, 40), (2, 0x5000), (3, 2), (4, 9)] tst))
    let t := nextOf (exec (.aadd 5 2 3 .dev) s)
    t.pat 5 = 40 ∧ (nextOf (exec (.aswp 6 2 4 .core) t)).pat 6 = 42 ∧
    (nextOf (exec (.acas 4 2 3 .dev) t)).thr.flags.z = false ∧ (nextOf (exec (.acas 4 2 3 .dev) t)).pat 4 = 42 := by decide +kernel

/-- R246: LDE of a full word empties it; a second one parks. -/
theorem test_lde : let s := nextOf (exec (.lde 3 2 0) (vals [(2, 0x5000)] tst))
    s.pat 3 = 0 ∧ s.thr.wait = none ∧ (nextOf (exec (.lde 3 2 0) s)).thr.wait = some .fullEmpty := by decide +kernel

/-- "One rounding in VRADD": 2^24 + 1 − 2^24 + 1 is 2. -/
theorem test_vradd : let s := vecs [(3, 0x4B800000 + 0x3F800000 * 2 ^ 32 + 0xCB800000 * 2 ^ 64 + 0x3F800000 * 2 ^ 96, 0, .fp32)] tst
    ((nextOf (exec (.vradd 4 3) s)).thr.vreg 4).data = 0x40000000 := by decide +kernel

/-- R181: BF16 widens into two registers; SR is illegal there, and a group past v31 too. -/
theorem test_vcvt : let s := vecs [(4, 0x3F81 + 0x4000 * 2 ^ 256, 0, .bf16)] tst
    ((nextOf (exec (.vcvt 6 4 .fp32 .rne) s)).thr.vreg 6).data = 0x3F810000 ∧
    ((nextOf (exec (.vcvt 6 4 .fp32 .rne) s)).thr.vreg 7).data = 0x40000000 ∧
    (nextOf (exec (.vcvt 6 4 .fp32 .sr) s)).thr.trapc = BitVec.ofNat 64 Cause.illegalInstruction.code ∧
    (nextOf (exec (.vcvt 31 4 .fp32 .rne) s)).thr.trapc = BitVec.ofNat 64 Cause.illegalInstruction.code := by decide +kernel

/-- The DX8 block after R71: 3.0, −0.25, 0.046875 and 0.3 with the pair 0x7B75. -/
theorem test_vdxq : let s := vecs [(4, 0x40400000 + 0xBE800000 * 2 ^ 32 + 0x3D400000 * 2 ^ 64 + 0x3E99999A * 2 ^ 96, 0, .fp32),
      (5, 0, 0, .fp32), (6, 0, 0, .fp32), (7, 0, 0, .fp32)] tst
    let t := nextOf (exec (.vdxq 8 4 .dx8 .rne) s)
    (t.thr.vreg 8).data = 0x8530FCB0 ∧ (t.thr.vreg 8).side.toNat % 2 ^ 16 = 0x7B75 := by decide +kernel

/-- R171: I8 lanes wrap within their lanes. -/
theorem test_vadd : let s := vecs [(1, 0x01FF, 0, .i8), (2, 0x0101, 0, .i8)] tst
    ((nextOf (exec (.vadd 3 (.reg 1) (.reg 2)) s)).thr.vreg 3).data = 0x0200 := by decide +kernel

/-- R69: FP32 where integers are asked for. -/
theorem test_vshl_tag : let s := nextOf (exec (.vshl 3 (.reg 1) (.reg 2)) (vecs [(1, 0, 0, .fp32)] tst))
    s.thr.trapc = BitVec.ofNat 64 Cause.tagMismatch.code ∧ s.thr.trapx = 4 := by decide +kernel

/-- R12: ERET at user privilege. -/
theorem test_eret_user : (nextOf (exec .eret (tst.modThr (fun t => { t with privl := ⟨false, false, false, false⟩ })))).thr.trapc =
    BitVec.ofNat 64 Cause.privilege.code := by decide +kernel

/-- R25, R28: BRK and ERET: back at the BRK, or past it with SKIP. -/
theorem test_brk_eret : let s := nextOf (exec .brk (tst.modThr (fun t => { t with ir := ⟨0x0800001B, 4, .absent⟩ })))
    s.thr.pc = 0x20000 ∧ (nextOf (exec .eret s)).thr.pc = 0x10000 ∧
    (nextOf (exec .eret (s.modThr (fun t => { t with privl := { t.privl with skip := true } })))).thr.pc = 0x10004 := by
  decide +kernel

/-- A step from reset with a placed word: ADDI n1, zero, 5 (R108). -/
theorem test_step_addi : (nextOf (step (State.reset.withFetchWord 32 0x0147E085))).pat 1 = 5 ∧
    (nextOf (step (State.reset.withFetchWord 32 0x0147E085))).thr.pc = 0x10004 := by decide +kernel

/-- R22: a REP of ADD n1, n2, n3 with d and a stepping: two iterations. -/
theorem test_step_rep : let s := vals [(2, 10), (3, 20), (4, 1)] tst
    let t := nextOf (exec (.rep 1 1 1 0) (s.modThr (fun t => { t with ir := ⟨0x0A0A, 2, .ok (.add 1 2 4) 0x00204083 4⟩ })))
    (t.pat 61 = 2 ∧ t.thr.pc = 0x10000) := by decide +kernel

/-- R79: the words of YIELD and of an odd short word. -/
theorem test_table_word : (decodeTableWord 16 0x000E).isSome = true ∧ (decodeTableWord 16 0x000E) = some .yield16 ∧
    decodeTableWord 16 0x0000 = none := by decide +kernel

/-! ## Witnesses: states and operands that meet the hypotheses of the obligations, clause by clause -/

/-- Three 8-bit names: n1 = 100, n2 = 100, n3 signed, trap. -/
def narrowState : State := names [(1, 8, .signed, .wrap, 100), (2, 8, .signed, .wrap, 100), (3, 8, .signed, .trap, 5),
  (4, 8, .signed, .wrap, 0)] tst

theorem witness_IntegerResults : ∃ w v, intRow (.add 4 1 2) = some w ∧ intRow (.add 3 1 2) = some v ∧
    okNow narrowState w.use = true ∧ (narrowState.thr.narrow w.d (w.value narrowState)).isSome = true ∧
    okNow narrowState v.use = true ∧ narrowState.thr.narrow v.d (v.value narrowState) = none :=
  ⟨_, _, rfl, rfl, by decide +kernel⟩

theorem witness_DivisionResults : ∃ f, divRow (.div 3 1 2) = some (3, 1, 2, f) ∧
    okNow narrowState (use3 3 1 2) = true ∧ narrowState.upat 2 ≠ 0 ∧ (narrowState.thr.narrow 3 (f narrowState)).isSome = true ∧
    (let s := names [(1, 8, .signed, .wrap, -128), (2, 8, .signed, .wrap, -1)] narrowState
     okNow s (use3 3 1 2) = true ∧ s.upat 2 ≠ 0 ∧ s.thr.narrow 3 (f s) = none) ∧
    okNow narrowState (use3 3 1 4) = true ∧ narrowState.upat 4 = 0 :=
  ⟨_, rfl, by decide +kernel⟩

/-- Float names: n1, n2 and n3 binary32, n4 bfloat16; n5 an 8-bit integer, in trap mode n6. -/
def floatState : State := names [(1, 32, .f32, .wrap, 0x3FC00000), (2, 32, .f32, .wrap, 0x44000000), (3, 32, .f32, .wrap, 0),
  (4, 16, .bf16, .wrap, 0x4000), (5, 8, .signed, .wrap, 7), (6, 8, .signed, .trap, 0)] tst

theorem witness_FloatResult : (∃ f, floatRow (.fadd 3 1 2) = some ([1, 2], 3, f)) ∧
    okNow floatState { reads := floats [1, 2], writes := floats [3] } = true ∧
    (∃ f, fusedRow (.fma 3 1 2 5) = some (3, 1, 2, 5, f)) ∧
    okNow floatState { reads := floats [3, 1, 2], writes := floats [3] } = true :=
  ⟨⟨_, rfl⟩, by decide +kernel, ⟨_, rfl⟩, by decide +kernel⟩

/-- Clause by clause: FCVT, FCVTF, FCVTI that converts and FCVTI that overflows (512 into a trap name); SR where it would be
exact; and a noise word drawn. -/
theorem witness_ConversionResult : Drawn floatState .rne [] floatState ∧ (floatState.draws 1).1.toOption.isSome = true ∧
    okNow floatState { reads := floats [1], writes := floats [4] } = true ∧
    srRefused .rne ((floatState.fmtOf 1).within (floatState.fmtOf 4)) = none ∧
    srRefused .sr ((floatState.fmtOf 1).within (floatState.fmtOf 4)) = none ∧
    okNow floatState { reads := ints [5], writes := floats [4] } = true ∧
    srRefused .rne ((floatState.fmtOf 4).holdsInt (floatState.thr.name 5).kind (floatState.thr.name 5).width) = none ∧
    okNow floatState { reads := floats [1], writes := ints [5] } = true ∧
    (convertInt 5 (floatState.thr.name 5) (floatState.fval 1) .rne 0).toOption.isSome = true ∧
    okNow floatState { reads := floats [2], writes := ints [6] } = true ∧
    (convertInt 6 (floatState.thr.name 6) (floatState.fval 2) .rne 0).toOption = none ∧
    floatState.useFail { reads := floats [4], writes := floats [1] } = none ∧
    (floatState.fmtOf 4).within (floatState.fmtOf 1) = true ∧ floatState.useFail { reads := ints [5], writes := floats [1] } = none ∧
    (floatState.fmtOf 1).holdsInt (floatState.thr.name 5).kind (floatState.thr.name 5).width = true :=
  ⟨.inr ⟨by decide, rfl, rfl⟩, by decide +kernel⟩

theorem witness_MovesAndFields : moveRow (.mov 3 1) = some (3, 1) ∧ okNow floatState (floatState.movUse 3 1) = true ∧
    (floatState.thr.name 1).kind.isFloat = true ∧ moveRow (.mov16 4 1) = some (n16 4, n16 1) ∧
    okNow narrowState (narrowState.movUse 4 1) = true ∧ (narrowState.thr.name 1).kind.isFloat = false ∧
    (narrowState.thr.narrow 4 (narrowState.val 1)).isSome = true ∧
    (let s := names [(1, 9, .unsigned, .wrap, 200)] narrowState
     okNow s (s.movUse 3 1) = true ∧ (s.thr.name 1).kind.isFloat = false ∧ s.thr.narrow 3 (s.val 1) = none) ∧
    okNow tst { reads := ints [1, 2, 3], writes := ints [1] } = true :=
  ⟨rfl, by decide +kernel, by decide +kernel, rfl, by decide +kernel⟩

/-- n1 overflows 8 bits in trap mode; n2 is bound to a link, n3 to a flume; n4 is a float name, n5 undeclared. -/
def faultNames : State :=
  (names [(1, 16, .signed, .trap, 300), (4, 32, .f32, .wrap, 0), (5, 0, .signed, .wrap, 0)] tst).modThr
    (fun t => (t.setName 2 { t.name 2 with bind := .link 1 }).setName 3 { t.name 3 with bind := .flume 0x6000 none })

/-- What MODE and RESIZE refuse, n63 too. -/
theorem witness_NameFaults : let s := faultNames
    [(1 : Name), 2, 3, 63].all (fun d => okNow s { decls := ints [d] }) = true ∧ (s.thr.name 1).bind = .none ∧
    narrow .signed 8 .trap 300 = none ∧ (s.thr.name 1).kind = .signed ∧ (s.thr.name 1).mode = .trap ∧
    patVal .signed (s.thr.name 1).width (s.thr.name 1).pat.toNat = 300 ∧ (s.thr.name 2).bind = .link 1 ∧
    (s.thr.name 3).bind = .flume 0x6000 none ∧ (s.thr.name 4).kind.isFloat = true ∧ (s.thr.name 5).width = 0 ∧
    s.quieted.isSome = true := by decide +kernel

theorem witness_NameControls : okNow tst { decls := ints [1] } = true ∧ (tst.thr.name 1).bind = .none ∧
    okNow tst { writes := ints [1], flags := .all } = true ∧ (tst.thr.narrow 1 tst.thr.flags.word).isSome = true ∧
    (let s := names [(1, 2, .unsigned, .trap, 0)] (tst.modThr (fun t => { t with flags := ⟨false, false, true, false, false⟩ }))
     okNow s { writes := ints [1], flags := .all } = true ∧ s.thr.narrow 1 s.thr.flags.word = none) ∧
    okNow tst { reads := ints [1] } = true ∧ okNow tst {} = true ∧ (∃ s1, tst.quieted = some s1 ∧
      okNow s1 { decls := ints [1] } = true ∧ (s1.thr.name 1).bind = .none ∧ (s1.core s1.cur.1).repackq = [] ∧ s1.thr.rep = none ∧
      (narrow (s1.thr.name 1).kind 8 (s1.thr.name 1).mode
        (patVal (s1.thr.name 1).kind (s1.thr.name 1).width (s1.thr.name 1).pat.toNat)).isSome = true) :=
  ⟨by decide +kernel, by decide +kernel, by decide +kernel, by decide +kernel, by decide +kernel, by decide +kernel,
    by decide +kernel, _, rfl, by decide +kernel⟩

theorem witness_BranchesAndJumps : (∃ c, branchRow (.beq 1 2 (-6)) = some ({ reads := ints [1, 2] }, -6, c)) ∧
    okNow tst { reads := ints [1, 2] } = true ∧ okNow tst {} = true ∧ okNow tst { writes := [(62, .u64)] } = true ∧
    okNow tst { reads := ints [1] } = true ∧ okNow tst { reads := ints [1], writes := [(62, .u64)] } = true ∧
    lowBits 64 (tst.val 1 + 2) % 2 = 0 ∧ lowBits 64 (tst.val 1 + 3) % 2 = 1 :=
  ⟨⟨_, rfl⟩, by decide +kernel⟩

/-- A trap outside a handler can write its record (TrapEntry). -/
def entryWrites (s : State) (x : Trap) : Bool :=
  let v := s.vectorDone s.cur.1 s.cur.2
  (v.writeTrapRecord s.cur.1 s.cur.2 v.thr (v.thr.held x)).isSome

/-- Outside an expansion, and at step 3 of one; in a thread that a launch started; and in a handler. -/
theorem witness_TrapEntries : tst.thr.inflight = [] ∧ tst.thr.privl.tact = false ∧ tst.thr.launch = none ∧ tst.thr.exp = none ∧
    entryWrites tst (mkTrap .breakpoint 0 0 0) = true ∧
    (let s := tst.modThr (fun t => { t with exp := some ⟨3, Pending.none, []⟩ })
     s.thr.exp.map (fun e => e.step) = some 3 ∧ entryWrites s (mkTrap .breakpoint 0 0 0) = true) ∧
    (let s := tst.modThr (fun t => { t with launch := some (5, 0) })
     (mkTrap .breakpoint 0 0 0).cause ≠ .codeIntegrity ∧ entryWrites s (mkTrap .breakpoint 0 0 0) = true) ∧
    (let s := tst.modThr (fun t => { t with privl := ⟨true, true, false, false⟩ })
     s.thr.inflight = [] ∧ s.thr.privl.tact = true ∧ s.thr.launch = none) := by decide +kernel

/-- The state inside the handler of a BRK, and the same with SKIP set; the record holds ILEN 2, a 32-bit word (R27). -/
def trapped : State := nextOf (exec .brk (tst.modThr (fun t => { t with ir := ⟨0x0800001B, 4, .absent⟩ })))

def trappedSkip : State := trapped.modThr (fun t => { t with privl := { t.privl with skip := true } })

/-- The record of a state, read as ERET reads it. -/
def recordOf (s : State) : Option (List Byte × State) :=
  match s.access s.thr s.cur.1 .read (s.thr.traprec.toNat / 64 * 64) 64 64 with
  | (.ok ps, s2) =>
    match s2.loadBytes ps with
    | (.ok bs, s3) => some (bs, s3)
    | _ => none
  | _ => none

theorem witness_TrapReturn : okNow trapped { sys := true } = true ∧
    ((recordOf trapped).map (fun p => p.2.thr.privl.skip)) = some false ∧ okNow trappedSkip { sys := true } = true ∧
    ((recordOf trappedSkip).map (fun p => (p.2.thr.privl.skip, bits (leNat (p.1.take 8)) 16 3))) = some (true, 2) := by
  decide +kernel

theorem witness_PrivilegeRefused : (tst.modThr (fun t => { t with privl := ⟨false, false, false, false⟩ })).thr.privl.priv = false ∧
    readOnlyCsr .trapv = false ∧ Csr.trapv ∉ [Csr.tbase, .temps, .volts, .procm] := by decide +kernel

theorem witness_ControlRegisterWrite : readOnlyCsr .ctxid = true ∧ readOnlyCsr .trapv = false ∧ tst.splitFits 0 1 9 = true ∧
    ({ tst with ctxs := tst.ctxs.map (fun x => { x with secsize := 64 }) } : State).splitFits 0 1 1 = false ∧
    okNow tst { sys := true, reads := ints [1] } = true := by decide +kernel

theorem witness_RegisterFrames : ∃ w, intRow (.add 3 1 2) = some w ∧ okNow tst w.use = true ∧
    (tst.thr.narrow w.d (w.value tst)).isSome = true ∧ (∃ f, floatRow (.fsub 3 1 2) = some ([1, 2], 3, f)) ∧
    okNow floatState { reads := floats [1, 2], writes := floats [3] } = true ∧ (∀ n ∈ [(1 : Name), 2], (tst.thr.name n).bind = .none) ∧
    (tst.thr.name 3).bind = .none :=
  ⟨_, rfl, by decide +kernel, by decide +kernel, ⟨_, rfl⟩, by decide +kernel, by decide +kernel, by decide +kernel⟩

/-- Both ends of an 8-bit signed range, and one past each. -/
theorem witness_NarrowingRule : rangeLo .signed 8 ≤ 127 ∧ (127 : Int) ≤ rangeHi .signed 8 ∧ rangeLo .signed 8 ≤ -128 ∧
    rangeHi .signed 8 < 128 ∧ -129 < rangeLo .signed 8 ∧ narrow .signed 8 .trap 128 = none ∧
    (narrow .signed 8 .sat (-129)).isSome = true := by decide +kernel

/-! ### Memory -/

/-- The pieces of an access, and the state after it. -/
def pieces (s : State) (k : AccKind) (p n al : Nat) : List Piece × State :=
  match s.access s.thr s.cur.1 k p n al with
  | (.ok ps, s1) => (ps, s1)
  | (.error _, s1) => ([], s1)

/-- The access passes every check (Hit), and no word that it touches is poisoned. -/
def hits (s : State) (k : AccKind) (p n al : Nat) : Bool :=
  match s.access s.thr s.cur.1 k p n al with
  | (.ok ps, s1) => (s1.piecesPoison s1.cur.1 ps).isNone
  | (.error _, _) => false

/-- The same of an access in parts (HitAll, Got). -/
def hitsAll (s : State) (k : AccKind) (parts : List (Nat × Nat × Nat)) : Bool :=
  match s.accessAll k parts with
  | (.ok ps, s1) => (s1.piecesPoison s1.cur.1 ps).isNone
  | (.error _, _) => false

/-- The bytes that a read of a word gets, and the state after it (Got). -/
def bytesOf (s : State) (p n : Nat) : List Byte × State :=
  (pieces s .read p n n).2.loadPieces s.cur.1 (pieces s .read p n n).1

/-- n1 holds 0x18001, n2 points at 0x5000, n3 is a 32-bit signed name, n4 a binary32 name, n5 an 8-bit name in trap mode. -/
def memState : State := names [(3, 32, .signed, .wrap, 0), (4, 32, .f32, .wrap, 0), (5, 8, .signed, .trap, 0)]
  (nextOf (exec (.std 1 2 0 0) (vals [(1, 0x18001), (2, 0x5000)] tst)))

theorem witness_LoadsAndStores : (∃ w, loadRow (.ldw 3 2 0 1) = some w) ∧
    okNow memState { reads := ints [2], writes := [(3, .intOr [.f32])] } = true ∧
    hits memState .read 0x5000 4 4 = true ∧ ((bytesOf memState 0x5000 4).2.thr.name 3).kind.isFloat = false ∧
    ((bytesOf memState 0x5000 4).2.thr.narrow 3 (leNat (bytesOf memState 0x5000 4).1)).isSome = true ∧
    okNow memState { reads := ints [2], writes := [(4, .intOr [.f32])] } = true ∧
    ((bytesOf memState 0x5000 4).2.thr.name 4).kind.isFloat = true ∧
    okNow memState { reads := ints [2], writes := [(5, .intOr [.f32])] } = true ∧
    (bytesOf memState 0x5000 4).2.thr.narrow 5 (patVal .signed 32 (leNat (bytesOf memState 0x5000 4).1)) = none ∧
    (storeRow (.sth 1 2 (-1) 0)).isSome = true ∧
    okNow memState { reads := [(1, .intOr [.f16, .bf16]), (2, .int)] } = true ∧
    hits memState .write 0x4FFE 2 2 = true :=
  ⟨⟨_, rfl⟩, by decide +kernel⟩

/-- The last bytes of one unit of scratchpad, through a pointer of core 0. -/
def padState : State := vals [(1, 7), (2, 0x4000000000003FF8)] (nextOf (exec (.split 1) tst))

theorem witness_ScratchStoreFrame : storeRow (.std 1 2 0 0) = some (1, 2, 0, 0, 8, [.f64]) ∧
    okNow padState { reads := [(1, .intOr [.f64]), (2, .int)] } = true ∧
    (let p := lowBits 64 (padState.val 2 + 0 * 8)
     ptrTag p = 2 ∧ ptrCore p = padState.cur.1 ∧ ptrMbz p = false ∧ p % 8 = 0 ∧
     ptrOff p + 8 ≤ 16384 * (padState.core padState.cur.1).sps) ∧
    (padState.core padState.cur.1).own = padState.thr.ctx ∧ padState.thr.dbgctl.den = false ∧ padState.thr.rep = none ∧
    padState.mem.wf = true :=
  ⟨rfl, by decide +kernel⟩

/-- A line in the L1 of core 0; the last two bytes of it. -/
theorem witness_GlobalStoreFrames : let s := tst.store 0 0 1 0x5000 [1]
    0x503E % 64 + [(1 : Byte), 2].length ≤ 64 ∧ 0x503E / 64 ∉ s.mem.marks ∧ s.mem.partials = [] ∧ s.mem.rfPartials = [] ∧
    (s.mem.line 0 (0x503E / 64)).isSome = true ∧ s.dev.paKind 0x503E = .hbm ∧ s.mem.wf = true ∧
    s.mem.l2Copies (s.dev.dieOf 0) < 98304 ∧
    (let u := s.store 0 1 1 0x503E [1, 2]
     (u.mem.sector 0 (blockOf 0x503E)).any (fun x => x.rowCopy && x.dirty.contains 0x503E) = true) := by decide +kernel

/-- Tag 4; a bit of [60:57]; a pointer of core 5 (R186); the quad form of quad 1; an odd global address. -/
theorem witness_PointerTraps : 4 ≤ ptrTag 0x8000000000000000 ∧ (ptrTag 0x0200000000000000 < 4 ∧ ptrMbz 0x0200000000000000 = true) ∧
    (ptrTag 0x4000140000000010 = 2 ∧ ptrMbz 0x4000140000000010 = false ∧ bits 0x4000140000000010 42 18 ≠ tst.cur.1) ∧
    (ptrTag 0x6000100000010010 = 3 ∧ ptrMbz 0x6000100000010010 = false ∧ bits 0x6000100000010010 44 16 ≠ tst.cur.1 / 4) ∧
    (ptrTag 0x5001 = 0 ∧ ptrMbz 0x5001 = false ∧ 0x5001 % 4 ≠ 0) ∧
    okNow memState { reads := ints [2], writes := [(3, .intOr [.f32])] } = true ∧
    (memState.access memState.thr memState.cur.1 .read 0x5001 4 4).1.toOption.isSome = false ∧
    okNow memState { reads := [(1, .intOr [.f32]), (2, .int)] } = true ∧
    (memState.access memState.thr memState.cur.1 .write 0x5001 4 4).1.toOption.isSome = false := by decide +kernel

theorem witness_VectorMemory : (vloadRow (.vld 1 2 .dx8 3)).isSome = true ∧
    okNow memState { reads := ints [2], vwrites := [1] } = true ∧ hitsAll memState .read (imageParts .dx8 (memState.ptrOf 2 0)) = true ∧
    (vloadRow (.vldx 1 2 .mxfp6b 0)).isSome = true ∧ okNow memState { reads := ints (fmtNames 2 .mxfp6b), vwrites := [1] } = true ∧
    hitsAll memState .read (memState.fmtParts 2 .mxfp6b) = true ∧ (vloadRow (.vldb 1 2 .i16 0)).isSome = true ∧
    hitsAll memState .read [(memState.ptrOf 2 0, 2, 2)] = true ∧
    okNow memState { reads := ints [2], vreads := [1] } = true ∧ (memState.thr.vreg 1).tag = .raw ∧
    hitsAll memState .write (imageParts .raw (memState.ptrOf 2 0)) = true ∧ fmtIllegal 2 (.tag .raw) = false ∧
    (memState.thr.vreg 1).tag = fmtTag (.tag .raw) ∧ okNow memState { reads := ints (fmtNames 2 (.tag .raw)), vreads := [1] } = true ∧
    hitsAll memState .write (memState.fmtParts 2 (.tag .raw)) = true ∧ (memState.thr.vreg 1).tag ≠ .fp32 := by decide +kernel

theorem witness_GatherScatter : let s := vecs [(1, 5, 0, .i16), (2, 0x00030002, 0, .i16)] memState
    (s.thr.vreg (indexReg 1)).tag = intTag (tagWidth .i16) ∧
    okNow s { reads := ints [2], vreads := [indexReg 1], vwrites := [1] } = true ∧
    (s.accessLanes .read (s.laneParts 1 2 .i16)).1.toOption.isSome = true ∧
    okNow s { reads := ints [2], vreads := [1, indexReg 1] } = true ∧ (s.thr.vreg 1).tag = .i16 ∧
    (s.accessLanes .write (s.laneParts 1 2 .i16)).1.toOption.isSome = true := by decide +kernel

/-- From 0x5000 to 0x6020: no byte, a first step of 100 bytes, the only step of 20; and a step that window tag 7 fails. -/
theorem witness_BlockStep :
    let s := names [(4, 64, .signed, .wrap, 100), (5, 64, .signed, .wrap, 20)]
      (vals [(1, 0x6020), (2, 0x5000), (3, 0), (6, 0xE000000000000000)] tst)
    let u (b : Name) : Use := { reads := [(1, .u64), (2, .u64), (b, .int)], writes := [(1, .any)] ++ [(2, .any)] ++ [(b, .any)] }
    blockNames true 1 2 3 = none ∧ okNow s (u 3) = true ∧ s.val 3 ≤ 0 ∧ blockNames true 1 2 4 = none ∧ okNow s (u 4) = true ∧
    0 < s.val 4 ∧ stepLen (s.upat 1) (s.val 4) < s.val 4 ∧
    (s.blockStep true (s.upat 1) (s.upat 2) (stepLen (s.upat 1) (s.val 4)) (BitVec.ofNat 8 (s.upat 2))).toOption.isSome = true ∧
    blockNames true 1 2 5 = none ∧ okNow s (u 5) = true ∧ 0 < s.val 5 ∧ s.val 5 ≤ stepLen (s.upat 1) (s.val 5) ∧
    (s.blockStep true (s.upat 1) (s.upat 2) (stepLen (s.upat 1) (s.val 5)) (BitVec.ofNat 8 (s.upat 2))).toOption.isSome = true ∧
    blockNames false 6 2 5 = none ∧ okNow s { reads := [(6, .u64), (2, .int), (5, .int)], writes := [(6, .any)] ++ [] ++ [(5, .any)] } = true ∧
    (match s.blockStep false (s.upat 6) (s.upat 2) (stepLen (s.upat 6) (s.val 5)) (BitVec.ofNat 8 (s.upat 2)) with
      | .error x => decide (x.cause ≠ .uncorrectable)
      | .ok _ => false) = true := by
  decide +kernel

/-- The REP of the worked encodings, 4 times ADD n10, n20, n7. -/
def repState : State := tst.modThr (fun t => { t with ir := ⟨0x0A1A, 2, .ok (.add 10 20 7) 0x003A8503 4⟩ })

theorem witness_Repeats : repState.thr.ir.inner = .ok (.add 10 20 7) 0x003A8503 4 ∧ repeatable (.add 10 20 7) = true ∧
    (∃ fs, repFields (.add 10 20 7) 0x003A8503 4 1 1 0 = some fs ∧ firstBad fs 4 0 = none) ∧
    14 ≤ (repState.thr.name 61).width ∧ (repState.thr.name 61).kind.isFloat = false ∧
    bits (repState.thr.name 61).pat.toNat 0 7 = 0 ∧ repState.lookFail { reads := [(61, .int)], writes := [(61, .int)] } = none ∧
    (let t := (nextOf (exec (.rep 3 1 1 0) repState)).thr
     t.rep.isSome = true ∧ 2 ≤ bits (t.name 61).pat.toNat 0 7 ∧ bits ((t.setPat 61 1).name 61).pat.toNat 0 7 = 1) :=
  ⟨rfl, by decide +kernel, ⟨_, rfl, by decide +kernel⟩, by decide +kernel, by decide +kernel, by decide +kernel, by decide +kernel,
    by decide +kernel⟩

/-- The same REP resumed with index 1 and 3 left, which fits its count of 4, and with 2 left, which does not. -/
theorem witness_RepeatResumed : (let s := vals [(61, 3 + 128)] repState
     s.lookFail { reads := [(61, .int)], writes := [(61, .int)] } = none ∧ 14 ≤ (s.thr.name 61).width ∧
     (s.thr.name 61).kind.isFloat = false ∧ bits (s.thr.name 61).pat.toNat 0 7 ≠ 0 ∧
     bits (s.thr.name 61).pat.toNat 0 7 + bits (s.thr.name 61).pat.toNat 7 7 = (3 : Fin 64).val + 1 ∧
     ∃ fs, repFields (.add 10 20 7) 0x003A8503 4 1 1 0 = some fs ∧ firstBad fs 3 1 = none) ∧
    (let s := vals [(61, 2 + 128)] repState
     bits (s.thr.name 61).pat.toNat 0 7 ≠ 0 ∧
     bits (s.thr.name 61).pat.toNat 0 7 + bits (s.thr.name 61).pat.toNat 7 7 ≠ (3 : Fin 64).val + 1) :=
  ⟨⟨by decide +kernel, by decide +kernel, by decide +kernel, by decide +kernel, by decide +kernel, _, rfl, by decide +kernel⟩,
    by decide +kernel⟩

/-! ### Words shared between threads -/

/-- The word of an access and the state after it (WordHit). -/
def wordOf (s : State) (k : AccKind) (p : Nat) : Piece × State := ((pieces s k p 8 8).1.headD ⟨0, .global 0 0 0, 0⟩, (pieces s k p 8 8).2)

/-- n2 points at a full word, n1 holds 5; the word made empty. -/
def fullState : State := vals [(1, 5), (2, 0x5000), (3, 0)] tst

def emptyState : State := nextOf (exec (.fempty 2 0 0) fullState)

/-- A full/empty store leaves a state. -/
theorem filled_exists (s : State) (x : Piece) (v : Nat) : ∃ t, Filled s x v t := by
  obtain ⟨_, l, _⟩ := x
  cases l with
  | global pa pol ow => exact ⟨_, fun _ _ _ h => by cases h; rfl, fun _ _ h => by cases h⟩
  | sram c off => exact ⟨_, fun _ _ _ h => (by cases h), fun _ _ h => by cases h; rfl⟩

/-- An access to n2's word that passes, with the word of this device before and after it is prepared, and full as told. -/
def feNow (s : State) (k : AccKind) (full : Bool) : Bool :=
  let x := (wordOf s k 0x5000).1
  let s2 := (wordOf s k 0x5000).2
  hits s k 0x5000 8 8 && (s2.levelPoison (x.loc.level .quad) x).isNone && !s2.remotePiece x && !(s2.fePrepare x).remotePiece x && s2.isFull x.loc.word == full

theorem witness_FullEmpty : okNow fullState (feUse 3 2) = true ∧ okNow fullState (feStoreUse 1 2) = true ∧
    okNow emptyState (feUse 3 2) = true ∧ okNow emptyState (feStoreUse 1 2) = true ∧ okNow fullState (use2 3 2) = true ∧
    okNow fullState { reads := ints [2] } = true ∧ feNow fullState .read true = true ∧ feNow fullState .rmw true = true ∧
    feNow emptyState .read false = true ∧ feNow emptyState .rmw false = true ∧
    (let x := (wordOf fullState .rmw 0x5000).1; let s2 := (wordOf fullState .rmw 0x5000).2
     let s3 := (s2.fePrepare x).atomicAt s2.cur.1 .quad x (fun _ => none)
     (s3.2.thr.narrow 3 (s3.2.thr.loadVal 3 s3.1)).isSome = true ∧ (s3.2.thr.name 3).kind.isFloat = false ∧
     (let s4 := s3.2.changeFull x.loc.word false
      (s4.thr.narrow 3 (s4.thr.loadVal 3 s3.1)).isSome = true ∧ (s4.thr.name 3).kind.isFloat = false)) ∧
    (let x := (wordOf fullState .read 0x5000).1; let s4 := (wordOf fullState .read 0x5000).2.fePrepare x
     (s4.thr.narrow 3 (if s4.isFull x.loc.word then 1 else 0)).isSome = true) := by decide +kernel

/-- The prior word of 300 fits a 64-bit name and overflows an 8-bit name in trap mode. -/
def atomState : State := names [(5, 8, .signed, .trap, 0)]
  (nextOf (exec (.std 1 2 0 0) (vals [(1, 300), (2, 0x5000), (3, 0), (4, 7)] tst)))

theorem witness_AtomicResults : (atomicRow (.aadd 3 2 4 .die)).isSome = true ∧ okNow atomState (use3 3 2 4) = true ∧
    hits atomState .rmw 0x5000 8 8 = true ∧ okNow atomState (use3 5 2 4) = true ∧
    okNow atomState { reads := ints [1, 2, 4], writes := ints [1] } = true ∧
    (let x := (wordOf atomState .rmw 0x5000).1; let s2 := (wordOf atomState .rmw 0x5000).2
     s2.levelPoison (x.loc.level .die) x = none ∧ let r := s2.atomicAt s2.cur.1 .die x (fun w => some (w + 7))
     r.1 = 300 ∧ (r.2.thr.narrow 3 (r.2.thr.loadVal 3 r.1)).isSome = true ∧ r.2.thr.narrow 5 (r.2.thr.loadVal 5 r.1) = none) := by
  decide +kernel

theorem witness_AtomicIndivisible : 7 < 2 ^ 64 ∧ tst.mem.wf = true := by decide +kernel

theorem witness_ReductionResult : (reduceRow (.radd 2 1 .dev)).isSome = true ∧ okNow fullState { reads := ints [2, 1] } = true ∧
    hits fullState .rmw 0x5000 8 8 = true ∧ (wordOf fullState .rmw 0x5000).1.loc.keepsPartial .dev = true ∧
    (let x := (wordOf fullState .rmw 0x5000).1
     x.loc.keepsPartial .core = false ∧ (wordOf fullState .rmw 0x5000).2.levelPoison (x.loc.level .core) x = none) ∧
    (let s := names [(4, 32, .f32, .wrap, 0x3F800000)] fullState
     okNow s { reads := [(2, .int), (4, .floatIn [.f32, .f16, .bf16])] } = true ∧ 3 ≤ scopeRank .dev ∧ ptrTag (s.ptrOf 2 0) = 0 ∧
     hits s .rmw 0x5000 64 64 = true) ∧ scopeRank .die < 3 := by decide +kernel

/-- A word held by record 0. -/
def heldState : State := nextOf (exec (.lrw 3 2 .die) fullState)

/-- The thread as record 9 of the context. -/
def asOther (s : State) : State := s.modThr (fun t => { t with recIx := 9 })

/-- A word of the scratchpad that n2 points at, held by record 0 at quad scope. -/
def heldPad : State := nextOf (exec (.lrw 3 2 .quad) (vals [(1, 5), (2, 0x4000000000000010), (3, 0)] (nextOf (exec (.split 1) tst))))

/-- What an LRW through n2 finds: its operands ready, the word's home remote, room there, the thread its holder; and its holder. -/
def lrwNow (s : State) (sc : Scope) : List Bool × Option (Nat × Nat) :=
  let p := s.ptrOf 2 0
  let x := (wordOf s .rmw p).1
  let s2 := (wordOf s .rmw p).2
  let s0 := s2.resPrepare s2.cur.1 x
  let h := s0.resHome s0.cur.1 sc x
  ([okNow s (use2 3 2) && okNow s (use2 63 2) && hits s .rmw p 8 8 &&
      (s2.levelPoison (resLevel (s2.resHome s2.cur.1 sc x)) x).isNone, decide (h = .remote),
      decide (s0.admitted h < 2048) && !s0.resvs.any (fun e => decide (e.home = h) && !e.admitted),
      s0.holds h x.loc.word s0.thr.ctx s0.thr.recIx],
    (s0.holder h x.loc.word).map (fun e => (e.ctx, e.recIx)))

/-- Whether the word that an LRW through n2 reads fits n3, taken now, or held before. -/
def lrwFits (s : State) (sc : Scope) (held : Bool) : Bool :=
  let x := (wordOf s .rmw (s.ptrOf 2 0)).1
  let s2 := (wordOf s .rmw (s.ptrOf 2 0)).2
  let s0 := s2.resPrepare s2.cur.1 x
  let h := s0.resHome s0.cur.1 sc x
  let e : ResEntry := ⟨h, x.loc.word, s0.me, s0.thr.ctx, s0.thr.recIx, true, true, sc, 3, BitVec.ofNat 64 x.addr⟩
  let r := (if held then s0 else { s0 with resvs := s0.resvs ++ [e] } : State).resWord h x.loc.word
  let a := if held then r.2 else r.2.acquire r.2.cur.1 sc
  (a.thr.narrow 3 (a.thr.loadVal 3 r.1)).isSome

/-- What an SCH or LRX through n2 finds: its operands ready, and the word's holder. -/
def giveNow (s : State) (sc : Scope) : Bool × Option (Nat × Nat) :=
  let p := s.ptrOf 2 0
  let x := (wordOf s .rmw p).1
  let s2 := (wordOf s .rmw p).2
  let h := s2.resHome s2.cur.1 sc x
  (okNow s { reads := ints [2, 1] } && okNow s { reads := ints [2] } && hits s .rmw p 8 8 && (s2.levelPoison (resLevel h) x).isNone,
    (s2.holder h x.loc.word).map (fun e => (e.ctx, e.recIx)))

/-- n2 points at a word of device 7, which port 3 reaches: a page of aperture 0 in the loader's tables. -/
def farState : State := vals [(1, 5), (2, 0x80000000), (3, 0)]
  ((((tst.setReg 0x10 5).setReg 0x200 15).setReg 0x200E 3).levelWrite .home 0 1 (bytesAt 0x10002010 (leBytes 8 0x20000000009F)))

/-- The same, with record 9 of the context waiting for it. -/
def farQueue : State := { farState with
  resvs := [⟨.remote, (wordOf farState .rmw 0x80000000).1.loc.word, .slot 0 3, 1, 9, false, true, .dev, 3, 0x80000000⟩] }

/-- A free word taken; one held already; one that another thread holds; a home whose room is used up; a word of another device, and
one for which a thread waits, where n63 as the destination holds whatever the word is. -/
theorem witness_ReservationTake : lrwFits fullState .die false = true ∧ lrwFits heldState .die true = true ∧
    (∀ (t : State) (v : Int), (t.thr.narrow 63 v).isSome = true) ∧
    lrwNow fullState .die = ([true, false, true, false], none) ∧
    lrwNow heldState .die = ([true, false, true, true], some (1, 0)) ∧
    lrwNow (asOther heldState) .die = ([true, false, true, false], some (1, 0)) ∧
    (let s : State := { fullState with resvs := heldState.resvs.map (fun e => { e with loc := .global 0x6000, admitted := false }) }
     lrwNow s .die = ([true, false, false, false], none)) ∧
    lrwNow farState .dev = ([true, true, true, false], none) ∧ lrwNow farQueue .dev = ([true, true, true, false], none) :=
  ⟨by decide +kernel, by decide +kernel, fun _ _ => narrow_wrap _ _ _, by decide +kernel⟩

/-- A word that nobody holds; one that another thread holds; the holder of a global word and of a scratchpad word. -/
theorem witness_ReservationGive : giveNow fullState .die = (true, none) ∧ giveNow (asOther heldState) .die = (true, some (1, 0)) ∧
    ((asOther heldState).thr.ctx, (asOther heldState).thr.recIx) = (1, 9) ∧ giveNow heldState .die = (true, some (1, 0)) ∧
    (wordOf heldState .rmw 0x5000).1.loc = .global 0x5000 0 1 ∧ giveNow heldPad .quad = (true, some (1, 0)) ∧
    (wordOf heldPad .rmw 0x4000000000000010).1.loc = .sram 0 0x10 ∧ (heldState.thr.ctx, heldState.thr.recIx) = (1, 0) := by
  decide +kernel

/-! ### The vector unit -/

/-- A vector instruction may issue (VReady). -/
def vecNow (s : State) (u : Use) (pre : State → Option Trap) : Bool :=
  okNow s u && (pre s).isNone && decide ((s.core s.cur.1).vq.length < 4)

/-- v1 and v2 I8, v3 and v4 FP32, v5 and v6 RAW; n1 = 5. -/
def vecState : State := vecs [(1, 0x0102, 0, .i8), (2, 0x7F80, 0, .i8), (3, 0x3F800000, 0, .fp32), (4, 0x40000000, 0, .fp32),
  (8, 0, 0, .fp32), (9, 0, 0, .fp32), (10, 0, 0, .fp32)] (vals [(1, 5), (2, 3)] tst)

theorem witness_LaneOperations : (laneRow (.vadd 7 (.reg 1) (.bcast 1))).isSome = true ∧ (laneRow (.vadd16 1 2)).isSome = true ∧
    vecNow vecState (vuse2 7 (.reg 1) (.bcast 1)) (fun s => s.laneType (typeRegs (.reg 1) (.bcast 1)) arithTags) = true ∧
    (vshiftRow (.vsra 7 (.reg 1) (.bcast 1))).isSome = true ∧
    vecNow vecState (vuse2 7 (.reg 1) (.bcast 1)) (fun s => s.laneType (typeRegs (.reg 1) (.bcast 1)) intTags) = true ∧
    (vcmpRow (.vclt 7 (.reg 3) (.reg 4))).isSome = true ∧
    vecNow vecState (vuse2 7 (.reg 3) (.reg 4)) (fun s => s.laneType (typeRegs (.reg 3) (.reg 4)) arithTags) = true ∧
    (vunaryRow (.vneg 7 3)).isSome = true ∧
    vecNow vecState { vreads := [3], vwrites := [7] } (fun s => s.laneType [3] arithTags) = true := by decide +kernel

theorem witness_VectorMoves :
    vecNow vecState { vuse2 1 (.reg 1) (.reg 2) with vreads := opRegs (.reg 1) ++ opRegs (.reg 2) ++ [1] }
      (fun s => s.laneType (typeRegs (.reg 1) (.reg 2)) laneTags) = true ∧
    vecNow vecState { vreads := [5], vwrites := [6] } (fun _ => none) = true ∧
    vecNow vecState { reads := ints [lowName 1], vwrites := [6] } (fun _ => none) = true ∧
    vecNow vecState { reads := ints [1, 2], vreads := [1], vwrites := [1] } (fun s => s.tagIn 1 laneTags) = true ∧
    vecNow vecState { reads := ints (opNames (.reg 2)), vreads := 1 :: opRegs (.reg 2), vwrites := [7] } (fun s => s.permFail 1 (.reg 2)) =
      true ∧
    (vreduceRow (.vradd 7 3)).isSome = true ∧
    vecNow vecState { vreads := [3], vwrites := [7] } (fun s => s.laneType [3] arithTags) = true ∧ (tagFmt .fp32).isSome = true ∧
    vecNow vecState { vreads := [1], vwrites := [7] } (fun s => s.laneType [1] arithTags) = true ∧ tagFmt .i8 = none ∧
    vecNow vecState { reads := ints [1], vreads := [5], vwrites := [5] } (fun _ => none) = true := by decide +kernel

theorem witness_VectorToName :
    vecNow vecState { reads := ints [2], writes := ints [1], vreads := [1] } (fun s => s.tagIn 1 laneTags) = true ∧
    (vecState.thr.narrow 1 (laneInt 8 0x02)).isSome = true ∧
    vecNow vecState { writes := ints [1], vreads := [1] } (fun _ => none) = true ∧
    (vecState.thr.narrow 1 (vecState.thr.vreg 1).tag.code).isSome = true ∧
    (vecState.thr.narrow 1 ((vecState.thr.vreg 1).side.toNat : Nat)).isSome = true ∧
    (let s := names [(6, 2, .unsigned, .trap, 0)] vecState
     okNow s { writes := ints [6], vreads := [3] } = true ∧ (s.core s.cur.1).vq.length < 4 ∧
     s.thr.narrow 6 ((s.thr.vreg 3).tag.code : Nat) = none) := by decide +kernel

theorem witness_VectorRounding : (vlongRow (.vfma 7 (.reg 3) (.bcast 1) 4)).isSome = true ∧
    (let u (l : List VReg) (w : VReg) : Use := { vreads := l, vwrites := [w] }
     vecNow vecState (u (opRegs (.reg 3) ++ opRegs (.reg 4) ++ []) 7) (fun s => s.laneType [3, 4] floatTags) = true ∧
     vecNow vecState (u [3] 7) (fun s => s.laneType [3] floatTags) = true) ∧
    (let p := groupSize (vecState.tagOf 3) .bf16
     let u : Use := { vreads := vregRun 3 (p / tagCount (vecState.tagOf 3)), vwrites := vregRun 12 (p / tagCount .bf16) }
     okNow vecState u = true ∧ (vecState.core vecState.cur.1).vq.length < 4 ∧ (vecState.draws p).1.toOption.isSome = true ∧
     vecState.groupFail 12 3 .bf16 .sr vcvtSources (tagExact (vecState.tagOf 3) .bf16) = none) ∧
    (let p := groupSize (vecState.tagOf 8) .i16
     let u : Use := { vreads := vregRun 8 (p / tagCount (vecState.tagOf 8)), vwrites := vregRun 12 (p / tagCount .i16) }
     okNow vecState u = true ∧ vecState.groupFail 12 8 .i16 .rne vcvtSources (tagExact (vecState.tagOf 8) .i16) = none) ∧
    (let s := vecs [(11, 0, 0, .fp32)] vecState
     let p := groupSize (s.tagOf 8) .dx8
     let u : Use := { vreads := vregRun 8 (p / tagCount (s.tagOf 8)), vwrites := vregRun 12 (p / tagCount .dx8) }
     okNow s u = true ∧ s.groupFail 12 8 .dx8 .rne [.fp32, .bf16, .fp16] false = none) := by decide +kernel

/-- A core whose queue is full. -/
def queueState : State := vecState.setCore 0 { vecState.core 0 with vq := [.op 1, .op 2, .op 3, .op 4] }

/-- One row of each shape; no register at all; a first register of no accepted tag (RAW), a second of another tag (I8, FP32), the
full queue. -/
theorem witness_VectorChecks :
    [vtypeRow (.vadd 7 (.reg 1) (.reg 3)), vtypeRow (.vshl 7 (.reg 1) (.bcast 1)), vtypeRow (.vceq 7 (.reg 1) (.reg 3)),
      vtypeRow (.vneg 7 5), vtypeRow (.vfma 7 (.reg 3) (.reg 4) 0), vtypeRow (.vsqrt 7 3 0)].all Option.isSome = true ∧
    vtypeRow (.vadd 7 (.bcast 1) (.bcast 2)) = some (vuse2 7 (.bcast 1) (.bcast 2), [], arithTags) ∧
    vecState.useFail (vuse2 7 (.bcast 1) (.bcast 2)) = none ∧ vecState.useFail { vreads := [5], vwrites := [7] } = none ∧
    (vecState.thr.vreg 5).tag ∉ arithTags ∧ vecState.useFail (vuse2 7 (.reg 1) (.reg 3)) = none ∧ (vecState.thr.vreg 1).tag ∈ arithTags ∧
    [3].find? (fun w => decide ((vecState.thr.vreg w).tag ≠ (vecState.thr.vreg 1).tag)) = some 3 ∧
    okNow queueState (vuse2 7 (.reg 1) (.reg 2)) = true ∧ (queueState.thr.vreg 1).tag ∈ arithTags ∧
    (∀ w ∈ [(2 : VReg)], (queueState.thr.vreg w).tag = (queueState.thr.vreg 1).tag) ∧ 4 ≤ (queueState.core queueState.cur.1).vq.length := by
  decide +kernel

/-- The group conversions: RAW as a source; past the last register, and a mode SR that would be exact; a second register of another
tag (v4 FP32, v5 RAW into DX8); the full queue. -/
theorem witness_GroupChecks : (let u (s : State) (a d : VReg) (t : Tag) : Use := { vreads := vregRun a (groupSize (s.tagOf a) t / tagCount (s.tagOf a)), vwrites := vregRun d (groupSize (s.tagOf a) t / tagCount t) }
    vecState.useFail (u vecState 5 12 .fp32) = none ∧ (vecState.thr.vreg 5).tag ∉ vcvtSources ∧ (vecState.thr.vreg 5).tag ∉ [.fp32, .bf16, .fp16] ∧
    (let s := vecs [(12, 0, 0, .bf16)] vecState
     s.useFail (u s 12 31 .fp32) = none ∧ (s.thr.vreg 12).tag ∈ vcvtSources ∧
     32 < (31 : VReg).val + groupSize .bf16 .fp32 / tagCount .fp32 ∧ tagExact .bf16 .fp32 = true) ∧
    vecState.useFail (u vecState 4 12 .dx8) = none ∧ (vecState.thr.vreg 4).tag ∈ [Tag.fp32, .bf16, .fp16] ∧
    ¬(32 < (4 : VReg).val + groupSize .fp32 .dx8 / tagCount .fp32 ∨ 32 < (12 : VReg).val + groupSize .fp32 .dx8 / tagCount .dx8) ∧
    (vregRun 4 (groupSize .fp32 .dx8 / tagCount .fp32)).find? (fun v => decide ((vecState.thr.vreg v).tag ≠ .fp32)) = some 5 ∧
    okNow queueState (u queueState 3 12 .fp32) = true ∧ (∀ v ∈ vregRun 3 (groupSize .fp32 .fp32 / tagCount .fp32), (queueState.thr.vreg v).tag = .fp32)) := by
  decide +kernel

/-! ### Flumes -/

/-- A control block at 0x6000: two slots of one word at 0x7000, dev scope, waiting or reporting. -/
def block (policy : Bool) (head tail : Nat) : Fcb :=
  ⟨0x7000, head, tail, 1, 0, 3, policy, 16, 1, 2 + head - tail, 0, 0, false, 0, 0, 0, true, 0⟩

/-- n1 is the handle of a flume whose counts are `head` and `tail`; n4 a limit; n5 an 8-byte element. -/
def flumeState (policy : Bool) (head tail limit : Nat) : State :=
  vals [(1, 0x6000), (4, limit), (5, 77)] (tst.fcbWrite 0x6000 (block policy head tail))

/-- The controller's answer to an opened handle. -/
def opened (s : State) (h : Nat) (k : Option Nat) (rel : Bool) : Option (Nat × Fcb × State) :=
  match s.flumeOpen h k rel with
  | .ok pa f s1 => some (pa, f, s1)
  | _ => none

/-- How an enqueue, or a dequeue, through n1 ends. -/
def enqOut (s : State) : Option FlumeOut := (opened s 0x6000 (some 0) true).map (fun p => (p.2.2.flumeEnq 0 p.1 p.2.1 [77]).1)

def deqOut (s : State) : Option FlumeOut := (opened s 0x6000 (some 0) false).map (fun p => (p.2.2.flumeDeq 0 p.1 p.2.1).1)

theorem witness_FlumeTransfers : nameRun 5 (elemNames ((flumeState false 0 0 9).ext 1)) = [5] ∧
    okNow (flumeState false 0 0 9) { reads := ints [1] ++ [(5, .intOr [.f64])] ++ ints [4] } = true ∧
    okNow (flumeState false 0 0 9) { reads := ints [1] ++ [(5, .intOr [.f64])] ++ [] } = true ∧
    enqOut (flumeState false 0 0 9) = some (.done []) ∧ enqOut (flumeState false 0 2 9) = some .wait ∧
    (flumeState false 0 2 0).val 4 ≤ 0 ∧ 0 < (flumeState false 0 2 9).val 4 ∧ enqOut (flumeState true 0 2 9) = some .full ∧
    okNow (flumeState false 0 0 9) { reads := ints [1] ++ [], writes := [(5, .elem)] ++ [] } = true ∧
    okNow (flumeState false 0 0 9) { reads := ints [1] ++ ints [4], writes := [(5, .elem)] ++ [] } = true ∧
    deqOut (flumeState false 0 1 9) = some (.done [0]) ∧ deqOut (flumeState false 1 1 9) = some .wait := by decide +kernel

theorem witness_FlumeTries :
    okNow (flumeState true 0 0 9) { reads := ints [1] ++ [(5, .intOr [.f64])] ++ [], writes := ints [6] } = true ∧
    enqOut (flumeState true 0 2 9) = some .full ∧ enqOut (flumeState true 0 0 9) = some (.done []) ∧
    ((flumeState true 0 0 9).thr.narrow 6 1).isSome = true ∧
    okNow (flumeState true 0 0 9) { reads := ints [1] ++ [], writes := [(5, .elem)] ++ [] } = true ∧
    deqOut (flumeState true 0 1 9) = some (.done [0]) ∧ deqOut (flumeState true 1 1 9) = some .wait ∧
    okNow (flumeState true 0 0 9) (use2 6 1) = true ∧ (opened (flumeState true 0 0 9) 0x6000 (some 0) false).isSome = true := by
  decide +kernel

/-- A waiter of base die 0's controller at the flume of 0x6000. -/
def waiter (enq : Bool) : FlumeWaiter := ⟨0x6000, 16, enq, .slot 0 3, [5], 1, false, true, none, 0x6000, 1⟩

/-- One slot free, none free under each policy, one element, no element; a counted dequeuer and a counted enqueuer, which the
controller keeps. -/
theorem witness_FlumeOrder : (block true 0 1).waitd = 0 ∧ 0 < (block true 0 1).free ∧ (block true 0 2).waitd = 0 ∧
    (block true 0 2).free = 0 ∧ (block true 0 2).policy = true ∧ (block false 0 2).waitd = 0 ∧ (block false 0 2).free = 0 ∧
    (block false 0 2).policy = false ∧ (block true 0 1).head < (block true 0 1).tail ∧ (block true 0 1).waite = 0 ∧
    (block true 1 1).tail ≤ (block true 1 1).head ∧
    (let f : Fcb := { block false 0 0 with waitd := 1 }
     let s : State := { flumeState false 0 0 9 with flumeWaits := [waiter false] }
     0 < f.waitd ∧ (s.fcbWrite 0x6000 { f with head := f.head + 1, tail := f.tail + 1, waitd := f.waitd - 1 }).oldest 0x6000
       (f.ctl 0) false = some (waiter false)) ∧
    (let f : Fcb := { block false 0 2 with waite := 1 }
     let s : State := { flumeState false 0 2 9 with flumeWaits := [waiter true] }
     f.head < f.tail ∧ 0 < f.waite ∧ (s.fcbWrite 0x6000 { f with head := f.head + 1, tail := f.tail + 1, waite := f.waite - 1 }).oldest
       0x6000 (f.ctl 0) true = some (waiter true)) := by decide +kernel

theorem witness_FlumeBindingAndSplit : okNow (flumeState false 0 0 9) { reads := ints [1], decls := ints [5] } = true ∧
    ((opened (flumeState false 0 0 9) 0x6000 none false).map (fun p => p.2.2.qbindRefused 5 0x6000 p.2.1.esz)) = some false ∧
    ((opened (flumeState false 0 0 9) 0x6000 none false).map (fun p => p.2.2.qbindRefused 63 0x6000 p.2.1.esz)) = some true ∧
    okNow (flumeState false 0 0 9) { reads := ints [1], decls := ints [63] } = true ∧
    (let s (b : Option Word) := tst.modThr (fun t => t.setName 5 { t.name 5 with bind := .flume 0x6000 b })
     (s none).useFail { decls := ints [5] } = none ∧ ((s none).thr.name 5).bind = .flume 0x6000 none ∧
     ((s (some 9)).thr.name 5).bind = .flume 0x6000 (some 9) ∧
     (match (s none).gather { decls := ints [5] } with | .ready _ => true | _ => false) = true ∧
     (match (s (some 9)).gather { decls := ints [5] } with | .ready _ => true | _ => false) = true) ∧
    tst.splitAllowed 4 = true ∧
    ((tst.setSplit 0 4 9).modThr (fun t => { t with privl := ⟨false, false, false, false⟩ })).splitAllowed 1 = false := by decide +kernel

/-! ### Threads and groups -/

/-- The loader's context with both of its two records in use. -/
def fullPool : State := tst.modCtx 1 (fun x => { x with recs := [RecInfo.new 0 none 0, RecInfo.new 1 none 0] })

theorem witness_SpawnResult : (let u : Use := { reads := (nameRun 10 4).map (fun n => (n, Need.any)) ++ ints [1, 2] }
    okNow (vals [(2, 0x5000)] tst) u = true) ∧ ((vals [(2, 0x5000)] tst).readEntry 0x5000).1.toOption.isSome = true ∧
    (tst.takeRecord 1).1 = some 1 ∧ (fullPool.takeRecord 1).1 = none := by decide +kernel

/-- QUIT ends, and waits for a load into the slot that the thread holds; YIELD with no ready record, of a thread that holds a tile,
and with a ready record. -/
theorem witness_QuitAndYield : (tst.quieted.map (fun s => (s.quitNoria s.cur.1 s.thr).1)) = some true ∧
    (let s := tst.setQuad 0 { (tst.quad 0).grant 1 0 [] [3] with loads := [⟨0, ⟨0, 0, 1, 0, .load (BitVec.ofNat 512 (3 * 2 ^ 148)) [] [] none⟩⟩] }
     (s.quieted.map (fun s => (s.quitNoria s.cur.1 s.thr).1)) = some false) ∧
    tst.readyRecs tst.thr.ctx tst.thr.aff (tst.dev.dieOf tst.cur.1) = [] ∧
    (let s := tst.setQuad 0 ((tst.quad 0).grant 1 0 [1] [])
     s.pinned s.cur.1 s.thr = true) ∧
    (let s : State := { tst with ready := [⟨1, none, 0, [1]⟩] }
     s.readyRecs s.thr.ctx s.thr.aff (s.dev.dieOf s.cur.1) = [1] ∧ s.pinned s.cur.1 s.thr = false ∧ s.quieted.isSome = true) := by
  decide +kernel

/-- The piece of a group word with its word; whether no level where an operation of its scope works finds it poisoned (GroupHit,
GroupFound). -/
def groupOf (s : State) (addr : Nat) : Option (Piece × GroupWord × Bool) :=
  match s.groupPiece s.thr s.cur.1 addr with
  | (.ok x, s1) =>
    let (w, s2) := s1.groupRead s1.cur.1 x
    some (x, w, (s1.levelPoison (x.loc.level .quad) x).isNone && (s1.levelPoison (x.loc.level .dev) x).isNone &&
      (s2.levelPoison (x.loc.level w.scope) x).isNone)
  | _ => none

/-- n1 points at a group word; the thread has joined it as g1, with and without a second member. -/
def aloneState : State := nextOf (exec (.join 1 1 .dev) (vals [(1, 0x5000)] tst))

def pairState : State := aloneState.store 0 0 1 0x5000 (leBytes 16 (GroupWord.toNat ⟨2, 0, 0, 4, 0⟩))

/-- A free word; a handle in use; an address held under another handle; a full word; a word of another scope (V). -/
theorem witness_JoinResult : okNow (vals [(1, 0x5000)] tst) { reads := ints [1] } = true ∧
    ((groupOf (vals [(1, 0x5000)] tst) 0x5000).map (fun p => (p.2.1.memb, p.2.1.malformed, p.2.2))) = some (0, false, true) ∧
    (tst.thr.group 1).isSome = false ∧ okNow aloneState { reads := ints [1] } = true ∧ (aloneState.thr.group 1).isSome = true ∧
    (aloneState.thr.group 2).isSome = false ∧
    aloneState.thr.groups.toList.any (fun h => decide (h = some (BitVec.ofNat 64 (aloneState.ext 1)))) = true ∧
    ((groupOf ((vals [(1, 0x5000)] tst).store 0 0 1 0x5000 (leBytes 16 (GroupWord.toNat ⟨2 ^ 32 - 1, 0, 0, 4, 0⟩))) 0x5000).map
      (fun p => (p.2.1.memb, p.2.1.malformed, p.2.2))) = some (2 ^ 32 - 1, false, true) ∧
    (GroupWord.join ⟨2, 0, 0, 4, 0⟩ .quad).2 = true := by
  decide +kernel

theorem witness_GroupsAndBarriers : tst.thr.group 1 = none ∧ aloneState.thr.group 1 = some 0x5000 ∧
    ((groupOf aloneState 0x5000).map (fun p => (p.2.1, p.2.1.malformed, p.2.2))) = some (⟨1, 0, 0, 4, 0⟩, false, true) ∧
    okNow tst { writes := ints [2] } = true ∧ (tst.thr.narrow 2 (-1)).isSome = true ∧ okNow aloneState { writes := ints [2] } = true ∧
    (aloneState.thr.narrow 2 (1 : Nat)).isSome = true ∧
    ((groupOf pairState 0x5000).map (fun p => (p.2.1, pairState.remotePiece p.1))) = some (⟨2, 0, 0, 4, 0⟩, false) := by decide +kernel

/-- The thread at user privilege, another context's in slot 4 of its core, which has a name bound to the link of direction 2. -/
def sharedCore : State :=
  let u := { loaderThread with ctx := 2 }
  (tst.modThr (fun t => { t with privl := ⟨false, false, false, false⟩ })).setCore 0
    ((tst.core 0).setSlot 4 ⟨false, .thread (u.setName 1 { u.name 1 with bind := .link 2 })⟩)

/-- Each accepted, each turned away, each of a fixed index. -/
theorem witness_CoreTables : okNow tst { reads := ints [1] } = true ∧ tst.thr.privl.priv = true ∧
    okNow (vals [(1, 0xE4)] tst) { reads := ints [1] } = true ∧ dirsDiffer ((vals [(1, 0xE4)] tst).upat 1 % 256) = true ∧
    okNow tst { decls := ints [1] } = true ∧ (tst.thr.name 1).bind = .none ∧ tst.linkTaken tst.cur.1 1 = false ∧
    (tst.linkOut tst.cur.1 1).isSome = true ∧ tst.chargeFits tst.thr.ctx 128 = true ∧
    (let s := nextOf (exec (.link 1 1) tst)
     (s.thr.name 1).bind = .link 1 ∧ s.useFail { decls := ints [1] } = none ∧
     (match s.gather { decls := ints [1] } with | .ready s1 => s1.quieted.any (fun s2 => decide ((s2.thr.name 1).bind = .link 1)) | _ => false) =
       true) ∧
    okNow tst { decls := ints [62] } = true ∧ okNow tst { reads := ints [62] } = true ∧
    tst.quieted.any (fun s => decide ((s.thr.name 1).bind = .none)) = true ∧
    okNow sharedCore { reads := ints [1] } = true ∧ sharedCore.thr.privl.priv = false ∧ sharedCore.coreHeldBy 0 1 = false ∧
    dirsDiffer (tst.upat 1 % 256) = false ∧ okNow sharedCore { decls := ints [1] } = true ∧ sharedCore.linkTaken 0 2 = true := by
  decide +kernel

/-! ### Tokens, basins, launches -/

/-- n1 is the handle of a flume of 64-byte elements, registered at base die 0 as the copy flume of its entry 0. -/
def copyState (policy : Bool) (tail : Nat) : State :=
  let f : Fcb := ⟨0x7000, 0, tail, 1, 3, 3, policy, 16, 1, 2 - tail, 0, 0, false, 0, 0, 0, true, 0⟩
  let s := (tst.fcbWrite 0x6000 f).store 0 2 1 0x8000 (leBytes 8 0x6001)
  vals [(1, 0x6003)] (s.setReg 0x100 0x8001)

/-- How the append ends: the flume found open for the packet, and its answer. -/
def packetOut (s : State) : Option (Bool × Bool × Nat × FlumeOut) :=
  match s.handleCheck s.thr s.cur.1 (s.ext 1) with
  | (.ok pa, s2) =>
    let r := s2.release s2.cur.1 (s2.fcbRead pa).scopeOf
    match r.fcbOpen 0 pa r.thr.ctx (some 3) with
    | (.ok f, s3) => some (s2.remotePa pa, r.registered ((s2.fcbRead pa).home - 16) pa false, (s2.fcbRead pa).home,
        (s3.flumeEnq 0 pa f (tiePacket (s3.thr.vreg 1).data.toNat 2 s3.thr.recIx)).1)
    | _ => none
  | _ => none

/-- n2 points at a basin word of dev scope with phase 3 and nothing pending; n3 holds the phases that its waiters name. -/
def basinState (phase : Nat) : State :=
  vals [(2, 0x5000), (3, phase)] (tst.levelWrite .home 0 1 (bytesAt 0x5000 (leBytes 8 (Basin.word ⟨0, 3, 0, 3, false, false, 0⟩))))

/-- The basin word of an access (BasinHit), and how far it is ahead of the phase in n3. -/
def basinOf (s : State) (k : AccKind) : Option (Nat × Basin × Nat) :=
  match s.access s.thr s.cur.1 k 0x5000 8 8 with
  | (.ok (⟨q, .global pa pol ow, n⟩ :: _), s1) =>
    let r := (s1.resPrepare s1.cur.1 ⟨q, .global pa pol ow, n⟩).levelRead .home 0 pa 8
    let w := Basin.ofNat (leNat r.1)
    if (s1.levelPoison .home ⟨q, .global pa pol ow, n⟩).isNone && w.legal &&
      (Option.orFail (windowFail s.cur.1 k 0x5000) (alignFail 0x5000 8)).isNone then some (pa, w, r.2.phaseAhead w 3) else none
  | _ => none

/-- A flume that makes its sender wait; a control block that no table lists; a handle of another size. -/
theorem witness_PacketsHeldUp : packetOut (copyState false 2) = some (false, true, 16, .wait) ∧
    (copyState false 0).registered 0 0x6040 false = false ∧ handleSize ((vals [(1, 0x6000)] (copyState false 0)).ext 1) ≠ 3 := by
  decide +kernel

theorem witness_PacketsTokensBasins : okNow (copyState false 0) { reads := ints [1], vreads := [1] } = true ∧
    handleSize ((copyState false 0).ext 1) = 3 ∧ (copyState false 0).thr.tok 2 = 0 ∧
    packetOut (copyState false 0) = some (false, true, 16, .done []) ∧ packetOut (copyState true 2) = some (false, true, 16, .full) ∧
    ((copyState false 0).modThr (fun t => t.setTok 2 1)).thr.tok 2 = 1 ∧ tst.thr.tokensMet 3 .vis = true ∧
    (tst.modThr (fun t => t.setTok 1 1)).thr.tokensMet 3 .vis = false ∧ okNow tst { writes := ints [1] } = true ∧
    (tst.thr.narrow 1 tst.thr.toks.toNat).isSome = true ∧ okNow (basinState 2) (use3 1 2 3) = true ∧
    okNow (basinState 2) (use2 1 2) = true ∧ basinOf (basinState 2) .rmw = some (0x5000, ⟨0, 3, 0, 3, false, false, 0⟩, 1) ∧
    (basinOf (basinState 3) .read).map (fun p => p.2.2) = some 0 ∧ (basinOf (basinState 2) .read).map (fun p => p.2.2) = some 1 ∧
    (basinOf (basinState (65536 + 3 - 32768)) .read).map (fun p => p.2.2) = some 32768 ∧ (tst.thr.narrow 1 2).isSome = true ∧
    (basinState 3).dev.paKind 0x5000 = .hbm ∧ (waitkScope .vis).isSome = true ∧ waitkScope .src = none := by decide +kernel

/-- A record in state 0, with two predecessors, and one in state 1. -/
def launchState (st : Nat) : State := (vals [(1, 5), (3, 7), (4, 16384)] tst).setLaunch 1 5 0x10 48 16 2 |>.setLaunchState 1 5 st

/-- LPATCH of all ARGS from v3, a value out of range, an index that is no register; LARM with no predecessors left. -/
theorem witness_LaunchEdges : okNow (launchState 0) { reads := ints [1], vreads := [3] } = true ∧
    ((launchState 0).patched 1 5 12 3).isSome = true ∧ (vals [(3, 70000)] (launchState 0)).patched 1 5 8 3 = none ∧
    32 ≤ (33 : Name).val ∧ ((((launchState 0).setLaunch 1 5 0x10 48 16 0).release 0 .dev).setLaunchState 1 5 1).launchField 1 5 0x10 48 16 = 0 := by
  decide +kernel

theorem witness_LaunchesAndNoise : okNow (launchState 0) { reads := ints [1, 3] } = true ∧ (launchState 0).launchIndex 1 = some 5 ∧
    (launchState 0).dev.recordDie 5 ∉ (launchState 0).dev.deadSched ∧ (launchState 0).launchState 1 5 = 0 ∧
    ((launchState 0).patched 1 5 11 3).isSome = true ∧ (launchState 1).launchState 1 5 = 1 ∧
    okNow (launchState 0) { reads := ints [1] } = true ∧ (launchState 0).launchIndex 4 = none ∧
    (let s3 := (launchState 0).release 0 .dev
     s3.launchState 1 5 = 0 ∧ (s3.setLaunchState 1 5 1).launchField 1 5 0x10 48 16 ≠ 0) ∧
    ((launchState 1).release 0 .dev).launchState 1 5 ≠ 0 ∧
    okNow (launchState 0) (use2 2 1) = true ∧ ((launchState 0).thr.narrow 2 ((launchState 0).launchWord 1 5 0x38 : Nat)).isSome = true ∧
    okNow (vals [(1, 0x5000), (2, 0x5001)] tst) (use2 3 1) = true ∧ okNow tst (use2 3 63) = true ∧
    ptrMbz 0x0200000000005000 = true ∧ (tst.thr.narrow 3 0).isSome = true := by decide +kernel

/-! ### The noria -/

/-- A B descriptor of slot 3: two rows, one column, DX8 from global memory; a shape word for row 5 of tile 0 from slot 3. -/
def descWord : Nat := 0x5000 + 0x5100 * 2 ^ 64 +
  (2 + 1 * 2 ^ 7 + 1 * 2 ^ 14 + 1 * 2 ^ 16 + 3 * 2 ^ 20 + 2 * 2 ^ 24 + 1 * 2 ^ 31) * 2 ^ 128

def shapeWord : Nat := 2 + 1 * 2 ^ 7 + 5 * 2 ^ 11 + 3 * 2 ^ 18

/-- The thread holds tile 0 and slot 3, which is loaded; v1 holds the descriptor, v2 a DX8 row; n1 the reservation word,
n2 the shape word, n3 a row count, n4 a row record in the scratchpad, n5 a drain word of rows 5 and 6, n6 0, n7 and n8 words with
bits that must be 0. -/
def noriaState : State :=
  let s := vecs [(1, descWord, 0, .raw), (2, 0x0102, 0x7B75, .dx8)] (vals [(1, 0x81), (2, shapeWord), (3, 2), (4, 0x4000000000000000),
    (5, 5 * 4 + 2 * 256), (6, 0), (7, 0x1000), (8, 8)] (nextOf (exec (.split 1) tst)))
  let q := (s.quad 0).grant 1 0 [0] [3]
  s.setQuad 0 (q.modBslot 3 (fun b => { b with loaded := true, desc := BitVec.ofNat 512 descWord }))

/-- A thread that holds the core's handler registration. -/
def handlerState : State := noriaState.setCore 0 { noriaState.core 0 with handler := some ⟨1, 0, 0x5000, 0, 0, 0, 0, [1], [5]⟩ }

/-- The state in which a noria whose queues are empty takes a request, and its entry (AtNoria). -/
def taken (s : State) (reads : List Name) (d : Name) (op : NoriaOp) : State :=
  let x := (s.nqPush op).2.park reads (.noria s.serial d)
  let y := x.setCore s.cur.1 { x.core s.cur.1 with nq := [] }
  y.setQuad s.myQuad { y.quad s.myQuad with lastNoria := s.cur.1 % 4 }

theorem at_noria {s : State} {reads : List Name} {d : Name} {op : NoriaOp} (h : s.queued s.myQuad = [])
    (h2 : (s.quad s.myQuad).releases = []) :
    AtNoria s reads d op ⟨s.serial, s.cur.2, s.thr.ctx, s.thr.recIx, op⟩ (taken s reads d op) := ⟨h, h2, rfl, rfl⟩

/-- A load into slot 3 under way. -/
def loadingState : State := noriaState.setQuad 0 { noriaState.quad 0 with
  loads := [⟨0, ⟨0, 0, 1, 0, .load (BitVec.ofNat 512 descWord) [] [] none⟩⟩] }

/-- A row step of core 1 in the noria's queues. -/
def waitingState (s : State) : State := s.setCore 1 { s.core 1 with nq := [⟨0, 0, 9, 0, .check 3 false⟩] }

/-- A noria step may issue (NReady). -/
def noriaNow (s : State) (u : Use) : Bool := okNow s u && s.thr.handler.isNone && decide ((s.core s.cur.1).nq.length < 2)

theorem witness_NoriaInstructions : noriaNow tst { reads := ints [1] } = true ∧ bits (noriaState.ext 7) 12 52 ≠ 0 ∧
    noriaNow noriaState { reads := ints [7] } = true ∧
    (let s := vals [(1, 0x81)] tst
     bits (s.ext 1) 12 52 = 0 ∧ (∀ i ∈ wordTiles (s.ext 1), ((s.quad 0).tile i).holder = none) ∧
     (∀ i ∈ wordSlots (s.ext 1), ((s.quad 0).bslot i).holder = none) ∧
     s.chargeFits 1 (16448 * (wordTiles (s.ext 1)).length + 4416 * (wordSlots (s.ext 1)).length) = true) ∧
    bits (noriaState.ext 1) 12 52 = 0 ∧ ((noriaState.quad 0).tile 0).holder ≠ none ∧ 0 ∈ wordTiles (noriaState.ext 1) ∧
    (waitingState noriaState).queued 0 ≠ [] ∧ noriaNow (waitingState noriaState) { reads := ints [1] } = true ∧
    noriaState.queued 0 = [] ∧ (noriaState.quad 0).releases = [] ∧
    (let s2 := taken (vals [(1, 0x81)] tst) [1] 63 (.acquire (wordTiles 0x81) (wordSlots 0x81))
     (∀ i ∈ wordTiles 0x81, ((s2.quad 0).tile i).holder = none) ∧ (∀ i ∈ wordSlots 0x81, ((s2.quad 0).bslot i).holder = none) ∧
     s2.chargeFits 1 (16448 * (wordTiles 0x81).length + 4416 * (wordSlots 0x81).length) = true) ∧
    ((taken noriaState [1] 63 (.acquire (wordTiles 0x81) (wordSlots 0x81))).quad 0 |>.tile 0).holder ≠ none ∧
    (let s2 := taken (vals [(1, 0x81)] tst) [1] 63 (.release (wordTiles 0x81) (wordSlots 0x81))
     (∀ i ∈ wordTiles 0x81, ((s2.quad 0).tile i).holder ≠ some (1, 0)) ∧ (∀ i ∈ wordSlots 0x81, ((s2.quad 0).bslot i).holder ≠ some (1, 0))) ∧
    (let y (s : State) : State := (taken s [1] 63 (.release (wordTiles 0x81) (wordSlots 0x81))).setQuad 0
       { (taken s [1] 63 (.release (wordTiles 0x81) (wordSlots 0x81))).quad 0 with releases := [⟨0, ⟨s.serial, 0, 1, 0, .release (wordTiles 0x81) (wordSlots 0x81)⟩⟩] }
     ((y noriaState).release' 0 1 0 (wordTiles 0x81) (wordSlots 0x81)).isSome = true ∧ loadingState.queued 0 = [] ∧
     ((y loadingState).release' 0 1 0 (wordTiles 0x81) (wordSlots 0x81)).isNone = true) ∧
    noriaNow noriaState { vreads := [1] } = true ∧ (BDesc.ofNat descWord).fault = none ∧
    ((noriaState.quad 0).bslot (BDesc.ofNat descWord).slot).holder = some (1, 0) ∧
    (noriaState.runPieces ((BDesc.ofNat descWord).elemRuns ++ (BDesc.ofNat descWord).pairRuns)).1.toOption.isSome = true ∧
    noriaNow noriaState { reads := ints [2], vreads := [2] } = true ∧ (noriaState.core 0).vq.length < 4 ∧
    noriaState.rowTagFail (shapeSlot (noriaState.ext 2)) (noriaState.thr.vreg 2).tag = none ∧
    noriaState.shapeFail (noriaState.ext 2) = none ∧ noriaState.thr.tok 1 = 0 ∧ mrunNames 4 3 2 = none ∧
    noriaNow noriaState { reads := [(4, .u64), (3, .int), (2, .u64)], writes := [(4, .any), (3, .any), (2, .any)] } = true ∧
    0 < noriaState.val 3 ∧ (match noriaState.mrunStep (noriaState.upat 4) (noriaState.upat 2) with | .ok _ => true | _ => false) = true ∧
    noriaState.val 3 ≠ 1 ∧ (vals [(3, 1)] noriaState).val 3 = 1 ∧
    noriaState.unbound { reads := [(4, .u64), (3, .int), (2, .u64)], writes := [(4, .any), (3, .any), (2, .any)] } = true := by
  decide +kernel

theorem witness_NoriaHandlers : noriaNow handlerState { reads := ints [5, 6] } = true ∧ bits (handlerState.ext 5) 15 49 = 0 ∧
    bits (handlerState.ext 5) 8 7 ≠ 0 ∧ bits (handlerState.ext 5) 2 6 + bits (handlerState.ext 5) 8 7 ≤ 64 ∧
    ((handlerState.quad 0).tile (bits (handlerState.ext 5) 0 2)).holder = some (1, 0) ∧
    (handlerState.core 0).handler.isSome = true ∧ noriaNow noriaState (use2 8 6) = true ∧ bits (noriaState.ext 6) 3 61 = 0 ∧
    ((noriaState.quad 0).tile (bits (noriaState.ext 6) 0 2)).holder = some (1, 0) ∧
    noriaState.statusInWindow 8 0 = false ∧ (let s2 := taken noriaState [6] 8 (.check 0 false)
     (s2.quad 0).rowsIn = [] ∧ ((s2.setQuad 0 ((s2.quad 0).modTile 0 (fun t => { t with chk := false }))).partyThread (.slot 0 0)).wait =
       some (.noria noriaState.serial 8)) ∧
    noriaState.statusInWindow 8 3 = true ∧ (waitingState noriaState).queued 0 ≠ [] ∧ noriaNow (waitingState noriaState) (use2 8 6) = true ∧
    noriaNow noriaState { reads := ints [6, 1] } = true ∧ noriaState.val 6 = 0 ∧ (15 : Int) < noriaState.val 1 ∧
    noriaNow noriaState { reads := ints [1, 6] } = true ∧
    (taken noriaState [6, 1] 63 (.register 0 0 0 0)).holdsHandler 0 1 0 = false ∧
    noriaNow handlerState { reads := ints [6, 1] } = true ∧ handlerState.queued 0 = [] ∧ (handlerState.quad 0).releases = [] ∧
    (let s2 := taken handlerState [6, 1] 63 (.register 0 0 0 0)
     s2.holdsHandler 0 1 0 = true ∧ s2.handlersBusy 0 = false) ∧
    (let s := handlerState.setCore 0 ((handlerState.core 0).setSlot 5 ⟨true, .thread { loaderThread with recIx := 1 }⟩)
     let s2 := taken s [6, 1] 63 (.register 0 0 0 0)
     s2.holdsHandler 0 1 0 = true ∧ s2.handlersBusy 0 = true) ∧
    (tst.modThr (fun t => { t with handler := some ⟨0, 0, 5, false⟩ })).thr.handler = some ⟨0, 0, 5, false⟩ ∧
    tst.thr.handler = none := by decide +kernel

/-- MHND with 1 and an entry at 0x5000: a registration made, and refused since the core has one. -/
theorem witness_HandlerRegistered : let s := vals [(9, 1), (10, 0x5000)] noriaState
    noriaNow s { reads := ints [9, 10] } = true ∧ 0 < s.val 9 ∧ s.val 9 ≤ 15 ∧
    (match s.readEntry (s.ext 10) with
      | (.ok (pc, maph), s3) =>
        let s2 := taken s3 [9, 10] 63 (.register 1 0x5000 pc maph)
        decide (s3.cur = s.cur) && decide (s3.queued 0 = []) && (s3.quad 0).releases.isEmpty && (s2.core 0).handler.isNone &&
          decide (1 ≤ (s2.freeSlots 0).length) && s2.poolFits 1 1 && s2.chargeFits 1 64
      | _ => false) = true ∧
    (let h := vals [(9, 1), (10, 0x5000)] handlerState
     (match h.readEntry (h.ext 10) with
      | (.ok (pc, maph), s3) => decide (s3.cur = h.cur) && ((taken s3 [9, 10] 63 (.register 1 0x5000 pc maph)).core 0).handler.isSome
      | _ => false) = true) := by decide +kernel

/-! ### Contexts, the error ring, time, offtakes -/

/-- One record in the error ring; a thread of the context in slot 4 of core 0. -/
def ringState : State :=
  let s := { tst with dev := { tst.dev with errTail := 1, errBase := 0x9 } }
  s.setCore 0 ((s.core 0).setSlot 4 ⟨false, .thread { loaderThread with recIx := 1 }⟩)

theorem witness_ContextsAndSystem : tst.quieted.isSome = true ∧ (commandRow (.preempt 1 2 true)).isSome = true ∧
    okNow tst { sys := true, reads := ints [2], writes := ints [1] } = true ∧
    ((tst.release 0 .host).command .ctxld (some 1) 5000).1 = 4 ∧ ((tst.release 0 .host).thr.narrow 1 4).isSome = true ∧
    (let s := (tst.setReg 0x18 0x9001).levelWrite .home 0 0 (bytesAt 0x9080 (leBytes 8 1))
     (({ s with ctxs := { loaderContext with id := 2 } :: s.ctxs } : State).command .preempt (some 1) 2).1 = 0) ∧
    (tst.unfreeze 0 1).1.isSome = true ∧ (tst.thr.narrow 1 1).isSome = true ∧
    okNow tst { writes := ints [1], vwrites := [3] } = true ∧ (tst.dev.errTail - tst.dev.errHead).toNat = 0 ∧
    okNow ringState { writes := ints [1], vwrites := [3] } = true ∧ (ringState.dev.errTail - ringState.dev.errHead).toNat = 1 ∧
    ringState.headRecord.2.thr.privl.priv = true ∧ (tst.dev.timeSet 2 (-1000000)).isSome = true ∧ (tst.dev.timeSet 2 1000001).isNone = true ∧
    tst.spillRefused 16 = true ∧ ringState.spillRefused 4 = false ∧
    ((ringState.threadAt 0 4).map (fun t => (t.placing, t.quiet, t.wait.any Wait.answer))) = some (false, true, false) := by decide +kernel

/-- SPILL with n63 as its destination: its narrowing succeeds whatever the slot held. -/
theorem witness_SystemResult_spill : okNow ringState { sys := true, reads := ints [2], writes := ints [63] } = true ∧
    ∀ t : State, (t.thr.narrow 63 0).isSome = true := ⟨by decide +kernel, fun _ => rfl⟩

/-- n1 is a descriptor with a bit above 25, n3 one of device 5, n5 one of this device. -/
def sendState : State := vals [(1, 2 ^ 26), (3, 5), (5, 0), (9, 1000)] (tst.setReg 0x10 0)

/-- The remote clauses, in a window and outside one, and with n11 in trap mode; what time and the expansions ask. -/
theorem witness_RemoteTimeExpansion : okNow sendState (rinvUse 7 1 4 []) = true ∧ bits (sendState.ext 1) 26 38 ≠ 0 ∧
    okNow sendState (rinvUse 7 3 4 []) = true ∧ bits (sendState.ext 3) 26 38 = 0 ∧
    (let p := sendState.offtakePacket 3 4
     (sendState.releaseOfftake p).dev.unreachable (packetDev p) = true) ∧
    okNow sendState (rinvUse 7 5 4 []) = true ∧
    (let p := sendState.offtakePacket 5 4
     (sendState.releaseOfftake p).dev.unreachable (packetDev p) = false ∧ (sendState.releaseOfftake p).statusInWindow 7 0 = false ∧
     (sendState.releaseOfftake p).statusInWindow 7 2 = true) ∧ (5 : Name).val ≤ 60 ∧
    okNow sendState (rinvUse 7 5 4 [nextName (nextName 5)]) = true ∧ (sendState.thr.narrow 7 3).isSome = true ∧
    okNow sendState { reads := ints [], writes := ints [7] } = true ∧ okNow sendState { reads := ints [5], writes := ints [7] } = true ∧
    okNow sendState (use2 7 9) = true ∧ sendState.dev.timebase.toNat < sendState.ext 9 ∧ sendState.ext 5 ≤ sendState.dev.timebase.toNat ∧
    tst.expansionOn true = false ∧ ({ tst with dev := { tst.dev with expansions := [1] } } : State).expansionOn true = true := by
  decide +kernel

/-! ### The engines' own steps -/

/-- The running thread with a field changed. -/
def withThr (f : Thread → Thread) (s : State) : State := s.modThr f

/-- Every slot of core 0 taken; the thread of slot 3 parked first, at a full/empty word; a record on the die's ready flume. -/
def crowded : State :=
  let t : Thread := { loaderThread with recIx := 1, wait := some .fullEmpty }
  let s := (List.range 16).foldl (fun s i => if i = 0 then s else s.setCore 0 ((s.core 0).setSlot i ⟨false, .thread t⟩)) tst
  { s with parkOrder := [(0, 3)], ready := [⟨1, none, 0, [2]⟩] }

/-- A waiter with a limit at the flume of 0x6000. -/
def limitedWaiter : FlumeWaiter := ⟨0x6000, 16, false, .slot 0 0, [], 1, false, true, none, 0x6000, 1⟩

/-- The thread of slot 0 of core 0 as the engines find it, with a field changed. -/
def slotThread (f : Thread → Thread) : Option Thread := (withThr f tst).threadAt 0 0

/-- What a thread at a runnel finds: its context's leftovers gone, and whether all entries and all room are there. -/
def atRunnel (rs ws : List Name) (s : State) : Option Bool :=
  (s.threadAt 0 0).map (fun t => ((s.seenFrom 0 0 t).clearForeign rs).runnelsReady rs ws)

/-- Name 1 bound to link 1. -/
def linked (s : State) : State := s.modThr (fun t => t.setName 1 { t.name 1 with bind := .link 1 })

theorem witness_ThreadEvents : (tst.threadAt 0 0).isSome = true ∧
    (slotThread (fun t => { t with inflight := [⟨0, 0x10000, 2, false, Pending.none, true, true, .nothing⟩] })).any (fun t =>
      t.inflight[0]?.any (fun e => decide (e.awaits = .nothing))) = true ∧
    (tst.core 0).repackq = [] ∧
    (let s := crowded.setCore 0 { crowded.core 0 with repackq := [.spill 3 1 1, .spill 4 1 9, .place 2] }
     (s.core 0).repackq = .spill 3 1 1 :: [.spill 4 1 9, .place 2] ∧
     (s.threadAt 0 3).any (fun u => decide (u.ctx = 1 ∧ u.recIx = 1) && s.spillable 0 u && u.quiet) = true ∧
     (s.threadAt 0 4).any (fun u => decide (u.recIx = 9)) = false ∧ (s.threadAt 0 4).isSome = true) ∧
    tst.dev.isCore 0 = true ∧ (({ tst with ready := [⟨1, some 0, 0, [1]⟩] } : State).nextTake 0) = some (1, true, 1, 1) ∧
    (let s : State := { tst with ready := [⟨1, none, 0, [1]⟩] }
     s.nextTake 0 = some (1, false, 1, 1) ∧ s.dieTaker 1 (s.dev.dieOf 0) = some 0) ∧
    crowded.readyWaits 0 = true ∧ crowded.freeSlotOf 0 = none ∧ (crowded.earliestParked 0).map (fun p => (p.1, p.2.quiet)) = some (3, true) ∧
    RepackOp.spill 3 1 1 ∉ (crowded.core 0).repackq ∧
    atRunnel [] [1] (linked (withThr (fun t => { t with wait := some (.runnel [] [1]) }) tst)) = some true ∧
    atRunnel [1] [] (linked (withThr (fun t => { t with wait := some (.runnel [1] []) }) tst)) = some false ∧
    (let t := (withThr (fun t => { t with asyncErr := some (uncorrectable 0x102 0) }) tst).thr
     t.asyncErr.isSome = true ∧ t.deliverable = true ∧ t.wait = none ∧ tst.ctxRuns t.ctx = true) ∧
    (withThr (fun t => { t with wait := some (.time 0 1) }) tst).thr.wait = some (.time 0 1) ∧ 0 ≤ tst.dev.timebase.toNat ∧
    (let t := (withThr (fun t => { t with wait := some (.retry 1), retry := some ⟨1, false, []⟩ }) tst).thr
     t.wait = some (.retry 1) ∧ t.retry.isSome = true) ∧ (tst.setReg 0x10 0).dev.unreachable (packetDev [0]) = false ∧
    (let s : State := { withThr (fun t => { t with wait := some (.offtake 7 1) }) tst with offtakes := [⟨7, .slot 0 0, 5, [5]⟩] }
     s.offtakes.find? (fun o => decide (o.id = 7)) = some ⟨7, .slot 0 0, 5, [5]⟩ ∧ s.thr.retry = none ∧ s.thr.wait = some (.offtake 7 1)) ∧
    (({ flumeState false 0 0 9 with flumeWaits := [limitedWaiter] } : State).flumeWithdraw limitedWaiter).1.isSome = true ∧
    (({ tst with flumeWaits := [limitedWaiter] } : State).flumeWithdraw limitedWaiter).1.isNone = true ∧
    ((({ tst with flumeWaits := [limitedWaiter] } : State).flumeWaits.filter (fun w => decide (w.fcb = 0x6000) && w.limited))[0]?) =
      some limitedWaiter := by decide +kernel

/-- Whether an enqueue waits. -/
def waits (o : FlumeOut) : Bool := match o with | .wait => true | _ => false

/-- The machine with fabric number 5, its port 3 open to the first 128 KiB for context 1 to read and write. -/
def portState : State :=
  (((((copyState false 0).setReg 0x10 5).setReg (0x400 + 32 * 48) 3).setReg (0x400 + 32 * 48 + 8) 0x20000).setReg (0x400 + 32 * 48 + 16) 1)

/-- An enqueue of eight words over port 3. -/
def portReq : FlumeReq := ⟨some 3, 1, .block, 3, List.replicate 8 1, 0⟩

theorem witness_MemoryEvents : (let s := tst.levelWrite .l2 0 1 (bytesAt 0x5000 [1, 2])
     (s.mem.sector 0 (blockOf 0x5000)).any (fun x => x.badWords.isEmpty) = true) ∧
    sizeCode portReq.elem.length = some portReq.size ∧ portReq.size = 3 ∧ portState.localFcb 0x6000 = true ∧ portReq.port = some 3 ∧
    portState.dev.portUp 3 = true ∧ portState.dev.fabnum ≠ 4095 ∧ portState.frozenMaster (.aqueduct 3) = none ∧
    portState.dev.portTakes 3 0x6000 64 1 true = true ∧ portState.dev.portTakes 3 0x30000 64 1 true = false ∧
    (match portState.fcbOpen outsideDie 0x6000 1 (some 3) with
      | (.ok f, s1) => !waits (s1.flumeEnq outsideDie 0x6000 f (List.replicate 8 1)).1 && waits (s1.flumeDeq outsideDie 0x6000 f).1
      | _ => false) = true ∧
    (match ((((copyState false 2).setReg 0x10 5).setReg (0x400 + 32 * 48) 3)).fcbOpen outsideDie 0x6000 1 (some 3) with
      | (.ok f, s1) => waits (s1.flumeEnq outsideDie 0x6000 f (List.replicate 8 1)).1
      | _ => false) = true ∧
    (match (nextOf (exec (.flumeEnqueueOperation 0x6000 portReq) portState)).fcbOpen outsideDie 0x6000 1 (some 3) with
      | (.ok f, s1) => (match (s1.flumeDeq outsideDie 0x6000 f).1 with | .done _ => true | _ => false)
      | _ => false) = true ∧
    portReq.form ≠ .withdraw ∧ (let r : FlumeReq := { portReq with form := .withdraw, elem := [] }
     let s : State := { portState with flumeWaits := [flumeWaiter r (block false 0 0) 0x6000 true, flumeWaiter r (block false 0 0) 0x6000 false] }
     s.localFcb 0x6000 = true ∧ [true, false].all (fun enq => (s.flumeWaits.find? (fun w =>
       decide (w.fcb = 0x6000 ∧ w.enq = enq ∧ w.who = .remote r.who ∧ w.rctx = r.rctx))).isSome) = true) ∧
    tst.dev.tlbBusy = false ∧ (nextOf (exec .tlbinvAll tst)).dev.tlbBusy = true := by decide +kernel

/-- A packet of one byte from 0x5000 to 0x5100, at dev scope, with bits of its first word added. -/
def packetData (scope : Nat) : Nat :=
  0x5000 + 0x5100 * 2 ^ 64 + (1 + 2 ^ 16 + 2 ^ 32 + scope * 2 ^ 56) * 2 ^ 128 + (1 + 2 ^ 16 + 2 ^ 32) * 2 ^ 320

/-- The machine with one packet of context 1. -/
def packetState (ph : PktPhase) (coll : Bool) (data : Nat) (us : List HeldUpdate) : State :=
  { copyState false 0 with packets := [⟨7, 0x6000, 1, 0, 0, 0, BitVec.ofNat 512 data, ph, 0, us, coll⟩] }

/-- Two ranks of one collective of tag 9 held here: two 32-bit integers each, their fabric numbers at 0x5200. -/
def collState : State :=
  let data (r : Nat) : BitVec 512 :=
    BitVec.ofNat 512 (0x5000 + 0x5100 * 2 ^ 64 + 2 * 2 ^ 128 + (r + 2 * 2 ^ 12 + 9 * 2 ^ 36) * 2 ^ 192 + 0x5200 * 2 ^ 256)
  let pkt (r : Nat) : Packet := ⟨r, 0x6000, 1, 0, 0, r, data r, .dequeued, 0, [], true⟩
  { (portState.levelWrite .home 0 1 (bytesAt 0x5200 [5, 0, 5, 0])) with packets := [pkt 0, pkt 1] }

/-- The premises of a collective that is carried out, one by one. -/
def collReady (s : State) (tag : Nat) : Bool :=
  match s.collPackets tag with
  | p :: rest =>
    let ps := p :: rest
    let (tabs, s1) := s.collTables ps
    match tabs.headD (.error 0) with
    | .ok rtab =>
      ps.all (fun q => (CollPkt.ofNat q.data.toNat).fault.isNone && s.dev.nbReached (PktEnd.ofNat q.data.toNat).nb &&
        (CollPkt.ofNat p.data.toNat).agrees (CollPkt.ofNat q.data.toNat)) &&
      tabs.all (fun t => match t with | .ok l => decide (l = rtab) | .error _ => false) &&
      rtab.all (fun n => decide (n = s1.dev.fabnum) || (s1.dev.route n).isSome) &&
      s1.collFormed rtab (ps.map (fun q => (CollPkt.ofNat q.data.toNat).rank)) [] &&
      (s1.collInputs ps).1.all (fun x => x.2.toOption.isSome)
    | .error _ => false
  | [] => false

theorem witness_CollectiveExecute : collReady collState 9 = true := by decide +kernel

theorem witness_CopyEvents : ((packetState .dequeued false (packetData 3) []).livePacket 7).isSome = true ∧
    0 ∈ (copyState false 1).dev.stacksUp ∧ (copyState false 1).cftEntry 0 0 = some (0x6000, false) ∧
    (copyState false 1).nextEntry 0 = some 0 ∧ tst.dev.nbReached (PktEnd.ofNat (packetData 3)).nb = true ∧
    ((packetState .held false (packetData 3) []).packet 7).map (fun p => (p.phase, p.collective)) = some (.held, false) ∧
    (CopyPkt.ofNat (packetData 3)).fault = none ∧ (CopyPkt.ofNat (packetData 0)).fault = some 1 ∧
    (let s := packetState .executed false (packetData 3) [⟨0x5100, [1]⟩]
     (s.packet 7).any (fun p => (p.updates.find? (fun u => !s.seqBlocked p.fcb p.pos p.ctx
       (CopyPkt.ofNat p.data.toNat).op u.addr.toNat u.bytes.length)).isSome && decide (p.phase = .executed)) = true ∧
     (s.copyUpdate (headworksMaster 0) 1 (CopyPkt.ofNat (packetData 3)).op 0x20000000000000 [1]).1 ≠ 0 ∧
     (s.copyUpdate (headworksMaster 0) 1 (CopyPkt.ofNat (packetData 3)).op 0x5100 [1]).1 = 0) ∧
    ((packetState .srcDone false (packetData 3) []).packet 7).map (fun p => (p.phase, p.updates)) = some (.srcDone, []) ∧
    (let s := packetState .dequeued true 0 []
     s.collPackets 0 = s.packets ∧ (CollPkt.ofNat 0).fault = some 1) := by decide +kernel

/-- The noria state with a drain of rows 5 and 6 under way on core 0, and a handler registration with slot 5 and record 1. -/
def drainState : State := handlerState.setQuad 0 { handlerState.quad 0 with drains := [⟨0, ⟨0, 0, 1, 0, .drain 0 5 2 9⟩, 0⟩] }

/-- Row 5 drained. -/
noncomputable def drainedState : State := nextOf (exec (.rowDrain 0 0) drainState)

theorem witness_NoriaEvents : (let e : NqEntry := ⟨0, 0, 1, 0, .row VRegVal.zero shapeWord 0xFF true⟩
     let r : RowStep := ⟨0, e, (noriaState.quad 0).bslot 3⟩
     let q := { noriaState.quad 0 with rowsIn := [r], abuf := some 0 }
     ((noriaState.setQuad 0 q).quad 0).rowsIn = [r] ∧ (tst.quad 0).releases = []) ∧
    (let e : NqEntry := ⟨0, 0, 1, 0, .load (BitVec.ofNat 512 descWord) [] [] none⟩
     ((noriaState.setQuad 0 { noriaState.quad 0 with loads := [⟨0, e⟩] }).quad 0).loads = [⟨0, e⟩] ∧
     e.op.loadDesc.any (fun d => decide (d.slot = 3)) = true) ∧
    (drainState.quad 0).drains[0]? = some ⟨0, ⟨0, 0, 1, 0, .drain 0 5 2 9⟩, 0⟩ ∧ (drainState.quad 0).rowInFlight 0 5 = false ∧
    ((drainState.quad 0).tile 0).draining 5 = false ∧ drainsReach ((drainState.quad 0).drains.take 0) 0 5 = false ∧
    ((drainedState.quad 0).drained.find? (fun r => decide (r.core = 0 ∧ r.ctx = 1))).map (fun r => (r.row, r.cookie)) = some (5, 9) ∧
    (drainedState.core 0).handler.map (fun h => h.ctx) = some 1 ∧
    (drainedState.core 0).handler.map (fun h => h.slots.find? (fun i => decide (((drainedState.core 0).slot i).occ = .free))) =
      some (some 5) ∧
    (drainedState.core 0).handler.map (fun h => drainedState.ctxOn h.ctx 0) = some true ∧
    (drainedState.core 0).handler.map drainedState.idleRecord = some (some 1) := by decide +kernel

/-- A head of the invocation flume of priority 0 whose handler entry names record 5, armed. -/
noncomputable def invokedState : State :=
  let s := nextOf (exec (.flumeEnqueueOperation 0x6000 portReq) portState)
  let s1 := (s.setLaunchState 1 5 1).levelWrite .home 0 0 (bytesAt 0x20000 (leBytes 8 (5 + 2 ^ 14 + 2 ^ 26)))
  (s1.setReg 0x40 0x6001).setReg 0x38 0x20001

/-- The same with a control block that fails its checks. -/
noncomputable def brokenHead : State := invokedState.levelWrite .home 0 0 (bytesAt 0x6020 [9])

/-- A port that is frozen, a window of the host port over the first 128 KiB that acts as context 1. -/
def hostState : State :=
  let s := ((portState.setReg 0x4000 3).setReg 0x4008 0x20000).setReg 0x4010 1
  { s with frozenMasters := [⟨.aqueduct 4, .none, []⟩] }

/-- A read of 8 bytes. -/
def busRead (a : Nat) : BusReq := ⟨.read, a, List.replicate 8 0, 1, 0⟩

theorem witness_PortRequests : hostState.dev.portUp 4 = true ∧ hostState.dev.fabnum ≠ 4095 ∧ hostState.frozenMaster (.aqueduct 4) ≠ none ∧
    hostState.frozenMaster (.aqueduct 3) = none ∧ hostState.dev.portTakes 3 0x5000 8 1 (busWrites (busRead 0x5000).op) = true ∧ busLength (busRead 0x5000) = 8 ∧
    hostState.dev.portTakes 3 0x30000 8 1 (busWrites (busRead 0x30000).op) = false ∧ hostState.frozenMaster .hostPort = none ∧
    ptrTag (busRead 0x5000).addr < 2 ∧ hostState.dev.hostCtx 0x5000 8 false = some 1 ∧ hostState.dev.hostCtx 0x30000 8 false = none := by
  decide +kernel

/-- An offtake of this device to itself. -/
def ownState : State := { tst with offtakes := [⟨1, .slot 0 0, 4095, [4095]⟩] }

theorem witness_LaunchAndFabricEvents : ({ tst with decrements := [⟨1, 5, 0, false, 0⟩] } : State).decrements[0]?.isSome = true ∧
    tst.dev.recordDie 5 ∉ tst.dev.deadSched ∧ (launchState 2).launchState 1 5 = 2 ∧
    (launchState 2).launchWord 1 5 0x28 ≤ (launchState 2).dev.timebase.toNat ∧ ((launchState 2).ctxOf 1).isSome = true ∧
    (let s : State := { launchState 3 with pending := [⟨5, 1, 5⟩] }
     s.launchHead 5 = some ⟨5, 1, 5⟩ ∧ s.poolFits 1 (s.launchSize 1 5) = true) ∧
    5 ∈ tst.dev.diesUp ∧ 5 ∉ tst.dev.takenOver ∧ 5 ∈ (nextOf (exec (.schedulerTakeOver 5) tst)).dev.takenOver ∧
    (⟨some 3, [], 0⟩ : Arrival).port = some 3 ∧ (⟨none, [], 1⟩ : Arrival).port = none ∧ (ownState.ownOfftake 1).isSome = true ∧
    0 ∉ invokedState.dev.deadSched ∧
    ((List.range 4).filterMap invokedState.invocationHead).map (fun h => (h.prio, invokedState.packetRecord h.packet,
      invokedState.eligible h, (invokedState.takeHead h).1)) = [(0, some (1, 5), true, true)] ∧
    ((List.range 4).filterMap brokenHead.invocationHead).map (fun h => (brokenHead.packetRecord h.packet, brokenHead.eligible h,
      (brokenHead.takeHead h).1)) = [(some (1, 5), true, false)] ∧
    bit1 (tst.dev.reg 0x60) 0 = false ∧ tst.dev.minimal = false := by decide +kernel

/-- Context 1 with a field of its record changed. -/
def ctxState (f : Ctx → Ctx) : State := tst.modCtx 1 f

/-- A device at a stage of a start, with no context resident. -/
def stageState (n : Nat) : State := { State.reset with dev := { State.reset.dev with bootStage := n } }

/-- A start that finds everything in order, an expansion on die 0 with it; one with an old image of stage 1. -/
def goodStart : BootReport := ⟨⟨true, true, true, 2, 2⟩, [⟨true, true, true, 1, 1⟩], [], [], [], [], [1]⟩

def oldStart : BootReport := { goodStart with stage1 := ⟨true, true, true, 1, 2⟩ }

/-- A die that draws its noria and vector work at 5,300 W, and is as hot as a sensor shows: 125 °C; a rail out of bounds. -/
def hotState : State := { tst with dev := { tst.dev with
  power := 5300, powerDies := [7], rails := [7], sensors := [⟨7, 0, 2000, 0, 0, 2000, []⟩] } }

theorem witness_ContextAndDeviceEvents : (let s := ctxState (fun x => { x with rstate := 2 })
     (s.ctxOf 1).map (fun x => x.rstate) = some 2 ∧ s.enginesDone 1 = true ∧ (s.residents 1).all (fun p => p.2.2.drainable) = true ∧
     (s.residents 1).length = 1) ∧
    (let sec : SavedSec := .tile 2 1 ⟨some (1, 0), true, []⟩ []
     let s := ctxState (fun x => { x with sections := [sec] })
     (s.ctxOf 1).any (fun x => decide (x.rstate = 1) && (s.restoreSection x sec).isSome && decide (x.sections[0]? = some sec)) = true) ∧
    0x50000 % 65536 = 0 ∧ tst.dev.poisonedObjects = [] ∧ 3 < tst.dev.quadCount ∧ (tst.quad 3).noiseFailed = false ∧
    (stageState 0).dev.bootState = 0 ∧ (stageState 0).dev.bootStage = 0 ∧ (stageState 0).ctxs = [] ∧
    (oldStart.stage1 = ⟨true, true, true, oldStart.stage1.version, oldStart.stage1.minimum⟩ ∧
      oldStart.stage1.version < oldStart.stage1.minimum) ∧
    (ImageReport.reason goodStart.stage1 = none ∧ goodStart.stage2.findSome? ImageReport.reason = none) ∧
    ((stageState 0).dev.bootMin = false ∧ (stageState 0).dev.bootFails < 3 ∧ goodStart.deadDies = [] ∧ goodStart.deadStacks = []) ∧
    (((List.range 16).filter (fun i => decide (i ∉ goodStart.deadDies))).head? = some 0 ∧
     ((List.range 12).filter (fun i => decide (i ∉ goodStart.deadStacks))).head? = some 0) ∧
    tst.dev.bootState = 1 ∧ (stageState 0).dev.bootState ≠ 1 ∧ tst.dev.stepsUp 7 = false ∧
    (5200 < hotState.dev.power ∧ 7 ∈ hotState.dev.powerDies) ∧
    (hotState.dev.dieTemp 7).any (fun t => decide (1680 ≤ t) && hotState.dev.sensors.all (fun x => decide (x.max.toInt ≤ t))) = true ∧
    hotState.dev.stepsDown 7 = false ∧ tst.dev.power < 5000 ∧ hotState.dev.rails ≠ [] ∧
    (∃ x ∈ hotState.dev.sensorTemps, 1920 ≤ x) ∧ tst.dev.shutsDown true = false ∧ tst.dev.shutsDown false = false ∧
    tst.frozenMaster (.appCore 2) = none ∧
    (stageState 2).dev.bootState = 0 ∧ (stageState 2).dev.bootStage = 2 ∧ (stageState 2).dev.stacksUp.length = 12 ∧
    (stageState 2).dev.minimal = false ∧ 1 ≤ (stageState 1).dev.bootStage ∧ 7 ∈ tst.dev.diesUp ∧
    tst.dev.sensorTemps.all (fun x => decide (x < 1600)) = true ∧
    regWrite 0x10 5 = some (0x10, 5, true) ∧ tst.ctxs ≠ [] ∧ State.reset.ctxs = [] ∧ regWrite 0x28 0x50000 = some (0x28, 0x50000, false) := by
  decide +kernel

/-! ### The machine as a whole -/

/-- What stands between a turn and the fetch of its instruction (StepRunsDecoded): the state in which it is fetched. -/
noncomputable def turnState (s : State) : Option State :=
  match s.agenda with
  | .run c :: rest =>
    let s0 : State := { s with agenda := rest }
    match (s0.pick c).bind (fun i => (s0.cycleEnd c).switchTo c i) with
    | some s1 =>
      let u := s1.landSlotStores s1.cur.1 s1.cur.2
      if !s.dev.clocksStopped && s1.hasRunning && s1.thr.canMove && s1.ctxRuns s1.thr.ctx && u.thr.pendTrap.isNone &&
        u.thr.asyncErr.isNone && u.thr.acq.isNone then u.landDue.map (fun s2 => s2.modThr Thread.cover) else none
    | none => none
  | _ => none

/-- The word that a turn fetches, where it is a turn and no instruction match stops it. -/
noncomputable def turnWord (s : State) : Option (Nat × Nat) :=
  match turnState s with
  | some s2 =>
    match s2.fetchWord s2.thr s2.cur.1 s2.thr.pc.toNat with
    | (.ok (w, len), s3, t) => if s2.thr.rep.isNone && !({ s3 with thr := t } : State).noTurn w && !t.instrMatch then some (w, len) else none
    | _ => none
  | none => none

/-- ADD n5, n6, n7; the REP of the worked encodings; an unassigned major; the second iteration of a repeat. -/
theorem witness_StepRunsDecoded : turnWord (State.reset.withFetchWord 32 0x0038C283) = some (0x0038C283, 4) ∧
    (decodeWord 0x0038C283).toOption = some (.add 5 6 7) ∧ turnWord (State.reset.withFetchWord 16 0x0A1A) = some (0x0A1A, 2) ∧
    (decodeWord 0x0A1A).toOption = some (.rep 3 1 1 0) ∧ turnWord (State.reset.withFetchWord 32 0x47) = some (0x47, 4) ∧
    (decodeWord 0x47).toOption = none ∧
    (let s : State := { (nextOf (exec (.rep 3 1 1 0) repState)) with agenda := [.run 0] }
     (turnState s).any (fun s2 => s2.thr.rep.any (fun r => !s2.noTurn r.inner &&
       decide ((decodeWord r.inner).toOption = some (.add 10 20 7)) &&
       decide ((decodeWord (iterWord (.add 10 20 7) r.rword r.inner r.ilen r.iter).1).toOption.isSome))) = true) := by decide +kernel

/-- A turn at which the debug address matches, and one at which the fetch fails: a page without a right to execute. -/
theorem witness_StepStops :
    (let s := (State.reset.withFetchWord 32 0x0038C283).modThr (fun t =>
       { t with dbgctl := ⟨false, 0, false, true, false⟩, dbga := 0x10000, dbgm := 0 })
     (turnState s).any (fun v => match v.fetchWord v.thr v.cur.1 v.thr.pc.toNat with
       | (.ok _, _, t) => t.instrMatch
       | _ => false) = true) ∧
    (let s := (State.reset.withFetchWord 32 0x0038C283).modThr (fun t => { t with pc := 0x8000000000000000 })
     (turnState s).any (fun v => match v.fetchWord v.thr v.cur.1 v.thr.pc.toNat with
       | (.error _, _, _) => true
       | _ => false) = true) := by decide +kernel

theorem witness_DecodeEncode : Instr.wf (.ldd 63 0 (-1) 3) = true ∧ Instr.hasWord (.ldd 63 0 (-1) 3) = true := by decide +kernel

theorem witness_StepKeepsMemory : (State.reset.withFetchWord 32 0x0038C283).mem.wf = true ∧
    (match step (State.reset.withFetchWord 32 0x0038C283) with | .next _ => true | _ => false) = true := by decide +kernel

/-- The ends of the ranges that ShortForms and ResetStates bound. -/
theorem witness_ShortForms_ResetStates : (127 : Nat) < 128 ∧ (3 : Nat) < 4 ∧ (8191 : Nat) < 8192 ∧ (31 : Nat) < 32 := by decide

end Sys2Proof.Tests
end

section
/-! PROOFS. The register maps: the divisions (R37) and n63 as a source and as a destination (R32, R36). -/

namespace Sys2Proof.Claims
open Sys2Proof Sys2Proof.Machine

/-! ## Division (R37, R104) -/

/-- A result that its destination cannot hold raises WIDTH_OVERFLOW (R35). -/
theorem narrowInto_none {s : State} {rd : List Name} {d : Name} {x : Int} {g : FlagWrite → FlagWrite}
    (h : s.thr.narrow d x = none) :
    s.narrowInto rd d x g = .next (s.takeTrap (mkTrap .widthOverflow 0 d.val (lowBits 64 x))) := by
  simp [State.narrowInto, h, State.trap, widthOverflow]

/-- Each of the four divisions runs as the shared operation `State.division`, on the function that its row names. -/
theorem exec_eq_division {i : Instr} {d a b : Name} {f : State → Int} (h : divRow i = some (d, a, b, f)) (s : State) :
    exec i s = s.division d a b f := by
  unfold divRow at h
  split at h
  case h_1 => cases h; rfl -- DIV
  case h_2 => cases h; rfl -- DIVU
  case h_3 => cases h; rfl -- REM
  case h_4 => cases h; rfl -- REMU
  case h_5 => cases h

/-- A division whose divisor is the pattern 0 traps with the dividend, and never looks at the destination's mode. -/
theorem division_by_zero {s s1 : State} {d a b : Name} {f : State → Int} (hr : Ready s (use3 d a b) s1)
    (hz : s1.upat b = 0) : s.division d a b f = .next (s1.takeTrap (mkTrap .divideByZero 0 (s1.ext a) 0)) := by
  simp [State.division, guarded_ready hr, hz, State.trap, divideByZero]

/-- With any other divisor a division ends in the narrowing that every integer result goes through. -/
theorem division_by_nonzero {s s1 : State} {d a b : Name} {f : State → Int} (hr : Ready s (use3 d a b) s1)
    (hz : s1.upat b ≠ 0) : s.division d a b f = s1.narrowInto [a, b] d (f s1) id := by
  simp [State.division, guarded_ready hr, hz]

/-- A division by a pattern that is not 0 writes its narrowed result, or raises WIDTH_OVERFLOW. -/
theorem divisionResult : DivisionResult := by
  intro i d a b f s s1 r hi hr hz
  have hn : exec i s = s1.narrowInto [a, b] d (f s1) id := by rw [exec_eq_division hi, division_by_nonzero hr hz]
  exact ⟨fun h => hn.trans (narrowInto_some h), fun h => hn.trans (narrowInto_none h)⟩

/-- A division by the pattern 0 raises DIVIDE_BY_ZERO. -/
theorem divisionByZero : DivisionByZero := by
  intro i d a b f s s1 hi hr hz
  rw [exec_eq_division hi, division_by_zero hr hz]

/-- Settles O2: the four divisions share one operation, which traps on a zero divisor before it narrows. -/
theorem divisionResults : Obligations.DivisionResults := ⟨divisionResult, divisionByZero⟩

end Sys2Proof.Claims

namespace Sys2Proof.Machine
open Sys2Proof Sys2Proof.Claims

/-! ## n63 (R32, R36) -/

@[simp] theorem Thread.name_zero (t : Thread) : t.name 63 = ⟨64, .signed, .wrap, 0, .none⟩ := rfl

@[simp] theorem Thread.setPat_zero (t : Thread) (p : Word) : t.setPat 63 p = t := rfl

@[simp] theorem State.pat_zero (s : State) : s.pat 63 = 0 := by simp [State.pat]

@[simp] theorem State.val_zero (s : State) : s.val 63 = 0 := by simp [State.val, patVal]

@[simp] theorem State.writeName_zero (s : State) (p : Word) : s.writeName 63 p = s := by
  rw [s.writeName_unbound 63 p (by rw [Thread.name_zero]), Thread.setPat_zero]

theorem Thread.narrow_zero (t : Thread) (x : Int) : t.narrow 63 x = Machine.narrow .signed 64 .wrap x := by
  rw [Thread.narrow, Thread.name_zero]

/-- A result for n63 leaves nothing but its flags. -/
theorem State.apply_put1_zero (s : State) (p : Word) (f : FlagWrite) :
    s.apply (put1 63 p f) = s.modThr (fun t => t.putFlags f) := by
  simp [State.apply, put1, Pending.none]

end Sys2Proof.Machine

namespace Sys2Proof.Claims
open Sys2Proof Sys2Proof.Machine

/-- Settles O14: n63 stands in every map as a 64-bit signed wrap name bound to nothing, and a wrap name holds every result. -/
theorem zeroName : Obligations.ZeroName := by
  intro s p x
  have hw : (s.thr.narrow 63 x).isSome = true := by rw [Thread.narrow_zero]; exact narrow_wrap _ _ _
  exact ⟨s.val_zero, s.writeName_zero p, s.thr.narrow_zero x, hw, s.apply_put1_zero p⟩

end Sys2Proof.Claims
end

section
/-! PROOFS. Decoding the word of an instruction gives the instruction back (R72 to R85). -/

namespace Sys2Proof
set_option Elab.async false

/-! ## Fields of a sum of terms -/

/-- A term above a field does not show in it. -/
theorem field_above {x k y m n : Nat} (h : k % (m * n) = 0) : (x + k * y) / m % n = x / m % n := by
  obtain ⟨q, rfl⟩ := Nat.dvd_of_mod_eq_zero h
  rcases Nat.eq_zero_or_pos m with rfl | hm
  · simp
  · rw [show x + m * n * q * y = x + m * (n * (q * y)) by ring, Nat.add_mul_div_left _ _ hm, Nat.add_mul_mod_self_left]

/-- Nor does a term below it, where nothing carries. -/
theorem field_below {x k y m n : Nat} (h : x % m + k * y < m) : (x + k * y) / m % n = x / m % n := by
  have e : x + k * y = (x % m + k * y) + m * (x / m) := by have := Nat.mod_add_div x m; omega
  rw [e, Nat.add_mul_div_left _ _ (by omega), Nat.div_eq_of_lt h, Nat.zero_add]

/-- A field reads the term that stands at it. -/
theorem field_at {x k y m n : Nat} (hk : k = m) (hx : x % (m * n) < m) (hy : y < n) : (x + k * y) / m % n = y := by
  subst hk
  have hm : 0 < k := by omega
  have e : x + k * y = (x % (k * n) + k * y) + k * (n * (x / (k * n))) := by
    have := Nat.mod_add_div x (k * n); rw [← Nat.mul_assoc]; omega
  rw [e, Nat.add_mul_div_left _ _ hm, Nat.add_mul_mod_self_left, Nat.add_mul_div_left _ _ hm, Nat.div_eq_of_lt hx,
    Nat.zero_add, Nat.mod_eq_of_lt hy]

/-! ## Coded values -/

theorem sfield_lt (n : Nat) (x : Int) : sfield n x < 2 ^ n := by
  have h := Int.emod_lt_of_pos x (show (0 : Int) < (2 ^ n : Nat) by exact_mod_cast Nat.two_pow_pos n)
  have h0 := Int.emod_nonneg x (show ((2 ^ n : Nat) : Int) ≠ 0 by exact_mod_cast (Nat.two_pow_pos n).ne')
  unfold sfield; omega

/-- A signed field reads back as the value that it holds (`h` and `k` are the half and the whole of its range). -/
theorem signed_sfield {n : Nat} {x : Int} (hx : fitsS n x = true) {h : Nat} {k : Int} (hh : h = 2 ^ (n - 1)) (hk : k = 2 * h)
    (hn : 0 < n) : (if sfield n x < h then (sfield n x : Int) else (sfield n x : Int) - k) = x := by
  have e : ((2 ^ n : Nat) : Int) = 2 * h := by
    obtain ⟨m, rfl⟩ := Nat.exists_eq_succ_of_ne_zero hn.ne'
    subst hh; push_cast [Nat.succ_sub_one, pow_succ]; ring
  have hb : -(h : Int) ≤ x ∧ x < h := by subst hh; simpa [fitsS] using hx
  have hv : (sfield n x : Int) = x % (2 * h) := by
    have := Int.emod_nonneg x (show (2 * (h : Int)) ≠ 0 by omega)
    rw [sfield, e]; omega
  clear hh
  rcases le_or_gt 0 x with h0 | h0
  · rw [Int.emod_eq_of_lt h0 (by omega)] at hv
    rw [if_pos (by omega), hv]
  · rw [← Int.add_emod_right, Int.emod_eq_of_lt (by omega) (by omega)] at hv
    rw [if_neg (by omega), hv, hk]; ring

theorem Tag.code_lt (t : Tag) : t.code < 16 := by cases t <;> decide

theorem Scope.code_lt (c : Scope) : c.code < 6 := by cases c <;> decide

theorem rmCode_lt (r : RMode) : rmCode r < 5 := by cases r <;> decide

theorem ovCode_lt (m : OvMode) : ovCode m < 3 := by cases m <;> decide

theorem kindCode_lt (k : TokKind) : kindCode k < 3 := by cases k <;> decide

theorem boolCode_lt (b : Bool) : boolCode b < 2 := by cases b <;> decide

theorem csrCode_lt (c : Csr) : csrCode c < 22 := by cases c <;> decide

theorem memFmtCode_lt (f : MemFmt) : memFmtCode f < 18 := by
  cases f with
  | tag t => have := t.code_lt; simp only [memFmtCode]; omega
  | mxfp6a => decide
  | mxfp6b => decide

theorem vopCode_lt (v : VOp) : vopCode v < 64 := by cases v <;> simp only [vopCode] <;> omega

@[simp] theorem tagOf_code (t : Tag) : tagOf t.code = t := by cases t <;> rfl

@[simp] theorem scopeOf_code (c : Scope) : scopeOf c.code = some c := by cases c <;> rfl

@[simp] theorem rmOf_rmCode (r : RMode) : rmOf (rmCode r) = some r := by cases r <;> rfl

@[simp] theorem ovOf_ovCode (m : OvMode) : ovOf (ovCode m) = some m := by cases m <;> rfl

@[simp] theorem kindOf_kindCode (k : TokKind) : kindOf (kindCode k) = some k := by cases k <;> rfl

@[simp] theorem boolOf_boolCode (b : Bool) : boolOf (boolCode b) = some b := by cases b <;> rfl

@[simp] theorem csrOf_csrCode (c : Csr) : csrOf (csrCode c) = some c := by cases c <;> rfl

@[simp] theorem memFmtOf_memFmtCode (f : MemFmt) : memFmtOf (memFmtCode f) = some f := by
  cases f with
  | tag t => simp [memFmtOf, memFmtCode, t.code_lt]
  | mxfp6a => rfl
  | mxfp6b => rfl

@[simp] theorem finOf_val {k : Nat} (i : Fin k) : finOf k i.val = some i := by simp [finOf]

theorem vopAt_above {x k y lo : Nat} (h : k % (2 ^ lo * 64) = 0) : vopAt (x + k * y) lo = vopAt x lo := by
  have hd : 2 ^ lo * 64 ∣ k := Nat.dvd_of_mod_eq_zero h
  have h1 : k % (2 ^ (lo + 5) * 2 ^ 1) = 0 := Nat.mod_eq_zero_of_dvd (by rwa [← Nat.pow_add, Nat.add_assoc, Nat.pow_add])
  have h2 : k % (2 ^ lo * 32) = 0 := Nat.mod_eq_zero_of_dvd (Dvd.dvd.trans ⟨2, by ring⟩ hd)
  simp only [vopAt, regAt, finAt, fld, field_above h1, field_above h2]
  rfl

/-- A vector operand field (R75): its top bit tells a register from a broadcast name. -/
theorem vopAt_at {x k lo : Nat} {v : VOp} (hk : k = 2 ^ lo) (hx : x % (2 ^ lo * 64) < 2 ^ lo) :
    vopAt (x + k * vopCode v) lo = v := by
  have hv := vopCode_lt v
  have e : (x + k * vopCode v) / 2 ^ lo % 64 = vopCode v := field_at hk hx hv
  have e1 : fld (x + k * vopCode v) (lo + 5) 1 = vopCode v / 32 := by
    rw [fld, Nat.pow_add, ← Nat.div_div_eq_div_mul]; omega
  have e2 : (x + k * vopCode v) / 2 ^ lo % 32 = vopCode v % 32 := by omega
  cases v with
  | reg i =>
    rw [vopAt, if_pos (by rw [e1, vopCode]; omega)]
    exact congrArg _ (Fin.ext (e2.trans (by simp only [vopCode]; omega)))
  | bcast i =>
    rw [vopAt, if_neg (by rw [e1, vopCode]; omega)]
    exact congrArg _ (Fin.ext (e2.trans (by simp only [vopCode]; omega)))

/-! ## The words -/

/-- What is claimed of an instruction and its word. -/
def RoundTrips (i : Instr) : Prop :=
  decodeWord (encode i) = .ok i ∧ encode i < 2 ^ (8 * encodeLen i) ∧ lengthOf (encode i) = encodeLen i

theorem RoundTrips.four {i : Instr} (hl : encodeLen i = 4) (hd : decode32 (encode i) = .ok i)
    (hb : encode i < 4294967296 ∧ encode i % 2 = 1) : RoundTrips i := by
  refine ⟨?_, ?_, ?_⟩
  · rw [decodeWord, if_neg (by omega), hd]
  · rw [hl]; exact hb.1
  · rw [lengthOf, if_neg (by omega), hl]

theorem RoundTrips.two {i : Instr} (hl : encodeLen i = 2) (hd : decode16 (encode i) = .ok i)
    (hb : encode i < 65536 ∧ encode i % 2 = 0) : RoundTrips i := by
  refine ⟨?_, ?_, ?_⟩
  · rw [decodeWord, if_pos (by omega), hd]
  · rw [hl]; exact hb.1
  · rw [lengthOf, if_pos (by omega), hl]

/-- Major 0x01 (R84). -/
theorem roundTrips_m01 (d a b : Name) : ∀ i ∈ [Instr.add d a b, .sub d a b, .mul d a b, .mulh d a b, .div d a b, .divu d a b,
    .rem d a b, .remu d a b, .and d a b, .or d a b, .xor d a b, .andn d a b, .shl d a b, .shr d a b, .sra d a b, .rol d a b,
    .min d a b, .minu d a b, .max d a b, .maxu d a b, .ceq d a b, .cne d a b, .clt d a b, .cltu d a b, .cle d a b,
    .cleu d a b, .sel d a b, .bfx d a b, .bfi d a b, .clz d a, .popc d a, .abs d a, .neg d a, .not d a, .mov d a], i.wf = true
    → RoundTrips i := by
  simp only [List.forall_mem_cons, List.not_mem_nil, false_implies, implies_true, and_true]
  and_intros
  all_goals
    intro hi
    refine .four rfl ?_ ?_
    · simp (disch := omega) [encode, decode32, decodeM01, checked, hi, nameAt, finAt, fld, field_above, field_below, field_at]
    · simp only [encode]; omega

/-- Major 0x02 (R84). -/
theorem roundTrips_m02 (d a : Name) (imm : Int) : ∀ i ∈ [Instr.addi d a imm, .andi d a imm, .ori d a imm, .xori d a imm,
    .clti d a imm], i.wf = true → RoundTrips i := by
  have himm := sfield_lt 10 imm
  simp only [List.forall_mem_cons, List.not_mem_nil, false_implies, implies_true, and_true]
  and_intros
  all_goals
    intro hi
    refine .four rfl ?_ ?_
    · simp (disch := omega) [encode, decode32, decodeM02, checked, hi, nameAt, finAt, fld, sfld, field_above, field_below,
        field_at, signed_sfield hi]
    · simp only [encode]; omega

/-- Major 0x03 (R84). -/
theorem roundTrips_m03 (d : Name) (imm : Int) (hi : (Instr.ldk d imm).wf = true) : RoundTrips (.ldk d imm) := by
  have himm := sfield_lt 19 imm
  refine .four rfl ?_ ?_
  · simp (disch := omega) [encode, decode32, decodeM03, checked, hi, nameAt, finAt, fld, sfld, field_above, field_at,
      signed_sfield hi]
  · simp only [encode]; omega

/-- Major 0x05 (R84). -/
theorem roundTrips_m05 (d : Name) (md : OvMode) (a : Name) : ∀ i ∈ [Instr.mode d md, .width d a, .mff d, .mtf a], i.wf = true
    → RoundTrips i := by
  have hmd := ovCode_lt md
  simp only [List.forall_mem_cons, List.not_mem_nil, false_implies, implies_true, and_true]
  and_intros
  all_goals
    intro hi
    refine .four rfl ?_ ?_
    · simp (disch := omega) [encode, decode32, decodeM05, checked, hi, nameAt, finAt, fld, field_above, field_below, field_at]
    · simp only [encode]; omega

/-- Major 0x06 (R84). -/
theorem roundTrips_m06 (a b : Name) (off : Int) : ∀ i ∈ [Instr.beq a b off, .bne a b off, .blt a b off, .bge a b off,
    .bltu a b off, .bgeu a b off, .bsf off], i.wf = true → RoundTrips i := by
  have hoff := sfield_lt 10 off
  simp only [List.forall_mem_cons, List.not_mem_nil, false_implies, implies_true, and_true]
  and_intros
  all_goals
    intro hi
    refine .four rfl ?_ ?_
    · simp (disch := omega) [encode, decode32, decodeM06, checked, hi, nameAt, finAt, fld, sfld, field_above, field_below,
        field_at, signed_sfield hi]
    · simp only [encode]; omega

/-- Major 0x07 (R84). -/
theorem roundTrips_m07 (off : Int) (hi : (Instr.jmp off).wf = true) : RoundTrips (.jmp off) := by
  have hoff := sfield_lt 25 off
  refine .four rfl ?_ ?_
  · simp (disch := omega) [encode, decode32, decodeM07, checked, hi, fld, sfld, field_above, field_at, signed_sfield hi]
  · simp only [encode]; omega

/-- Major 0x08 (R84). -/
theorem roundTrips_m08 (off : Int) (hi : (Instr.call off).wf = true) : RoundTrips (.call off) := by
  have hoff := sfield_lt 25 off
  refine .four rfl ?_ ?_
  · simp (disch := omega) [encode, decode32, decodeM08, checked, hi, fld, sfld, field_above, field_at, signed_sfield hi]
  · simp only [encode]; omega

/-- Major 0x09 (R84). -/
theorem roundTrips_m09 (a : Name) (imm : Int) : ∀ i ∈ [Instr.jmpr a imm, .callr a imm], i.wf = true → RoundTrips i := by
  have himm := sfield_lt 10 imm
  simp only [List.forall_mem_cons, List.not_mem_nil, false_implies, implies_true, and_true]
  and_intros
  all_goals
    intro hi
    refine .four rfl ?_ ?_
    · simp (disch := omega) [encode, decode32, decodeM09, checked, hi, nameAt, finAt, fld, sfld, field_above, field_below,
        field_at, signed_sfield hi]
    · simp only [encode]; omega

/-- Major 0x0A (R84). -/
theorem roundTrips_m0a (d a b : Name) (rm : RMode) : ∀ i ∈ [Instr.fadd d a b, .fsub d a b, .fmul d a b, .fdiv d a b,
    .fsqrt d a, .fmin d a b, .fmax d a b, .fceq d a b, .fclt d a b, .fcle d a b, .fclass d a, .fneg d a, .fabs d a,
    .fcvt d a rm, .fcvti d a rm, .fcvtf d a rm], i.wf = true → RoundTrips i := by
  have hrm := rmCode_lt rm
  simp only [List.forall_mem_cons, List.not_mem_nil, false_implies, implies_true, and_true]
  and_intros
  all_goals
    intro hi
    refine .four rfl ?_ ?_
    · simp (disch := omega) [encode, decode32, decodeM0A, checked, hi, nameAt, finAt, fld, field_above, field_below, field_at]
    · simp only [encode]; omega

/-- Major 0x0B (R84). -/
theorem roundTrips_m0b (d a b : Name) (look : Look) : ∀ i ∈ [Instr.fma d a b look, .fms d a b look, .fnma d a b look],
    i.wf = true → RoundTrips i := by
  simp only [List.forall_mem_cons, List.not_mem_nil, false_implies, implies_true, and_true]
  and_intros
  all_goals
    intro hi
    refine .four rfl ?_ ?_
    · simp (disch := omega) [encode, decode32, decodeM0B, checked, hi, nameAt, lookAt, finAt, fld, field_above, field_below,
        field_at]
    · simp only [encode]; omega

/-- Major 0x0C (R84). -/
theorem roundTrips_m0c (d a b : Name) : ∀ i ∈ [Instr.bmov d a b, .bset d a b], i.wf = true → RoundTrips i := by
  simp only [List.forall_mem_cons, List.not_mem_nil, false_implies, implies_true, and_true]
  and_intros
  all_goals
    intro hi
    refine .four rfl ?_ ?_
    · simp (disch := omega) [encode, decode32, decodeM0C, checked, hi, nameAt, finAt, fld, field_above, field_below, field_at]
    · simp only [encode]; omega

/-- Major 0x0D (R84). -/
theorem roundTrips_m0d (d : Name) (csr : Csr) : ∀ i ∈ [Instr.csrr d csr, .csrw d csr], i.wf = true → RoundTrips i := by
  have hcsr := csrCode_lt csr
  simp only [List.forall_mem_cons, List.not_mem_nil, false_implies, implies_true, and_true]
  and_intros
  all_goals
    intro hi
    refine .four rfl ?_ ?_
    · simp (disch := omega) [encode, decode32, decodeM0D, checked, hi, nameAt, finAt, fld, field_above, field_below, field_at]
    · simp only [encode]; omega

/-- Major 0x10 (R84). -/
theorem roundTrips_m10 (d a : Name) (imm : Int) (look : Look) : ∀ i ∈ [Instr.ldb d a imm look, .ldh d a imm look,
    .ldw d a imm look, .ldd d a imm look, .ldbu d a imm look, .ldhu d a imm look, .ldwu d a imm look, .ldff d a imm],
    i.wf = true → RoundTrips i := by
  have himm := sfield_lt 6 imm
  simp only [List.forall_mem_cons, List.not_mem_nil, false_implies, implies_true, and_true]
  and_intros
  all_goals
    intro hi
    refine .four rfl ?_ ?_
    · simp (disch := omega) [encode, decode32, decodeM10, checked, hi, nameAt, lookAt, finAt, fld, sfld, field_above,
        field_below, field_at, signed_sfield hi]
    · simp only [encode]; omega

/-- Major 0x11 (R84). -/
theorem roundTrips_m11 (d a : Name) (imm : Int) (look : Look) : ∀ i ∈ [Instr.stb d a imm look, .sth d a imm look,
    .stw d a imm look, .std d a imm look], i.wf = true → RoundTrips i := by
  have himm := sfield_lt 6 imm
  simp only [List.forall_mem_cons, List.not_mem_nil, false_implies, implies_true, and_true]
  and_intros
  all_goals
    intro hi
    refine .four rfl ?_ ?_
    · simp (disch := omega) [encode, decode32, decodeM11, checked, hi, nameAt, lookAt, finAt, fld, sfld, field_above,
        field_below, field_at, signed_sfield hi]
    · simp only [encode]; omega

/-- Major 0x12 (R84). -/
theorem roundTrips_m12 (d : VReg) (a : Name) (tag : Tag) (look : Look) (fmt : MemFmt) : ∀ i ∈ [Instr.vld d a tag look,
    .vst d a tag look, .vldx d a fmt look, .vstx d a fmt look, .vldb d a tag look, .vgath d a tag look, .vscat d a tag look],
    i.wf = true → RoundTrips i := by
  have htag := tag.code_lt
  have hfmt := memFmtCode_lt fmt
  simp only [List.forall_mem_cons, List.not_mem_nil, false_implies, implies_true, and_true]
  and_intros
  all_goals
    intro hi
    refine .four rfl ?_ ?_
    · simp (disch := omega) [encode, decode32, decodeM12, checked, hi, nameAt, regAt, lookAt, finAt, fld, field_above,
        field_below, field_at]
    · simp only [encode]; omega

/-- Major 0x13 (R84). -/
theorem roundTrips_m13 (d a : Name) (imm : Int) (look : Look) : ∀ i ∈ [Instr.lde d a imm, .stf d a imm, .stff d a imm look,
    .feq d a imm look, .fempty a imm look, .fefill a imm look], i.wf = true → RoundTrips i := by
  have himm := sfield_lt 6 imm
  simp only [List.forall_mem_cons, List.not_mem_nil, false_implies, implies_true, and_true]
  and_intros
  all_goals
    intro hi
    refine .four rfl ?_ ?_
    · simp (disch := omega) [encode, decode32, decodeM13, checked, hi, nameAt, lookAt, finAt, fld, sfld, field_above,
        field_below, field_at, signed_sfield hi]
    · simp only [encode]; omega

/-- Major 0x14 (R84). -/
theorem roundTrips_m14 (d a b : Name) (scope : Scope) : ∀ i ∈ [Instr.aadd d a b scope, .amin d a b scope, .aminu d a b scope,
    .amax d a b scope, .amaxu d a b scope, .aand d a b scope, .aor d a b scope, .axor d a b scope, .aswp d a b scope,
    .acas d a b scope, .radd a b scope, .rmin a b scope, .rmax a b scope, .ror a b scope, .rfadd a b scope], i.wf = true
    → RoundTrips i := by
  have hscope := scope.code_lt
  simp only [List.forall_mem_cons, List.not_mem_nil, false_implies, implies_true, and_true]
  and_intros
  all_goals
    intro hi
    refine .four rfl ?_ ?_
    · simp (disch := omega) [encode, decode32, decodeM14, checked, hi, nameAt, finAt, fld, field_above, field_below, field_at]
    · simp only [encode]; omega

/-- Major 0x15 (R84). -/
theorem roundTrips_m15 (d a : Name) (scope : Scope) (b : Name) : ∀ i ∈ [Instr.lrw d a scope, .sch a b scope, .lrx a scope,
    .phaseRel scope, .phaseAcq scope, .phaseAr scope], i.wf = true → RoundTrips i := by
  have hscope := scope.code_lt
  simp only [List.forall_mem_cons, List.not_mem_nil, false_implies, implies_true, and_true]
  and_intros
  all_goals
    intro hi
    refine .four rfl ?_ ?_
    · simp (disch := omega) [encode, decode32, decodeM15, checked, hi, nameAt, finAt, fld, field_above, field_below, field_at]
    · simp only [encode]; omega

/-- Major 0x16 (R84). -/
theorem roundTrips_m16 (a b d : Name) (look : Look) (item : Fin 7) : ∀ i ∈ [Instr.enq a b, .deq d a, .enqn d a b look,
    .deqn d a look, .enqw d a b, .deqw d a b, .qstat d a item look, .qbind d a], i.wf = true → RoundTrips i := by
  simp only [List.forall_mem_cons, List.not_mem_nil, false_implies, implies_true, and_true]
  and_intros
  all_goals
    intro hi
    refine .four rfl ?_ ?_
    · simp (disch := omega) [encode, decode32, decodeM16, checked, hi, nameAt, lookAt, finAt, fld, field_above, field_below,
        field_at]
    · simp only [encode]; omega

/-- Major 0x17 (R84). -/
theorem roundTrips_m17 (d a : Name) (units : Fin 5) : ∀ i ∈ [Instr.sptest d a, .spcast d a, .spmake d a, .spcore d a,
    .split units], i.wf = true → RoundTrips i := by
  simp only [List.forall_mem_cons, List.not_mem_nil, false_implies, implies_true, and_true]
  and_intros
  all_goals
    intro hi
    refine .four rfl ?_ ?_
    · simp (disch := omega) [encode, decode32, decodeM17, checked, hi, nameAt, finAt, fld, field_above, field_below, field_at]
    · simp only [encode]; omega

/-- Major 0x18 (R84). -/
theorem roundTrips_m18 (d a b : Name) (item : Fin 8) (g : Grp) (scope : Scope) : ∀ i ∈ [Instr.spawn d a b, .tid d item,
    .join g a scope, .leave g, .gbar g, .rotr d, .rotw a], i.wf = true → RoundTrips i := by
  have hscope := scope.code_lt
  simp only [List.forall_mem_cons, List.not_mem_nil, false_implies, implies_true, and_true]
  and_intros
  all_goals
    intro hi
    refine .four rfl ?_ ?_
    · simp (disch := omega) [encode, decode32, decodeM18, checked, hi, nameAt, finAt, fld, field_above, field_below, field_at]
    · simp only [encode]; omega

theorem roundTrips_m18' (d : Name) (g : Grp) (item : Fin 4) (hi : (Instr.gcnt d g item).wf = true) : RoundTrips (.gcnt d g
    item) := by
  refine .four rfl ?_ ?_
  · simp (disch := omega) [encode, decode32, decodeM18, checked, hi, nameAt, finAt, fld, field_above, field_below, field_at]
  · simp only [encode]; omega

/-- Major 0x19 (R84). -/
theorem roundTrips_m19 (d : Name) (dir : Fin 4) (a : Name) : ∀ i ∈ [Instr.link d dir, .unlink d, .ldir a, .ldirr d],
    i.wf = true → RoundTrips i := by
  simp only [List.forall_mem_cons, List.not_mem_nil, false_implies, implies_true, and_true]
  and_intros
  all_goals
    intro hi
    refine .four rfl ?_ ?_
    · simp (disch := omega) [encode, decode32, decodeM19, checked, hi, nameAt, finAt, fld, field_above, field_below, field_at]
    · simp only [encode]; omega

/-- Major 0x1A (R84). -/
theorem roundTrips_m1a (d : VReg) (a b : VOp) : ∀ i ∈ [Instr.vadd d a b, .vsub d a b, .vmul d a b, .vmin d a b, .vmax d a b,
    .vminu d a b, .vmaxu d a b, .vand d a b, .vor d a b, .vxor d a b, .vshl d a b, .vshr d a b, .vsra d a b, .vceq d a b,
    .vclt d a b, .vcle d a b, .vsel d a b], i.wf = true → RoundTrips i := by
  have ha := vopCode_lt a
  have hb := vopCode_lt b
  simp only [List.forall_mem_cons, List.not_mem_nil, false_implies, implies_true, and_true]
  and_intros
  all_goals
    intro hi
    refine .four rfl ?_ ?_
    · simp (disch := omega) [encode, decode32, decodeM1A, checked, hi, regAt, finAt, fld, field_above, field_below, field_at,
        vopAt_above, vopAt_at]
    · simp only [encode]; omega

theorem roundTrips_m1a' (d a : VReg) (b : VOp) : ∀ i ∈ [Instr.vabs d a, .vneg d a, .vmov d a, .vperm d a b, .vradd d a,
    .vrmax d a, .vrmin d a], i.wf = true → RoundTrips i := by
  have hb := vopCode_lt b
  simp only [List.forall_mem_cons, List.not_mem_nil, false_implies, implies_true, and_true]
  and_intros
  all_goals
    intro hi
    refine .four rfl ?_ ?_
    · simp (disch := omega) [encode, decode32, decodeM1A, checked, hi, regAt, finAt, fld, field_above, field_below, field_at,
        vopAt_at]
    · simp only [encode]; omega

theorem roundTrips_m1a'' (d : VReg) (a : LowName) (tag : Tag) (hi : (Instr.vbcast d a tag).wf = true) : RoundTrips (.vbcast d
    a tag) := by
  have htag := tag.code_lt
  refine .four rfl ?_ ?_
  · simp (disch := omega) [encode, decode32, decodeM1A, checked, hi, regAt, finAt, fld, field_above, field_below, field_at]
  · simp only [encode]; omega

theorem roundTrips_m1a''' (d : Name) (a : VReg) (b : Name) (hi : (Instr.vext d a b).wf = true) : RoundTrips (.vext d a b) :=
    by
  refine .four rfl ?_ ?_
  · simp (disch := omega) [encode, decode32, decodeM1A, checked, hi, nameAt, regAt, finAt, fld, field_above, field_below,
      field_at]
  · simp only [encode]; omega

theorem roundTrips_m1a'''' (d : VReg) (a b : Name) (hi : (Instr.vins d a b).wf = true) : RoundTrips (.vins d a b) := by
  refine .four rfl ?_ ?_
  · simp (disch := omega) [encode, decode32, decodeM1A, checked, hi, nameAt, regAt, finAt, fld, field_above, field_below,
      field_at]
  · simp only [encode]; omega

/-- Major 0x1B (R84). -/
theorem roundTrips_m1b (d : VReg) (a b : VOp) (look : Look) : ∀ i ∈ [Instr.vfma d a b look, .vfms d a b look,
    .vdiv d a b look], i.wf = true → RoundTrips i := by
  have ha := vopCode_lt a
  have hb := vopCode_lt b
  simp only [List.forall_mem_cons, List.not_mem_nil, false_implies, implies_true, and_true]
  and_intros
  all_goals
    intro hi
    refine .four rfl ?_ ?_
    · simp (disch := omega) [encode, decode32, decodeM1B, checked, hi, regAt, lookAt, finAt, fld, field_above, field_below,
        field_at, vopAt_above, vopAt_at]
    · simp only [encode]; omega

theorem roundTrips_m1b' (d a : VReg) (look : Look) (hi : (Instr.vsqrt d a look).wf = true) : RoundTrips (.vsqrt d a look) :=
    by
  refine .four rfl ?_ ?_
  · simp (disch := omega) [encode, decode32, decodeM1B, checked, hi, regAt, lookAt, finAt, fld, field_above, field_below,
      field_at]
  · simp only [encode]; omega

/-- Major 0x1C (R84). -/
theorem roundTrips_m1c (d a : VReg) (tag : Tag) (rm : RMode) : ∀ i ∈ [Instr.vcvt d a tag rm, .vdxq d a tag rm,
    .vretag d a tag], i.wf = true → RoundTrips i := by
  have htag := tag.code_lt
  have hrm := rmCode_lt rm
  simp only [List.forall_mem_cons, List.not_mem_nil, false_implies, implies_true, and_true]
  and_intros
  all_goals
    intro hi
    refine .four rfl ?_ ?_
    · simp (disch := omega) [encode, decode32, decodeM1C, checked, hi, regAt, finAt, fld, field_above, field_below, field_at]
    · simp only [encode]; omega

theorem roundTrips_m1c' (d : Name) (a : VReg) (item : Fin 5) : ∀ i ∈ [Instr.vtag d a, .vsexr d a item], i.wf = true
    → RoundTrips i := by
  simp only [List.forall_mem_cons, List.not_mem_nil, false_implies, implies_true, and_true]
  and_intros
  all_goals
    intro hi
    refine .four rfl ?_ ?_
    · simp (disch := omega) [encode, decode32, decodeM1C, checked, hi, nameAt, regAt, finAt, fld, field_above, field_below,
        field_at]
    · simp only [encode]; omega

theorem roundTrips_m1c'' (d : VReg) (a : Name) (item : Fin 5) (hi : (Instr.vsexw d a item).wf = true) : RoundTrips (.vsexw d a
    item) := by
  refine .four rfl ?_ ?_
  · simp (disch := omega) [encode, decode32, decodeM1C, checked, hi, nameAt, regAt, finAt, fld, field_above, field_below,
      field_at]
  · simp only [encode]; omega

/-- Major 0x1D (R84). -/
theorem roundTrips_m1d (k : Tok) (a : VReg) (b d : Name) (look : Look) : ∀ i ∈ [Instr.cpy k a b, .toks d look], i.wf = true
    → RoundTrips i := by
  simp only [List.forall_mem_cons, List.not_mem_nil, false_implies, implies_true, and_true]
  and_intros
  all_goals
    intro hi
    refine .four rfl ?_ ?_
    · simp (disch := omega) [encode, decode32, decodeM1D, checked, hi, nameAt, regAt, lookAt, finAt, fld, field_above,
        field_below, field_at]
    · simp only [encode]; omega

theorem roundTrips_m1d' (d a b : Name) (look : Look) : ∀ i ∈ [Instr.barm d a b look, .bwait d a b, .bpoll d a b look,
    .berr d a look, .bclr d a look], i.wf = true → RoundTrips i := by
  simp only [List.forall_mem_cons, List.not_mem_nil, false_implies, implies_true, and_true]
  and_intros
  all_goals
    intro hi
    refine .four rfl ?_ ?_
    · simp (disch := omega) [encode, decode32, decodeM1D, checked, hi, nameAt, lookAt, finAt, fld, field_above, field_below,
        field_at]
    · simp only [encode]; omega

/-- Major 0x1E (R84). -/
theorem roundTrips_m1e (d : Name) (item : Fin 13) (b : Name) (look : Look) (a : Name) : ∀ i ∈ [Instr.lpatch d item b look,
    .larm d look, .lfire d look, .lstat d a look], i.wf = true → RoundTrips i := by
  simp only [List.forall_mem_cons, List.not_mem_nil, false_implies, implies_true, and_true]
  and_intros
  all_goals
    intro hi
    refine .four rfl ?_ ?_
    · simp (disch := omega) [encode, decode32, decodeM1E, checked, hi, nameAt, lookAt, finAt, fld, field_above, field_below,
        field_at]
    · simp only [encode]; omega

/-- Major 0x1F (R84). -/
theorem roundTrips_m1f (a : VReg) (look : Look) (k : Tok) (b : Name) : ∀ i ∈ [Instr.mldb a look, .mmac k a b look],
    i.wf = true → RoundTrips i := by
  simp only [List.forall_mem_cons, List.not_mem_nil, false_implies, implies_true, and_true]
  and_intros
  all_goals
    intro hi
    refine .four rfl ?_ ?_
    · simp (disch := omega) [encode, decode32, decodeM1F, checked, hi, nameAt, regAt, lookAt, finAt, fld, field_above,
        field_below, field_at]
    · simp only [encode]; omega

theorem roundTrips_m1f' (d a b : Name) (look : Look) : ∀ i ∈ [Instr.mrun d a b, .mdrn a b look, .mhnd a b, .mchk d a look,
    .macq a, .mrel a], i.wf = true → RoundTrips i := by
  simp only [List.forall_mem_cons, List.not_mem_nil, false_implies, implies_true, and_true]
  and_intros
  all_goals
    intro hi
    refine .four rfl ?_ ?_
    · simp (disch := omega) [encode, decode32, decodeM1F, checked, hi, nameAt, lookAt, finAt, fld, field_above, field_below,
        field_at]
    · simp only [encode]; omega

/-- Major 0x20 (R84). -/
theorem roundTrips_m20 (d a : Name) (md : Fin 4) (hi : (Instr.srng d a md).wf = true) : RoundTrips (.srng d a md) := by
  refine .four rfl ?_ ?_
  · simp (disch := omega) [encode, decode32, decodeM20, checked, hi, nameAt, finAt, fld, field_above, field_below, field_at]
  · simp only [encode]; omega

/-- Major 0x21 (R84). -/
theorem roundTrips_m21 (d a : Name) (md : Bool) (action : Fin 3) (b : VReg) (item : Fin 5) : ∀ i ∈ [Instr.ctxsv d a,
    .ctxld d a, .preempt d a md, .unfreeze d a action, .errpop d b, .dtget d item, .spill d a], i.wf = true
    → RoundTrips i := by
  have hmd := boolCode_lt md
  simp only [List.forall_mem_cons, List.not_mem_nil, false_implies, implies_true, and_true]
  and_intros
  all_goals
    intro hi
    refine .four rfl ?_ ?_
    · simp (disch := omega) [encode, decode32, decodeM21, checked, hi, nameAt, regAt, finAt, fld, field_above, field_below,
        field_at]
    · simp only [encode]; omega

theorem roundTrips_m21' (d a : Name) (md : Fin 3) (hi : (Instr.dtset d a md).wf = true) : RoundTrips (.dtset d a md) := by
  refine .four rfl ?_ ?_
  · simp (disch := omega) [encode, decode32, decodeM21, checked, hi, nameAt, finAt, fld, field_above, field_below, field_at]
  · simp only [encode]; omega

/-- Major 0x22 (R84). -/
theorem roundTrips_m22 (d a : Name) (b : VReg) (look : Look) (item : Fin 8) : ∀ i ∈ [Instr.rinv d a b look, .rinvw d a b,
    .rstat d a item look, .tbr d look, .waitt d a], i.wf = true → RoundTrips i := by
  simp only [List.forall_mem_cons, List.not_mem_nil, false_implies, implies_true, and_true]
  and_intros
  all_goals
    intro hi
    refine .four rfl ?_ ?_
    · simp (disch := omega) [encode, decode32, decodeM22, checked, hi, nameAt, regAt, lookAt, finAt, fld, field_above,
        field_below, field_at]
    · simp only [encode]; omega

theorem roundTrips_m22' (k : Tok) (a : VReg) (b : Name) (hi : (Instr.coll k a b).wf = true) : RoundTrips (.coll k a b) := by
  refine .four rfl ?_ ?_
  · simp (disch := omega) [encode, decode32, decodeM22, checked, hi, nameAt, regAt, finAt, fld, field_above, field_below,
      field_at]
  · simp only [encode]; omega

/-- The shifts by an immediate, the wide immediates: unsigned fields whose values stay in them. -/
theorem roundTrips_unsigned (d a : Name) (n : Nat) : ∀ i ∈ [Instr.shli d a n, .shri d a n, .srai d a n, .ldks d n, .resize d n,
    .trap n], i.wf = true → RoundTrips i := by
  simp only [List.forall_mem_cons, List.not_mem_nil, false_implies, implies_true, and_true]
  and_intros
  all_goals
    intro hi
    have hn := hi
    simp only [Instr.wf, decide_eq_true_eq] at hn
    refine .four rfl ?_ ?_
    · simp (disch := omega) [encode, decode32, decodeM02, decodeM04, decodeM05, decodeM0D, checked, hi, nameAt, finAt, fld,
        field_above, field_below, field_at]
    · simp only [encode]; omega

/-- Majors 0x3E and 0x3F (R87). -/
theorem roundTrips_expansion (b : Bool) (n : Nat) (hi : (Instr.firmwareExpansion b n).wf = true) :
    RoundTrips (.firmwareExpansion b n) := by
  have hn := hi
  simp only [Instr.wf, decide_eq_true_eq] at hn
  have hb := boolCode_lt b
  refine .four rfl ?_ ?_
  · cases b <;> simp (disch := omega) [encode, boolCode, decode32, fld, field_above, field_at]
  · simp only [encode]; omega

/-- The words without operands. -/
theorem roundTrips_nullary : ∀ i ∈ [Instr.sfclr, .eret, .brk, .fencei, .quit, .yield, .commit, .nop, .yield16, .quit16, .rdone,
    .fencei16], i.wf = true → RoundTrips i := by
  simp only [List.forall_mem_cons, List.not_mem_nil, false_implies, implies_true, and_true]
  and_intros
  all_goals exact fun _ => ⟨rfl, by decide, rfl⟩

/-! ## 16-bit words (R79 to R83) -/

/-- What is read of a short word before its class decides. -/
theorem decode16_class {w c : Nat} (h : 0 < w) (hb : w < 65536) (hc : fld w 1 2 = c) :
    (c = 0 → decode16 w = if fld w 15 1 = 0 then decodeShort0 w else decodeShort1 w) ∧
    (c = 1 → decode16 w = if fld w 15 1 = 0 then decodeRep w else decodeWaitk w) ∧ (c = 2 → decode16 w = decodeMovis w) := by
  rw [decode16, if_neg (by omega), hc]
  refine ⟨?_, ?_, ?_⟩ <;> rintro rfl <;> rfl

theorem roundTrips_add16 (d b : Fin 16) (hi : (Instr.add16 d b).wf = true) : RoundTrips (.add16 d b) := by
  have hn := hi
  simp only [Instr.wf, decide_eq_true_eq] at hn
  have hb : 0 < encode (.add16 d b) ∧ encode (.add16 d b) < 65536 := by simp only [encode]; omega
  refine .two rfl ?_ (by simp only [encode]; omega)
  have e1 : fld (encode (.add16 d b)) 15 1 = 0 := by simp only [encode, fld]; omega
  have e2 : fld (encode (.add16 d b)) 3 4 = 0 := by simp only [encode, fld]; omega
  have ed : finAt 16 (by decide) (encode (.add16 d b)) 7 = d := Fin.ext (by simp only [encode, finAt]; omega)
  have eb : finAt 16 (by decide) (encode (.add16 d b)) 11 = b := Fin.ext (by simp only [encode, finAt]; omega)
  rw [(decode16_class hb.1 hb.2 rfl).1 (by simp only [encode, fld]; omega)]
  simp [decodeShort0, e1, e2, ed, eb, checked, hi]

/-- The other short lane operations (R80): each names its class in its lowest bits. -/
theorem roundTrips_lane16 (d b : Fin 16) : ∀ i ∈ [Instr.sub16 d b, .mul16 d b, .and16 d b, .or16 d b, .xor16 d b, .shl16 d b,
    .shr16 d b, .sra16 d b, .min16 d b, .max16 d b, .mov16 d b, .neg16 d b, .not16 d b, .abs16 d b, .clt16 d b, .vadd16 d b,
    .vsub16 d b, .vmul16 d b, .vand16 d b, .vor16 d b, .vxor16 d b, .vshl16 d b, .vshr16 d b, .vsra16 d b, .vmin16 d b,
    .vmax16 d b, .vmov16 d b, .vneg16 d b, .vabs16 d b, .vclt16 d b], i.wf = true → RoundTrips i := by
  simp only [List.forall_mem_cons, List.not_mem_nil, false_implies, implies_true, and_true]
  and_intros
  all_goals
    intro hi
    refine .two rfl ?_ (by simp only [encode]; omega)
    rw [(decode16_class (by simp only [encode]; omega) (by simp only [encode]; omega) rfl).1 (by simp only [encode, fld]; omega)]
    simp (disch := omega) [encode, decodeShort0, decodeShort1, checked, hi, finAt, fld, field_above, field_below, field_at,
      -Nat.add_div_left]

theorem roundTrips_rep (c : Fin 64) (x y z : Fin 4) (hi : (Instr.rep c x y z).wf = true) : RoundTrips (.rep c x y z) := by
  refine .two rfl ?_ (by simp only [encode]; omega)
  rw [(decode16_class (by simp only [encode]; omega) (by simp only [encode]; omega) rfl).2.1 (by simp only [encode, fld]; omega)]
  simp (disch := omega) [encode, decodeRep, checked, hi, finAt, fld, field_above, field_below, field_at]

theorem roundTrips_waitk (n : Nat) (k : TokKind) (hi : (Instr.waitk n k).wf = true) : RoundTrips (.waitk n k) := by
  have hn := hi
  simp only [Instr.wf, decide_eq_true_eq] at hn
  have hk := kindCode_lt k
  refine .two rfl ?_ (by simp only [encode]; omega)
  rw [(decode16_class (by simp only [encode]; omega) (by simp only [encode]; omega) rfl).2.1 (by simp only [encode, fld]; omega)]
  simp (disch := omega) [encode, decodeWaitk, checked, hi, fld, field_above, field_below, field_at,
    Nat.ne_of_gt hn.1]

theorem roundTrips_movis (d : Fin 16) (imm : Int) (hi : (Instr.movis d imm).wf = true) : RoundTrips (.movis d imm) := by
  have hb := sfield_lt 7 imm
  refine .two rfl ?_ (by simp only [encode]; omega)
  rw [(decode16_class (by simp only [encode]; omega) (by simp only [encode]; omega) rfl).2.2 (by simp only [encode, fld]; omega)]
  simp (disch := omega) [encode, decodeMovis, checked, hi, finAt, fld, sfld, field_above, field_below, field_at,
    signed_sfield hi]

/-- Every well-formed instruction that has a word comes back from it. -/
theorem roundTrips (i : Instr) (hi : i.wf = true) (hw : i.hasWord = true) : RoundTrips i := by
  cases i with
  | add d a b | sub d a b | mul d a b | mulh d a b | div d a b | divu d a b | rem d a b | remu d a b | and d a b
    | or d a b | xor d a b | andn d a b | shl d a b | shr d a b | sra d a b | rol d a b | min d a b | minu d a b
    | max d a b | maxu d a b | ceq d a b | cne d a b | clt d a b | cltu d a b | cle d a b | cleu d a b | sel d a b
    | bfx d a b | bfi d a b =>
    exact roundTrips_m01 d a b _ (by simp) hi
  | clz d a | popc d a | abs d a | neg d a | not d a | mov d a => exact roundTrips_m01 d a 0 _ (by simp) hi
  | addi d a imm | andi d a imm | ori d a imm | xori d a imm | clti d a imm =>
    exact roundTrips_m02 d a imm _ (by simp) hi
  | ldk d imm => exact roundTrips_m03 d imm hi
  | mode d md => exact roundTrips_m05 d md 0 _ (by simp) hi
  | width d a => exact roundTrips_m05 d .wrap a _ (by simp) hi
  | mff d => exact roundTrips_m05 d .wrap 0 _ (by simp) hi
  | mtf a => exact roundTrips_m05 0 .wrap a _ (by simp) hi
  | beq a b off | bne a b off | blt a b off | bge a b off | bltu a b off | bgeu a b off =>
    exact roundTrips_m06 a b off _ (by simp) hi
  | bsf off => exact roundTrips_m06 0 0 off _ (by simp) hi
  | jmp off => exact roundTrips_m07 off hi
  | call off => exact roundTrips_m08 off hi
  | jmpr a imm | callr a imm => exact roundTrips_m09 a imm _ (by simp) hi
  | fadd d a b | fsub d a b | fmul d a b | fdiv d a b | fmin d a b | fmax d a b | fceq d a b | fclt d a b | fcle d a b
    =>
    exact roundTrips_m0a d a b .rne _ (by simp) hi
  | fsqrt d a | fclass d a | fneg d a | fabs d a => exact roundTrips_m0a d a 0 .rne _ (by simp) hi
  | fcvt d a rm | fcvti d a rm | fcvtf d a rm => exact roundTrips_m0a d a 0 rm _ (by simp) hi
  | fma d a b look | fms d a b look | fnma d a b look => exact roundTrips_m0b d a b look _ (by simp) hi
  | bmov d a b | bset d a b => exact roundTrips_m0c d a b _ (by simp) hi
  | csrr d csr | csrw d csr => exact roundTrips_m0d d csr _ (by simp) hi
  | ldb d a imm look | ldh d a imm look | ldw d a imm look | ldd d a imm look | ldbu d a imm look | ldhu d a imm look
    | ldwu d a imm look =>
    exact roundTrips_m10 d a imm look _ (by simp) hi
  | ldff d a imm => exact roundTrips_m10 d a imm 0 _ (by simp) hi
  | stb d a imm look | sth d a imm look | stw d a imm look | std d a imm look =>
    exact roundTrips_m11 d a imm look _ (by simp) hi
  | vld d a tag look | vst d a tag look | vldb d a tag look | vgath d a tag look | vscat d a tag look =>
    exact roundTrips_m12 d a tag look .mxfp6a _ (by simp) hi
  | vldx d a fmt look | vstx d a fmt look => exact roundTrips_m12 d a .raw look fmt _ (by simp) hi
  | lde d a imm | stf d a imm => exact roundTrips_m13 d a imm 0 _ (by simp) hi
  | stff d a imm look | feq d a imm look => exact roundTrips_m13 d a imm look _ (by simp) hi
  | fempty a imm look | fefill a imm look => exact roundTrips_m13 0 a imm look _ (by simp) hi
  | aadd d a b scope | amin d a b scope | aminu d a b scope | amax d a b scope | amaxu d a b scope | aand d a b scope
    | aor d a b scope | axor d a b scope | aswp d a b scope | acas d a b scope =>
    exact roundTrips_m14 d a b scope _ (by simp) hi
  | radd a b scope | rmin a b scope | rmax a b scope | ror a b scope | rfadd a b scope =>
    exact roundTrips_m14 0 a b scope _ (by simp) hi
  | lrw d a scope => exact roundTrips_m15 d a scope 0 _ (by simp) hi
  | sch a b scope => exact roundTrips_m15 0 a scope b _ (by simp) hi
  | lrx a scope => exact roundTrips_m15 0 a scope 0 _ (by simp) hi
  | phaseRel scope | phaseAcq scope | phaseAr scope => exact roundTrips_m15 0 0 scope 0 _ (by simp) hi
  | enq a b => exact roundTrips_m16 a b 0 0 0 _ (by simp) hi
  | deq d a | qbind d a => exact roundTrips_m16 a 0 d 0 0 _ (by simp) hi
  | enqn d a b look => exact roundTrips_m16 a b d look 0 _ (by simp) hi
  | deqn d a look => exact roundTrips_m16 a 0 d look 0 _ (by simp) hi
  | enqw d a b | deqw d a b => exact roundTrips_m16 a b d 0 0 _ (by simp) hi
  | qstat d a item look => exact roundTrips_m16 a 0 d look item _ (by simp) hi
  | sptest d a | spcast d a | spmake d a | spcore d a => exact roundTrips_m17 d a 0 _ (by simp) hi
  | split units => exact roundTrips_m17 0 0 units _ (by simp) hi
  | spawn d a b => exact roundTrips_m18 d a b 0 0 .core _ (by simp) hi
  | tid d item => exact roundTrips_m18 d 0 0 item 0 .core _ (by simp) hi
  | join g a scope => exact roundTrips_m18 0 a 0 0 g scope _ (by simp) hi
  | leave g | gbar g => exact roundTrips_m18 0 0 0 0 g .core _ (by simp) hi
  | rotr d => exact roundTrips_m18 d 0 0 0 0 .core _ (by simp) hi
  | rotw a => exact roundTrips_m18 0 a 0 0 0 .core _ (by simp) hi
  | gcnt d g item => exact roundTrips_m18' d g item hi
  | link d dir => exact roundTrips_m19 d dir 0 _ (by simp) hi
  | unlink d | ldirr d => exact roundTrips_m19 d 0 0 _ (by simp) hi
  | ldir a => exact roundTrips_m19 0 0 a _ (by simp) hi
  | vadd d a b | vsub d a b | vmul d a b | vmin d a b | vmax d a b | vminu d a b | vmaxu d a b | vand d a b | vor d a b
    | vxor d a b | vshl d a b | vshr d a b | vsra d a b | vceq d a b | vclt d a b | vcle d a b | vsel d a b =>
    exact roundTrips_m1a d a b _ (by simp) hi
  | vabs d a | vneg d a | vmov d a | vradd d a | vrmax d a | vrmin d a =>
    exact roundTrips_m1a' d a (.reg 0) _ (by simp) hi
  | vperm d a b => exact roundTrips_m1a' d a b _ (by simp) hi
  | vbcast d a tag => exact roundTrips_m1a'' d a tag hi
  | vext d a b => exact roundTrips_m1a''' d a b hi
  | vins d a b => exact roundTrips_m1a'''' d a b hi
  | vfma d a b look | vfms d a b look | vdiv d a b look => exact roundTrips_m1b d a b look _ (by simp) hi
  | vsqrt d a look => exact roundTrips_m1b' d a look hi
  | vcvt d a tag rm | vdxq d a tag rm => exact roundTrips_m1c d a tag rm _ (by simp) hi
  | vretag d a tag => exact roundTrips_m1c d a tag .rne _ (by simp) hi
  | vtag d a => exact roundTrips_m1c' d a 0 _ (by simp) hi
  | vsexr d a item => exact roundTrips_m1c' d a item _ (by simp) hi
  | vsexw d a item => exact roundTrips_m1c'' d a item hi
  | cpy k a b => exact roundTrips_m1d k a b 0 0 _ (by simp) hi
  | toks d look => exact roundTrips_m1d 0 0 0 d look _ (by simp) hi
  | barm d a b look | bpoll d a b look => exact roundTrips_m1d' d a b look _ (by simp) hi
  | bwait d a b => exact roundTrips_m1d' d a b 0 _ (by simp) hi
  | berr d a look | bclr d a look => exact roundTrips_m1d' d a 0 look _ (by simp) hi
  | lpatch d item b look => exact roundTrips_m1e d item b look 0 _ (by simp) hi
  | larm d look | lfire d look => exact roundTrips_m1e d 0 0 look 0 _ (by simp) hi
  | lstat d a look => exact roundTrips_m1e d 0 0 look a _ (by simp) hi
  | mldb a look => exact roundTrips_m1f a look 0 0 _ (by simp) hi
  | mmac k a b look => exact roundTrips_m1f a look k b _ (by simp) hi
  | mrun d a b => exact roundTrips_m1f' d a b 0 _ (by simp) hi
  | mdrn a b look => exact roundTrips_m1f' 0 a b look _ (by simp) hi
  | mhnd a b => exact roundTrips_m1f' 0 a b 0 _ (by simp) hi
  | mchk d a look => exact roundTrips_m1f' d a 0 look _ (by simp) hi
  | macq a | mrel a => exact roundTrips_m1f' 0 a 0 0 _ (by simp) hi
  | srng d a md => exact roundTrips_m20 d a md hi
  | ctxsv d a | ctxld d a | spill d a => exact roundTrips_m21 d a false 0 0 0 _ (by simp) hi
  | preempt d a md => exact roundTrips_m21 d a md 0 0 0 _ (by simp) hi
  | unfreeze d a action => exact roundTrips_m21 d a false action 0 0 _ (by simp) hi
  | errpop d b => exact roundTrips_m21 d 0 false 0 b 0 _ (by simp) hi
  | dtget d item => exact roundTrips_m21 d 0 false 0 0 item _ (by simp) hi
  | dtset d a md => exact roundTrips_m21' d a md hi
  | rinv d a b look => exact roundTrips_m22 d a b look 0 _ (by simp) hi
  | rinvw d a b => exact roundTrips_m22 d a b 0 0 _ (by simp) hi
  | rstat d a item look => exact roundTrips_m22 d a 0 look item _ (by simp) hi
  | tbr d look => exact roundTrips_m22 d 0 0 look 0 _ (by simp) hi
  | waitt d a => exact roundTrips_m22 d a 0 0 0 _ (by simp) hi
  | coll k a b => exact roundTrips_m22' k a b hi
  | shli d a n | shri d a n | srai d a n => exact roundTrips_unsigned d a n _ (by simp) hi
  | ldks d n | resize d n => exact roundTrips_unsigned d 0 n _ (by simp) hi
  | trap n => exact roundTrips_unsigned 0 0 n _ (by simp) hi
  | sfclr | eret | brk | fencei | quit | yield | commit | nop | yield16 | quit16 | rdone | fencei16 =>
    exact roundTrips_nullary _ (by simp) hi
  | add16 d b => exact roundTrips_add16 d b hi
  | sub16 d b | mul16 d b | and16 d b | or16 d b | xor16 d b | shl16 d b | shr16 d b | sra16 d b | min16 d b | max16 d b
    | mov16 d b | neg16 d b | not16 d b | abs16 d b | clt16 d b | vadd16 d b | vsub16 d b | vmul16 d b | vand16 d b
    | vor16 d b | vxor16 d b | vshl16 d b | vshr16 d b | vsra16 d b | vmin16 d b | vmax16 d b | vmov16 d b | vneg16 d b
    | vabs16 d b | vclt16 d b =>
    exact roundTrips_lane16 d b _ (by simp) hi
  | rep c x y z => exact roundTrips_rep c x y z hi
  | waitk n k => exact roundTrips_waitk n k hi
  | movis d imm => exact roundTrips_movis d imm hi
  | firmwareExpansion b n => exact roundTrips_expansion b n hi
  | _ => cases hw

end Sys2Proof

namespace Sys2Proof.Claims

/-- Settles O57: the claim holds of each instruction that has a word, major by major (R84). -/
theorem decodeEncode : Obligations.DecodeEncode := fun i hi hw => roundTrips i hi hw

end Sys2Proof.Claims
end

section
/-! PROOFS. Integer and float results, the narrowing rule, and what a result leaves alone (R35, R104 to R118). -/

namespace Sys2Proof.Claims
open Sys2Proof Sys2Proof.Machine

/-! ## The integer rows (R104 to R110) -/

/-- A truth value is 1 or 0. -/
theorem truth_decide (p : Prop) [Decidable p] : truth (decide p) = if p then 1 else 0 := by
  by_cases h : p <;> simp [truth, h]

/-- An unchosen pattern counts as the number chosen between. -/
theorem cast_choice (p : Prop) [Decidable p] (a b : Nat) : ((if p then a else b : Nat) : Int) = if p then (a : Int) else b := by
  split <;> rfl

theorem natAbs_choice (x : Int) : (x.natAbs : Int) = if x < 0 then -x else x := by
  split <;> omega

/-- Every instruction of the row table runs as the shared operation `State.alu`, on what its row names. -/
theorem exec_eq_alu {i : Instr} {w : IntRow} (h : intRow i = some w) (s : State) :
    exec i s = s.alu w.use w.d w.value := by
  unfold intRow row at h
  split at h
  case h_70 => cases h
  all_goals cases h
  case h_14 => simp only [← cast_choice]; rfl -- MINU
  case h_16 => simp only [← cast_choice]; rfl -- MAXU
  case h_17 => simp only [← truth_decide]; rfl -- CEQ
  case h_18 a b => -- CNE
    have e (s : State) : (if s.val a = s.val b then 0 else 1 : Int) = if s.val a ≠ s.val b then 1 else 0 := by
      split <;> simp_all
    simp only [e, ← truth_decide]; rfl
  case h_19 => simp only [← truth_decide]; rfl -- CLT
  case h_20 => simp only [← truth_decide]; rfl -- CLTU
  case h_21 => simp only [← truth_decide]; rfl -- CLE
  case h_22 => simp only [← truth_decide]; rfl -- CLEU
  case h_27 => simp only [← natAbs_choice]; rfl -- ABS
  case h_37 => simp only [← truth_decide]; rfl -- CLTI
  case h_55 => simp only [← natAbs_choice]; rfl -- ABS_16
  case h_56 => simp only [← truth_decide]; rfl -- CLT_16
  all_goals rfl

/-- The destination of a row is the one name that it writes. -/
theorem intRow_writes {i : Instr} {w : IntRow} (h : intRow i = some w) : w.use.writes = ints [w.d] := by
  unfold intRow row at h
  split at h
  case h_70 => cases h
  all_goals (cases h; rfl)

theorem alu_ready {s s1 : State} {w : IntRow} (h : Ready s w.use s1) :
    s.alu w.use w.d w.value = s1.narrowInto w.use.names w.d (w.value s1) id := guarded_ready h

theorem integerResult : IntegerResult := by
  intro i w s s1 r hi hr hn
  rw [exec_eq_alu hi, alu_ready hr, narrowInto_some hn, id]

theorem integerOverflow : IntegerOverflow := by
  intro i w s s1 hi hr hn
  rw [exec_eq_alu hi, alu_ready hr, narrowInto_none hn]

/-- Settles O1: each row runs as the shared operation, which narrows its exact result or raises WIDTH_OVERFLOW. -/
theorem integerResults : Obligations.IntegerResults := ⟨integerResult, integerOverflow⟩

/-! ## Scalar floats (R115 to R118) -/

/-- Each scalar float instruction runs as the shared operation `State.falu`, on what its row names. -/
theorem exec_eq_falu {i : Instr} {srcs : List Name} {d : Name} {f : State → FVal} (h : floatRow i = some (srcs, d, f))
    (s : State) : exec i s = s.falu srcs d f := by
  unfold floatRow at h
  split at h
  case h_10 => cases h
  all_goals (cases h; rfl)

/-- Each fused instruction runs as the shared operation `State.fused`. -/
theorem exec_eq_fused {i : Instr} {d a b : Name} {l : Look} {f : FVal → FVal → FVal} (h : fusedRow i = some (d, a, b, l, f))
    (s : State) : exec i s = s.fused d a b l f := by
  unfold fusedRow at h
  split at h
  case h_4 => cases h
  all_goals (cases h; rfl)

/-- A conversion under noise goes on with the words that it draws, in the state after the draws. -/
theorem withNoise_drawn {s s1 : State} {rm : RMode} {ws : List Nat} {k : List Nat → State → Out} (h : Drawn s rm ws s1) :
    s.withNoise rm 1 k = k ws s1 := by
  rcases h with ⟨rfl, h⟩ | ⟨hm, rfl, rfl⟩
  · simp [State.withNoise, h]
  · simp [State.withNoise, hm]

/-- An instruction whose own check fails takes the trap that the check names. -/
theorem guardedIf_refused {s : State} {u : Use} {pre : State → Option Trap} {k : State → Out} {x : Trap}
    (h : s.useFail u = none) (hp : pre s = some x) : s.guardedIf u pre k = .next (s.takeTrap x) := by
  simp [State.guardedIf, h, hp, State.trap]

/-- Settles O3: the float operations write one pattern, rounded once, and no flag; the fused ones do so in their window. -/
theorem floatResult : Obligations.FloatResult := by
  constructor
  · intro i srcs d f s s1 hi hr
    rw [exec_eq_falu hi]
    exact guarded_ready hr
  · intro i d a b l f s s1 hi hr
    rw [exec_eq_fused hi]
    exact (guarded_ready hr).trans (finishLong_eq _ _ _ _)

theorem exec_fcvt (d a : Name) (rm : RMode) (s : State) : exec (.fcvt d a rm) s = execFcvt d a rm s := rfl

theorem exec_fcvtf (d a : Name) (rm : RMode) (s : State) : exec (.fcvtf d a rm) s = execFcvtf d a rm s := rfl

/-- Settles O4: a conversion checks its rounding mode, draws its noise word and writes what it rounds. -/
theorem conversionResult : Obligations.ConversionResult := by
  intro d a rm s s1 s2 ws hw
  refine ⟨fun hr hp => ?_, fun hr hp => ?_, fun r hr hc => ?_, fun x hr hc => ?_, fun hu hx => ?_, fun hu hx => ?_⟩
  · rw [exec_fcvt, execFcvt, guardedIf_ready hr hp, withNoise_drawn hw]; rfl
  · rw [exec_fcvtf, execFcvtf, guardedIf_ready hr hp, withNoise_drawn hw]; rfl
  · refine (guarded_ready hr).trans ((withNoise_drawn hw).trans ?_)
    simp only [hc]; rfl
  · refine (guarded_ready hr).trans ((withNoise_drawn hw).trans ?_)
    simp only [hc]; rfl
  · rw [exec_fcvt, execFcvt, guardedIf_refused hu (congrArg (srRefused .sr) hx)]; rfl
  · rw [exec_fcvtf, execFcvtf, guardedIf_refused hu (congrArg (srRefused .sr) hx)]; rfl

/-! ## MOV and BFI (R80, R106, R107) -/

theorem exec_eq_move {i : Instr} {d a : Name} (h : moveRow i = some (d, a)) (s : State) : exec i s = s.move d a := by
  unfold moveRow at h
  split at h
  case h_3 => cases h
  all_goals (cases h; rfl)

theorem moveResult : MoveResult := by
  intro i d a s s1 hi hr
  have hm : exec i s = if (s1.thr.name a).kind.isFloat then s1.putPat [a] d (s1.pat a)
      else s1.narrowInto [a] d (s1.val a) id := (exec_eq_move hi s).trans (guarded_ready hr)
  refine ⟨fun hf => ?_, fun r hf hn => ?_, fun hf hn => ?_⟩
  · rw [hm, if_pos hf]; rfl
  · rw [hm, hf, if_neg Bool.false_ne_true, narrowInto_some hn, id]
  · rw [hm, hf, if_neg Bool.false_ne_true, narrowInto_none hn]

theorem fieldInsert : FieldInsert := fun _ _ _ _ _ hr => guarded_ready hr

/-- Settles O5: MOV writes a pattern or narrows a value by the kind of its source; BFI writes a pattern. -/
theorem movesAndFields : Obligations.MovesAndFields := ⟨moveResult, fieldInsert⟩

/-! ## Frames of results (R16, R35, R103 to R118, R170) -/

/-- With no operand bound, the state in which an instruction executes is the one that it meets. -/
theorem ready_eq_of_unbound {s s1 : State} {u : Use} (h : Ready s u s1) (hb : s.unbound u = true) : s1 = s := by
  have hg := h.2
  rw [State.gather, if_pos hb] at hg
  exact (Gather.ready.inj hg).symm

theorem bind_of_unbound {s : State} {u : Use} (hb : s.unbound u = true) :
    (∀ n ∈ u.names, (s.thr.name n).bind = .none) ∧ ∀ n ∈ u.writes.map Prod.fst, (s.thr.name n).bind = .none := by
  have key (l : List Name) (h : ((l.filter (fun n => decide ((s.thr.name n).bind ≠ .none))).eraseDups).isEmpty = true) :
      ∀ n ∈ l, (s.thr.name n).bind = .none := by
    intro n hn
    by_contra hb
    have hm : n ∈ (l.filter (fun n => decide ((s.thr.name n).bind ≠ .none))).eraseDups :=
      List.mem_eraseDups.2 (List.mem_filter.2 ⟨hn, decide_eq_true hb⟩)
    rw [List.isEmpty_iff.1 h] at hm
    cases hm
  simp only [State.unbound, Bool.and_eq_true] at hb
  exact ⟨key _ hb.1, key _ hb.2⟩

@[simp] theorem Thread.putFlags_name (t : Thread) (f : FlagWrite) (n : Name) : (t.putFlags f).name n = t.name n := rfl

@[simp] theorem Thread.setVreg_name (t : Thread) (v : VReg) (x : VRegVal) (n : Name) : (t.setVreg v x).name n = t.name n := rfl

/-- A result of one name, no operand bound: the frame, the flags and the name written. -/
theorem put1_frame {s : State} {rd : List Name} (h : ∀ n ∈ rd, (s.thr.name n).bind = .none) {d : Name}
    (hd : (s.thr.name d).bind = .none) (p : Word) (f : FlagWrite) :
    Keeps s (After s rd (put1 d p f)) [d] ∧ (After s rd (put1 d p f)).mem = s.mem ∧
    (After s rd (put1 d p f)).thr.flags = s.thr.flags.put f ∧
    (d ≠ 63 → d ≠ 61 → (After s rd (put1 d p f)).thr.name d = { s.thr.name d with pat := p }) := by
  have hrep : (((s.thr.setPat d p).putFlags f).rep) = s.thr.rep := by rw [s.thr.setPat_form]; rfl
  rw [after_put1 h hd]
  refine ⟨⟨rfl, fun n hn hr => ?_, ?_⟩, rfl, ?_, fun h63 h61 => ?_⟩
  · rw [Thread.retire_name _ _ (hrep ▸ hr), Thread.putFlags_name, Thread.name_setPat, if_pos]
    exact .inr (by simpa using hn)
  · simp
  · simp [Thread.putFlags]
  · rw [Thread.retire_name _ _ (.inr h61), Thread.putFlags_name, Thread.name_setPat, if_neg (by simp [h63])]


/-- What `put1_frame` and the register file say of a result of one vector register. -/
theorem putV_frame {s : State} {rd : List Name} (h : ∀ n ∈ rd, (s.thr.name n).bind = .none) (d : VReg) (x : VRegVal) :
    let t := After s rd (putV d x)
    t = { s with thr := t.thr } ∧ (∀ v, t.thr.vreg v = if v = d then x else s.thr.vreg v) ∧ t.thr.flags = s.thr.flags ∧
      (∀ n, s.thr.rep = none ∨ n ≠ 61 → t.thr.name n = s.thr.name n) ∧ t.thr.privl = s.thr.privl ∧
      t.thr.trapc = s.thr.trapc ∧ t.thr.trappc = s.thr.trappc ∧ t.thr.trapa = s.thr.trapa ∧ t.thr.trapx = s.thr.trapx ∧
      t.thr.trapv = s.thr.trapv ∧ t.thr.traprec = s.thr.traprec ∧ t.thr.toks = s.thr.toks ∧ t.thr.groups = s.thr.groups := by
  rw [after_putV h]
  refine ⟨rfl, fun v => ?_, ?_, fun n hr => ?_, ?_⟩
  · rw [← Thread.vreg_setVreg]
    simp [Thread.vreg]
  · simp [Thread.putFlags, Flags.put, FlagWrite.none]
  · exact Thread.retire_name _ _ hr
  · simp

theorem resultFrame : ResultFrame := by
  intro s rd h
  refine ⟨fun d p f hd => ?_, fun d x => putV_frame h d x⟩
  obtain ⟨hk, _, hf, _⟩ := put1_frame h hd p f
  exact ⟨hk, hf⟩

theorem integerFrame : IntegerFrame := by
  intro i w s s1 r hi hr hfree hn
  obtain rfl := ready_eq_of_unbound hr hfree
  obtain ⟨hrd, hwr⟩ := bind_of_unbound hfree
  have hd : (s1.thr.name w.d).bind = .none := hwr _ (by simp [intRow_writes hi, ints])
  exact ⟨_, integerResult i w s1 s1 r hi hr hn, put1_frame hrd hd _ _⟩

theorem floatFrame : FloatFrame := by
  intro i srcs d f s s1 hi hr hfree
  obtain rfl := ready_eq_of_unbound hr hfree
  obtain ⟨hrd, hwr⟩ := bind_of_unbound hfree
  have hd : (s1.thr.name d).bind = .none := hwr _ (by simp [floats])
  have hrd : ∀ n ∈ srcs, (s1.thr.name n).bind = .none := fun n hn => hrd n (by simpa [Use.names, floats] using hn)
  obtain ⟨hk, hm, hf, _⟩ := put1_frame hrd hd (BitVec.ofNat 64 ((s1.fmtOf d).rne (f s1))) FlagWrite.none
  exact ⟨_, floatResult.1 i srcs d f s1 s1 hi hr, hk, hm, by simpa [Flags.put, FlagWrite.none] using hf⟩

/-- Settles O13: with nothing bound, a result leaves a thread that differs in what was written and in its retirement. -/
theorem registerFrames : Obligations.RegisterFrames := ⟨integerFrame, floatFrame, resultFrame⟩

end Sys2Proof.Claims

namespace Sys2Proof.Machine
open Sys2Proof Sys2Proof.Claims

/-! ## The narrowing rule (R34, R35) -/

theorem ipow_pos (n : Nat) : 0 < ipow n := by
  simp [ipow]

theorem ipow_double {w : Nat} (h : 1 ≤ w) : ipow w = 2 * ipow (w - 1) := by
  obtain ⟨k, rfl⟩ : ∃ k, w = k + 1 := ⟨w - 1, by omega⟩
  simp [ipow, pow_succ, mul_comm]

theorem lowBits_cast (w : Nat) (x : Int) : (lowBits w x : Int) = x % ipow w :=
  Int.toNat_of_nonneg (Int.emod_nonneg x (ipow_pos w).ne')

theorem lowBits_lt (w : Nat) (x : Int) : lowBits w x < 2 ^ w := by
  have h := Int.emod_lt_of_pos x (ipow_pos w)
  rw [← lowBits_cast] at h
  exact Int.ofNat_lt.1 h

/-- A pattern read under its kind, with the powers named. -/
theorem patVal_cases (k : Kind) {w : Nat} (h : 1 ≤ w) (p : Nat) :
    patVal k w p = if k = .signed ∧ ipow (w - 1) ≤ p then (p : Int) - ipow w else p := by
  have e : ipow (w - 1) ≤ (p : Int) ↔ 2 ^ (w - 1) ≤ p := Int.ofNat_le
  simp [patVal, e, show w ≠ 0 by omega]

/-- The patterns of a name are exactly the values of its range. -/
theorem patVal_range (k : Kind) {w : Nat} (h : 1 ≤ w) {p : Nat} (hp : p < 2 ^ w) :
    rangeLo k w ≤ patVal k w p ∧ patVal k w p ≤ rangeHi k w := by
  have hp' : (p : Int) < ipow w := Int.ofNat_lt.2 hp
  have hd := ipow_double h
  have hpos := ipow_pos (w - 1)
  rw [patVal_cases k h, rangeLo, rangeHi]
  by_cases hk : k = .signed
  · simp only [hk, true_and, if_true]; split <;> omega
  · simp only [hk, false_and, if_false]; omega

theorem patVal_lowBits (k : Kind) {w : Nat} (h : 1 ≤ w) {x : Int} (h1 : rangeLo k w ≤ x) (h2 : x ≤ rangeHi k w) :
    patVal k w (lowBits w x) = x := by
  have hd := ipow_double h
  have hpos := ipow_pos (w - 1)
  rw [patVal_cases k h, lowBits_cast]
  unfold rangeLo at h1
  unfold rangeHi at h2
  by_cases hk : k = .signed
  · simp only [hk, true_and, if_true] at h1 h2 ⊢
    by_cases hx : 0 ≤ x
    · rw [Int.emod_eq_of_lt hx (by omega), if_neg (by omega)]
    · have e : x % ipow w = x + ipow w := by
        rw [← Int.add_emod_right, Int.emod_eq_of_lt (by omega) (by omega)]
      rw [e, if_pos (by omega)]; omega
  · simp only [hk, false_and, if_false] at h1 h2 ⊢
    exact Int.emod_eq_of_lt h1 (by omega)

/-- The low bits of a pattern's value are the pattern. -/
theorem lowBits_patVal (k : Kind) {w : Nat} (h : 1 ≤ w) {p : Nat} (hp : p < 2 ^ w) : lowBits w (patVal k w p) = p := by
  have hp' : (p : Int) < ipow w := Int.ofNat_lt.2 hp
  have e : ((lowBits w (patVal k w p) : Nat) : Int) = p := by
    rw [lowBits_cast, patVal_cases k h]
    split
    · rw [Int.sub_emod_right]; exact Int.emod_eq_of_lt (Int.natCast_nonneg p) hp'
    · exact Int.emod_eq_of_lt (Int.natCast_nonneg p) hp'
  exact_mod_cast e

/-- What narrowing stores is a value of the range (R35). -/
theorem narrowVal_range {k : Kind} {w : Nat} {m : OvMode} {x y : Int} (h : 1 ≤ w) (hy : narrowVal k w m x = some y) :
    rangeLo k w ≤ y ∧ y ≤ rangeHi k w := by
  have hlohi : rangeLo k w ≤ rangeHi k w := by
    obtain ⟨h1, h2⟩ := patVal_range k h (p := 0) (by positivity)
    omega
  unfold narrowVal at hy
  split at hy
  case isTrue hx => cases hy; exact hx
  case isFalse hx =>
    cases m with
    | wrap => cases hy; exact patVal_range k h (lowBits_lt w x)
    | sat => cases hy; split <;> omega
    | trap => cases hy

/-- The pattern that narrowing stores reads as the value that it stores. -/
theorem pat_lowBits {w : Nat} (h : w ≤ 64) (y : Int) : (BitVec.ofNat 64 (lowBits w y)).toNat = lowBits w y := by
  rw [BitVec.toNat_ofNat, Nat.mod_eq_of_lt]
  exact (lowBits_lt w y).trans_le (Nat.pow_le_pow_right (by omega) h)

/-- Narrowing that does not trap: the stored value, its pattern and its flags. -/
theorem narrow_some {k : Kind} {w : Nat} {m : OvMode} {x : Int} {r : Narrowed} (h1 : 1 ≤ w) (h64 : w ≤ 64)
    (h : narrow k w m x = some r) : ∃ y, narrowVal k w m x = some y ∧ r.pat.toNat = lowBits w y ∧
      patVal k w r.pat.toNat = y ∧ r.z = decide (y = 0) ∧ r.n = decide (y < 0) ∧ r.c = decide (x / ipow w % 2 = 1) := by
  unfold narrow at h
  split at h
  · cases h
  · rename_i y hy
    cases h
    obtain ⟨hlo, hhi⟩ := narrowVal_range h1 hy
    exact ⟨y, hy, pat_lowBits h64 y, by rw [pat_lowBits h64, patVal_lowBits k h1 hlo hhi], rfl, rfl, rfl⟩

theorem narrow_inside {k : Kind} {w : Nat} {x : Int} (m : OvMode) (h1 : rangeLo k w ≤ x) (h2 : x ≤ rangeHi k w) :
    ∃ r, narrow k w m x = some r ∧ narrowVal k w m x = some x ∧ r.v = false ∧ r.sat = false := by
  have e : narrowVal k w m x = some x := if_pos ⟨h1, h2⟩
  refine ⟨_, by rw [narrow, e], e, ?_, ?_⟩ <;> simp [h1, h2]

theorem narrow_outside {k : Kind} {w : Nat} {m : OvMode} {x y : Int} (h : ¬(rangeLo k w ≤ x ∧ x ≤ rangeHi k w))
    (hy : narrowVal k w m x = some y) : ∃ r, narrow k w m x = some r ∧ r.v = true ∧ r.sat = decide (m = .sat) := by
  refine ⟨_, by rw [narrow, hy], ?_, ?_⟩ <;> simp [h]

end Sys2Proof.Machine

namespace Sys2Proof.Claims
open Sys2Proof Sys2Proof.Machine

/-- Settles O15: narrowing stores a value of the range, whose pattern reads back as it. -/
theorem narrowingRule : Obligations.NarrowingRule := by
  intro k w m x h1 h64
  refine ⟨fun hlo hhi => ?_, fun hout => ⟨?_, ?_, ?_⟩, fun r hr => ?_⟩
  · obtain ⟨r, hr, hx, hv, hs⟩ := narrow_inside m hlo hhi
    obtain ⟨y, hy, _, hp, _⟩ := narrow_some h1 h64 hr
    rw [hx] at hy
    cases hy
    exact ⟨r, hr, hp, hv, hs⟩
  · rintro rfl
    have hne : ¬(rangeLo k w ≤ x ∧ x ≤ rangeHi k w) := by omega
    simp [narrow, narrowVal, hne]
  · rintro rfl
    have hne : ¬(rangeLo k w ≤ x ∧ x ≤ rangeHi k w) := by omega
    have hw : narrowVal k w .wrap x = some (patVal k w (lowBits w x)) := if_neg hne
    obtain ⟨r, hr, hv, hs⟩ := narrow_outside hne hw
    obtain ⟨y, hy, hpat, _⟩ := narrow_some h1 h64 hr
    rw [hw] at hy
    cases hy
    refine ⟨r, hr, ?_, hv, hs⟩
    rw [hpat, lowBits_patVal k h1 (lowBits_lt w x), lowBits_cast, ipow]
    norm_cast
  · rintro rfl
    have hne : ¬(rangeLo k w ≤ x ∧ x ≤ rangeHi k w) := by omega
    have hw : narrowVal k w .sat x = some (if x < rangeLo k w then rangeLo k w else rangeHi k w) := if_neg hne
    obtain ⟨r, hr, hv, hs⟩ := narrow_outside hne hw
    obtain ⟨y, hy, _, hp, _⟩ := narrow_some h1 h64 hr
    rw [hw] at hy
    cases hy
    exact ⟨r, hr, hv, hs, hp⟩
  · obtain ⟨y, _, hpat, hp, hz, hn, hc⟩ := narrow_some h1 h64 hr
    rw [hp, hz, hn, hc, hpat]
    exact ⟨lowBits_lt w y, decide_eq_true_iff, decide_eq_true_iff, by simp [ipow]⟩

end Sys2Proof.Claims
end

section
/-! PROOFS. Control: branches, jumps, the instructions on maps and flags, traps and their return, control registers, repeats. -/

namespace Sys2Proof.Claims
open Sys2Proof Sys2Proof.Machine

/-! ## Branches and jumps (R112 to R114) -/

/-- Each branch checks what it reads and then goes one of two ways. -/
theorem exec_eq_branch {i : Instr} {u : Use} {off : Int} {c : State → Bool} (h : branchRow i = some (u, off, c)) (s : State) :
    exec i s = s.guarded u (fun s => s.branchIf u.names off (c s)) := by
  unfold branchRow at h
  split at h
  case h_8 => cases h
  all_goals (cases h; rfl)

theorem branchResult : BranchResult := by
  intro i u off c s s1 hi hr
  rw [exec_eq_branch hi, guarded_ready hr, State.branchIf]
  cases c s1 <;> rfl

theorem jumpResult : JumpResult := by
  intro a off s s1
  refine ⟨fun hr => ?_, fun hr => ?_, fun hr he => ?_, fun hr he => ?_, fun hr he => ?_,
    fun hr he => ?_⟩
  · change execJmp off s = _
    rw [execJmp, guarded_ready hr]; rfl
  · change execCall off s = _
    rw [execCall, linkName, guarded_ready hr]; rfl
  · exact (guarded_ready hr).trans (if_neg (by unfold State.jumpTarget; omega))
  · exact (guarded_ready hr).trans (if_neg (by unfold State.jumpTarget; omega))
  · exact (guarded_ready hr).trans (if_pos he)
  · exact (guarded_ready hr).trans (if_pos he)

/-- Settles O7: branches by their condition, jumps and calls by their target. -/
theorem branchesAndJumps : Obligations.BranchesAndJumps := ⟨branchResult, jumpResult⟩

/-! ## NOP, FENCEI, PHASE, TRAP, BRK (R88, R122 to R125, R209 to R211) -/

/-- Settles O8: each of them is one operation on the state, and then the instruction is done. -/
theorem stillAndTrapping : Obligations.StillAndTrapping :=
  ⟨fun _ _ => ⟨rfl, rfl, rfl, rfl, rfl, rfl⟩, fun _ _ => ⟨rfl, rfl⟩⟩

/-! ## Privilege (R12, R29) -/

/-- A use that needs system privilege fails at user privilege, before its operands are looked at. -/
theorem useFail_user {s : State} {u : Use} (hu : u.sys = true) (hp : s.thr.privl.priv = false) :
    s.useFail u = some (mkTrap .privilege 0 0 0) := by
  simp [State.useFail, hu, hp]

theorem guarded_user {s : State} {u : Use} {k : State → Out} (hu : u.sys = true) (hp : s.thr.privl.priv = false) :
    s.guarded u k = .next (s.takeTrap (mkTrap .privilege 0 0 0)) := guarded_fail (useFail_user hu hp)

/-- Settles O11: each of them is checked for privilege before all else. -/
theorem privilegeRefused : Obligations.PrivilegeRefused := by
  intro s d a x md c hp
  constructor
  · intro hc i hi
    simp only [List.mem_cons, List.not_mem_nil, or_false] at hi
    rcases hi with rfl | rfl | rfl | rfl | rfl | rfl | rfl | rfl
    · exact guarded_user rfl hp
    · exact (if_neg (by simp [hc])).trans (guarded_user rfl hp)
    · exact guarded_user rfl hp
    · exact guarded_user rfl hp
    · exact guarded_user rfl hp
    · exact guarded_user rfl hp
    · exact guarded_user rfl hp
    · exact guarded_user rfl hp
  · intro hc
    have hu : (!userCsr c) = true := by simpa [userCsr] using hc
    exact guarded_user hu hp

/-! ## Repeats (R22 to R24) -/

/-- A REP whose pair and rp pass their checks: what it makes of the count in rp. -/
theorem exec_rep {c : Fin 64} {id ia ib : Fin 4} {i : Instr} {w len : Nat} {s : State} {fs : List (StepKind × Nat × Nat)}
    (hi : s.thr.ir.inner = .ok i w len) (hf : repFields i w len id.val ia.val ib.val = some fs) (hr : repeatable i = true)
    (hx : ∀ m x, i = .firmwareExpansion m x → s.expansionOn m = true) (hw : 14 ≤ (s.thr.name 61).width)
    (hk : (s.thr.name 61).kind.isFloat = false)
    (hl : s.lookFail { reads := [(61, .int)], writes := [(61, .int)] } = none) :
    exec (.rep c id ia ib) s =
      let rp := (s.thr.name 61).pat.toNat
      let rem := bits rp 0 7
      let idx := if rem = 0 then 0 else bits rp 7 7
      let report (x : Trap) : Out := (s.modThr (fun t => { t with rep := some (repAt s.thr.ir.word w len rp) })).trap x
      if rem ≠ 0 ∧ rem + idx ≠ c.val + 1 then report (mapFault rp)
      else
        match firstBad fs (c.val + 1 - idx) idx with
        | some v => report (mapFault (lowBits 64 v))
        | none => .next (s.modThr (fun t =>
            { (if rem = 0 then t.setRp (c.val + 1) else t) with rep := some ⟨s.thr.ir.word, w, len, idx⟩ })) := by
  have hwid : ¬((s.thr.name 61).width < 14 ∨ (s.thr.name 61).kind.isFloat = true) := by simp [hk]; omega
  have hw0 : (s.thr.name 61).width ≠ 0 := by omega
  change execRep c id ia ib s = _
  unfold execRep
  simp only [hi, hf, hr, hl, if_neg hwid, if_neg hw0, Bool.not_true, Bool.false_or]
  refine if_neg ?_
  split
  · rw [hx _ _ rfl]; simp
  · simp

theorem repeatStart : RepeatStart := by
  intro c id ia ib i w len s fs hi hf hr hx hw hk hl
  have he := exec_rep (c := c) hi hf hr hx hw hk hl
  dsimp only at he ⊢
  refine ⟨fun h0 hb => ?_, fun h0 hs hb => ?_, fun h0 hs => ?_⟩
  · rw [he]
    simp [h0, hb, Thread.setRp]
  · have e : c.val + 1 - bits (s.thr.name 61).pat.toNat 7 7 = bits (s.thr.name 61).pat.toNat 0 7 := by omega
    rw [he]
    simp [h0, hs, e, hb]
  · rw [he]
    simp [h0, hs, State.trap, repAt]

theorem setRp_name (t : Thread) (v : Nat) : ((t.setRp v).name 61).pat = BitVec.ofNat 64 v := by
  simp [Thread.setRp, Thread.name_setPat]

theorem rpAfter_last {iter rp : Nat} (h : bits rp 0 7 = 1) : rpAfter iter rp = 0 := by simp [rpAfter, h]

theorem rpAfter_more {iter rp : Nat} (h : 2 ≤ bits rp 0 7) :
    rpAfter iter rp = bits rp 0 7 - 1 + 128 * ((iter + 1) % 128) ∧ rpAfter iter rp ≠ 0 := by
  have hlt : bits rp 0 7 < 128 := Nat.mod_lt _ (by omega)
  have he : (bits rp 0 7 + 127) % 128 = bits rp 0 7 - 1 := by omega
  simp only [rpAfter, he, if_neg (show bits rp 0 7 - 1 ≠ 0 by omega), true_and]
  omega

@[simp] theorem stepDone_pc (t : Thread) : t.stepDone.pc = t.pc := by rw [t.stepDone_form]

theorem retire_repeat {t : Thread} {r : RepCtx} (h : t.rep = some r) :
    t.retire = let t2 := t.stepDone.setRp (rpAfter r.iter (t.name 61).pat.toNat)
      if rpAfter r.iter (t.name 61).pat.toNat = 0 then { t2 with rep := none, pc := t2.pc + BitVec.ofNat 64 (2 + r.ilen) }
      else { t2 with rep := some { r with iter := (r.iter + 1) % 128 } } := by
  simp only [Thread.retire, Thread.stepDone_rep, h, Thread.stepDone_name]

theorem repeatAdvance : RepeatAdvance := by
  intro t r h
  refine ⟨fun h1 => ?_, fun h2 => ?_⟩
  · rw [retire_repeat h]
    simp only [rpAfter_last h1, if_true]
    exact ⟨trivial, setRp_name _ 0, by rw [Thread.setRp_form]; simp⟩
  · obtain ⟨hv, hne⟩ := rpAfter_more (iter := r.iter) h2
    rw [retire_repeat h]
    simp only [if_neg hne]
    refine ⟨by rw [Thread.setRp_form]; simp, trivial, ?_⟩
    rw [← hv]
    exact setRp_name _ _

/-- Settles O23: a REP begins, resumes or refuses by the count in rp; an iteration moves rp on. -/
theorem repeats : Obligations.Repeats := ⟨repeatStart, repeatAdvance⟩

end Sys2Proof.Claims
end

section
/-! PROOFS. The instructions on maps and flags (R42, R43, R111) and what a placed span changes (R45). -/

namespace Sys2Proof.Claims
open Sys2Proof Sys2Proof.Machine

/-! ## MODE, MFF, MTF, SFCLR -/

/-- An instruction on a declaration meets MAP_FAULT where the name is undeclared or a float (R33). -/
theorem useFail_decl {s : State} {d : Name} (h : (s.thr.name d).width = 0 ∨ (s.thr.name d).kind.isFloat = true) :
    s.useFail { decls := ints [d] } = some (mapFault d.val) := by
  by_cases h0 : (s.thr.name d).width = 0
  · simp [State.useFail, State.mapFail, State.undeclared, ints, h0]
  · have hf : (s.thr.name d).kind.isFloat = true := h.resolve_left h0
    simp [State.useFail, State.mapFail, State.undeclared, State.declBad, Need.ok, ints, h0, hf]

/-- Whether MODE refuses a mode for a binding (R43, log 14). -/
theorem modeRefused_iff (b : Bind) (md : OvMode) :
    (match b with | .flume _ _ => decide (md = .trap) | _ => false) = true ↔ (∃ h q, b = .flume h q) ∧ md = .trap := by
  cases b <;> simp

theorem exec_mode_ready {d : Name} {md : OvMode} {s s1 : State} (hr : Ready s { decls := ints [d] } s1) :
    exec (.mode d md) s = if d = 63 ∨ ((∃ h q, (s1.thr.name d).bind = .flume h q) ∧ md = .trap) then
        s1.trap (mapFault d.val) else (s1.modThr (fun t => t.setName d { t.name d with mode := md })).done := by
  change execMode d md s = _
  simp only [execMode, guarded_ready hr, ← modeRefused_iff] <;> rfl

theorem exec_mode_fail {d : Name} {md : OvMode} {s : State}
    (h : (s.thr.name d).width = 0 ∨ (s.thr.name d).kind.isFloat = true) :
    exec (.mode d md) s = .next (s.takeTrap (mapFault d.val)) := by
  change execMode d md s = _
  rw [execMode, guarded_fail (useFail_decl h), State.trap]

/-- The flags word is a small number. -/
theorem lowBits_flags (f : Flags) : lowBits 64 (f.word : Int) = f.word := by
  have h : f.word < 32 := by
    have hb (b : Bool) : b.toNat ≤ 1 := Bool.toNat_le b
    have := hb f.z; have := hb f.n; have := hb f.c; have := hb f.v; have := hb f.sf
    unfold Flags.word
    omega
  simp only [lowBits, ipow]
  omega

/-- SFCLR clears SF, also for the windows that would yet set it. -/
theorem exec_sfclr_ready {s s1 : State} (hr : Ready s {} s1) : exec .sfclr s = .next (s1.modThr (fun t =>
    { t with flags := { t.flags with sf := false }, inflight := t.inflight.map (fun e => { e with sfLive := false }) })).retire := by
  change execSfclr s = _
  rw [execSfclr, guarded_ready hr]
  rfl

theorem mapAndFlags : MapAndFlags := by
  intro d s s1
  refine ⟨fun md hr h63 hb => ?_, fun h q hr hd => ?_, fun md hd => ?_, fun r hr hn => ?_, fun hr hn => ?_, fun hr => ?_,
    fun hr => ?_⟩
  · rw [exec_mode_ready hr, if_neg]
    · rfl
    · rintro (h | ⟨⟨h, q, he⟩, hm⟩)
      · exact h63 h
      · exact hb h q he hm
  · rw [exec_mode_ready hr, if_pos (hd.imp_right (fun he => ⟨⟨h, q, he⟩, rfl⟩))]
    rfl
  · rcases hd with hw | hf | ⟨h63, hr⟩
    · exact exec_mode_fail (.inl hw)
    · exact exec_mode_fail (.inr hf)
    · rw [exec_mode_ready hr, if_pos (.inl h63)]
      rfl
  · exact (guarded_ready hr).trans (narrowInto_some hn)
  · refine (guarded_ready hr).trans ((narrowInto_none hn).trans ?_)
    rw [lowBits_flags]
  · exact guarded_ready hr
  · exact ⟨_, exec_sfclr_ready hr, by simp, rfl⟩

/-! ## RESIZE (R42, R45) -/

/-- What placing spans can change: where threads lie in the row file. -/
def SpansOnly (s t : State) : Prop :=
  ∃ cs x y, t = { s with cores := cs, thr := { s.thr with span := x, placing := y } }

theorem SpansOnly.trans {s t u : State} (a : SpansOnly s t) (b : SpansOnly t u) : SpansOnly s u := by
  obtain ⟨_, _, _, rfl⟩ := a
  obtain ⟨cs, x, y, rfl⟩ := b
  exact ⟨cs, x, y, rfl⟩

theorem modThread_spans {s : State} {c i : Nat} {f : Thread → Thread}
    (h : ∀ t : Thread, ∃ x y, f t = { t with span := x, placing := y }) : SpansOnly s (s.modThread c i f) := by
  rcases modThread_form s c i f with ⟨cs, e⟩ | e
  · exact ⟨cs, s.thr.span, s.thr.placing, e⟩
  · obtain ⟨x, y, hf⟩ := h s.thr
    exact ⟨s.cores, x, y, by rw [e, hf]⟩

theorem packSpans_spans (c : Nat) (l : List (Nat × Nat × Nat)) (s : State) (a : Nat) : SpansOnly s (s.packSpans c l a).2 := by
  induction l generalizing s a with
  | nil => exact ⟨s.cores, s.thr.span, s.thr.placing, rfl⟩
  | cons p r ih => exact (modThread_spans (fun t => ⟨a, t.placing, rfl⟩)).trans (ih _ _)

theorem placeSpan_spans (s : State) (c i : Nat) (old : List (Nat × Nat × Nat)) : SpansOnly s (s.placeSpan c i old) := by
  unfold State.placeSpan
  split
  · exact ⟨s.cores, s.thr.span, s.thr.placing, rfl⟩
  · dsimp only
    split
    · exact modThread_spans (fun t => ⟨_, false, rfl⟩)
    · exact (packSpans_spans c _ s 0).trans (modThread_spans (fun t => ⟨_, false, rfl⟩))

theorem resizeSpan_spans (s : State) (c i old : Nat) : SpansOnly s (s.resizeSpan c i old) := by
  have same : SpansOnly s s := ⟨s.cores, s.thr.span, s.thr.placing, rfl⟩
  unfold State.resizeSpan
  split
  · exact same
  · dsimp only
    split
    · exact same
    · split
      · exact same
      · exact placeSpan_spans s c i _

/-- A RESIZE whose windows are complete and whose checks pass: refused, an overflow, or the name in its new width. -/
theorem exec_resize_ready {d : Name} {wid : Nat} {s s1 : State} (hq : s.quieted = some s1)
    (hr : Ready s1 { decls := ints [d] } s1) : exec (.resize d wid) s =
      let c := s1.thr.name d
      let x := patVal c.kind c.width c.pat.toNat
      if d = 63 ∨ c.bind ≠ .none then s1.trap (mapFault d.val)
      else match narrow c.kind wid c.mode x with
        | none => s1.trap (widthOverflow d x)
        | some r =>
          let s2 := s1.repackAll s1.cur.1 (s1.core s1.cur.1).repackq.length
          let s3 := s2.modThr (fun t => (t.setName d { c with width := wid, pat := r.pat }).putFlags r.flags)
          (s3.resizeSpan s1.cur.1 s3.cur.2 s2.thr.spanBits).done := by
  change execResize d wid s = _
  simp only [execResize, hq, guarded_ready hr] <;> rfl

/-- The name in its new width stays as it is when its span is placed and the instruction retires. -/
theorem resized {s s3 : State} {d : Name} {c : NameCell} {f : FlagWrite} (hd : d ≠ 63) (hrep : s.thr.rep = none)
    (h : SpansOnly (s.modThr (fun t => (t.setName d c).putFlags f)) s3) :
    s3.retire.thr.name d = c ∧ s3.retire.thr.flags = s.thr.flags.put f ∧ s3.retire.mem = s.mem := by
  obtain ⟨cs, x, y, rfl⟩ := h
  refine ⟨?_, ?_, rfl⟩
  · refine (Thread.retire_name _ _ (.inl ?_)).trans ?_
    · simpa using hrep
    · change (s.thr.setName d c).name d = c
      simp [Thread.name_setName, hd]
  · simp [Thread.putFlags]

theorem resizeResult : ResizeResult := by
  intro d wid s s1 hq
  refine ⟨fun r hr h63 hb hn hp hrep => ?_, fun hr h63 hb hn => ?_, fun hr hbad => ?_, fun hbad => ?_⟩
  · have he := exec_resize_ready (wid := wid) hq hr
    dsimp only at he
    rw [if_neg (by simp [h63, hb]), hn] at he
    simp only [hp, List.length_nil, State.repackAll] at he
    obtain ⟨hname, hflags, hmem⟩ := resized h63 hrep (resizeSpan_spans (s1.modThr (fun t =>
      (t.setName d { s1.thr.name d with width := wid, pat := r.pat }).putFlags r.flags)) s1.cur.1 s1.cur.2 s1.thr.spanBits)
    exact ⟨_, he, congrArg NameCell.width hname, congrArg NameCell.pat hname, hflags, hmem⟩
  · rw [exec_resize_ready hq hr]
    simp only [h63, hb, hn, ne_eq, not_true_eq_false, or_self, if_false]
    rfl
  · rw [exec_resize_ready hq hr]
    exact if_pos hbad
  · change execResize d wid s = _
    simp only [execResize, hq]
    exact guarded_fail (useFail_decl hbad)

/-- Settles O6: the instructions on modes, widths and the flags word, and what they refuse. -/
theorem nameControls : Obligations.NameControls := ⟨mapAndFlags, resizeResult⟩

end Sys2Proof.Claims
end

section
/-! PROOFS. Taking a trap and returning from one (R25 to R28), and the control registers (R12, R20, R59, R78, R190, R318). -/

namespace Sys2Proof.Claims
open Sys2Proof Sys2Proof.Machine

/-! ## The vector unit has served a slot (R153 to R155) -/

@[simp] theorem vq_modThread (s : State) (c i j : Nat) (f : Thread → Thread) : ((s.modThread c i f).core j).vq = (s.core j).vq := by
  unfold State.modThread State.putThread
  split
  · rfl
  · split
    · rfl
    · split <;> rfl
    · rw [State.core_setCore]
      split
      · subst_vars; rfl
      · rfl

@[simp] theorem vq_handOver (s : State) (c i id j : Nat) : ((s.handOver c i id).core j).vq = (s.core j).vq := by
  unfold State.handOver
  dsimp only
  rw [vq_modThread, State.core_setCore]
  split
  · subst_vars; rfl
  · rfl

@[simp] theorem vq_vectorServe (s : State) (c j : Nat) (e : VqEntry) : ((s.vectorServe c e).core j).vq = (s.core j).vq := by
  cases e with
  | op _ => rfl
  | handoff i id => exact vq_handOver s c i id j

/-- How many entries wait at the vector unit of a quad. -/
def vqTotal (s : State) (q : Nat) : Nat := ((List.range 4).map (fun c => (s.core (4 * q + c)).vq.length)).sum

theorem vqTotal_eq (s : State) (q : Nat) : vqTotal s q = (s.core (4 * q)).vq.length + (s.core (4 * q + 1)).vq.length +
    (s.core (4 * q + 2)).vq.length + (s.core (4 * q + 3)).vq.length := by
  simp [vqTotal, List.range_succ, Nat.add_assoc]

/-- A take shortens one queue of the quad by one entry. -/
theorem vqTotal_vectorTake {q : Nat} {l : List Nat} {s : State} (hl : ∀ c ∈ l, c < 4)
    (h : ∃ c ∈ l, (s.core (4 * q + c)).vq ≠ []) : vqTotal (s.vectorTake q l) q + 1 = vqTotal s q := by
  induction l with
  | nil => obtain ⟨c, hc, _⟩ := h; cases hc
  | cons c r ih =>
    unfold State.vectorTake
    dsimp only
    split
    case h_1 he =>
      refine ih (fun x hx => hl x (List.mem_cons_of_mem c hx)) ?_
      obtain ⟨x, hx, hne⟩ := h
      rcases List.mem_cons.1 hx with rfl | hx
      · exact absurd he hne
      · exact ⟨x, hx, hne⟩
    case h_2 e rest he =>
      have hc : c < 4 := hl c List.mem_cons_self
      have hv (j : Nat) : (((((s.setCore (4 * q + c) { s.core (4 * q + c) with vq := rest }).setQuad q
          { s.quad q with lastVec := c }).vectorServe (4 * q + c) e).core (4 * q + j)).vq).length =
          if j = c then rest.length else (s.core (4 * q + j)).vq.length := by
        rw [vq_vectorServe]
        change (((s.setCore (4 * q + c) { s.core (4 * q + c) with vq := rest }).core (4 * q + j)).vq).length = _
        rw [State.core_setCore]
        by_cases hj : j = c
        · simp [hj]
        · simp [hj]
      have h0 := hv 0
      rw [Nat.add_zero] at h0
      rw [vqTotal_eq, vqTotal_eq, h0, hv 1, hv 2, hv 3]
      have hlen : (s.core (4 * q + c)).vq.length = rest.length + 1 := by rw [he]; rfl
      interval_cases c <;> simp_all <;> omega

/-- After as many takes as entries wait, none of a slot's operations is left. -/
theorem op_not_mem_vectorDrain (c i n : Nat) (s : State) (h : vqTotal s (c / 4) ≤ n) :
    VqEntry.op i ∉ ((s.vectorDrain c i n).core c).vq := by
  have hc : 4 * (c / 4) + c % 4 = c := by omega
  induction n generalizing s with
  | zero =>
    have h0 : (s.core c).vq.length ≤ vqTotal s (c / 4) := by
      have hm : c % 4 ∈ List.range 4 := List.mem_range.2 (by omega)
      have := List.single_le_sum (l := (List.range 4).map (fun j => (s.core (4 * (c / 4) + j)).vq.length))
        (fun _ _ => Nat.zero_le _) _ (List.mem_map.2 ⟨_, hm, rfl⟩)
      rwa [hc] at this
    have he : (s.core c).vq = [] := List.eq_nil_of_length_eq_zero (by omega)
    simp [State.vectorDrain, he]
  | succ n ih =>
    unfold State.vectorDrain
    split
    case isTrue hm =>
      refine ih _ ?_
      have := vqTotal_vectorTake (q := c / 4) (l := Machine.rotation (s.quad (c / 4)).lastVec) (s := s)
        (fun x hx => by simp only [Machine.rotation, List.mem_map] at hx; obtain ⟨_, _, rfl⟩ := hx; omega)
        ⟨c % 4, mem_rotation _ _ (by omega), by rw [hc]; exact List.ne_nil_of_mem hm⟩
      omega
    case isFalse hm => exact hm

theorem op_not_mem_vectorDone (s : State) (c i : Nat) : VqEntry.op i ∉ ((s.vectorDone c i).core c).vq :=
  op_not_mem_vectorDrain c i _ s (Nat.le_refl _)

/-! ## Trap entry (R25 to R27) -/

/-- A trap of a thread with no window open: the vector unit comes to its entries, then it enters its handler or freezes. -/
theorem takeTrap_quiet {s : State} {x : Trap} (h : s.thr.inflight = []) :
    s.takeTrap x = let v := s.vectorDone s.cur.1 s.cur.2
      { (v.trapEntry s.cur.1 s.cur.2 v.thr (v.thr.held x)).1 with
        thr := (v.trapEntry s.cur.1 s.cur.2 v.thr (v.thr.held x)).2 } := by
  simp [State.takeTrap, Thread.quiet, State.settleWindows, h]

theorem noteCode_other {s : State} {t : Thread} {h : HeldTrap} (hl : t.launch = none ∨ h.trap.cause ≠ .codeIntegrity) :
    s.noteCode t h = s := by
  unfold State.noteCode
  split
  · rename_i hj
    rw [if_neg (hl.resolve_left (by simp [hj]))]
  · rfl

@[simp] theorem held_trap (t : Thread) (x : Trap) : (t.held x).trap = x := by
  unfold Thread.held; split <;> split <;> rfl

@[simp] theorem held_pc (t : Thread) (x : Trap) : (t.held x).pc = t.pc := by
  unfold Thread.held; split <;> split <;> rfl

/-- The step of an expansion that a trap inside it reports (R333). -/
theorem held_exp {t : Thread} {x : Trap} (h : t.exp = none ∨ x.fetch = false) : (t.held x).exp = t.exp.map (fun e => e.step) := by
  unfold Thread.held
  split <;> split <;> simp_all

theorem held_congr {t u : Thread} {x : Trap} (h1 : t.rep = u.rep) (h2 : t.pc = u.pc) (h3 : t.ir = u.ir) (h4 : t.exp = u.exp) :
    t.held x = u.held x := by
  simp [Thread.held, h1, h2, h3, h4]

theorem trapEntry_handler : TrapEntry := by
  intro s x s1 hw ht hl v hrec
  obtain ⟨cs, qs, ks, o, hv⟩ := vectorDone_form s s.cur.1 s.cur.2
  have hthr : v.thr = { s.thr with toks := ks, out := o } := congrArg State.thr hv
  have hl' : v.thr.launch = none ∨ (v.thr.held x).trap.cause ≠ .codeIntegrity := by rw [held_trap, hthr]; exact hl
  have ht' : v.thr.privl.tact = false := by rw [hthr]; exact ht
  have he : v.trapEntry s.cur.1 s.cur.2 v.thr (v.thr.held x) = (s1, v.thr.enterHandler (v.thr.held x)) := by
    simp only [State.trapEntry, noteCode_other hl', ht', hrec, Bool.false_eq_true, if_false]
  refine ⟨fun e hm hop => op_not_mem_vectorDone s s.cur.1 s.cur.2 (hop ▸ hm), _, takeTrap_quiet hw, ?_⟩
  dsimp only
  rw [he]
  have hpc : v.thr.pc = s.thr.pc := by rw [hthr]
  have hexp : v.thr.exp = s.thr.exp := by rw [hthr]
  refine ⟨by simp [Thread.enterHandler], by simp [Thread.enterHandler, hpc], by simp [Thread.enterHandler], fun hn => ?_,
    fun e hs hf => ?_, by simp [Thread.enterHandler, hthr], by simp [Thread.enterHandler, hthr], rfl,
    by simp [Thread.enterHandler, hthr], by simp [Thread.enterHandler, hthr], by simp [Thread.enterHandler, hthr],
    by simp [Thread.enterHandler, hthr], by simp [Thread.enterHandler, hthr], rfl⟩
  · have h0 : (v.thr.held x).exp = none := by rw [held_exp (.inl (hexp.trans hn)), hexp, hn]; rfl
    simp [Thread.enterHandler, HeldTrap.trapx, h0]
  · have h0 : (v.thr.held x).exp = some e.step := by rw [held_exp (.inr hf), hexp, hs]; rfl
    simp [Thread.enterHandler, HeldTrap.trapx, h0]

theorem trapFreezes : TrapFreezes := by
  intro s x hw ht hl
  obtain ⟨cs, qs, ks, o, hv⟩ := vectorDone_form s s.cur.1 s.cur.2
  have hthr : (s.vectorDone s.cur.1 s.cur.2).thr = { s.thr with toks := ks, out := o } := congrArg State.thr hv
  refine ⟨_, takeTrap_quiet hw, ?_⟩
  have ht' : (s.vectorDone s.cur.1 s.cur.2).thr.privl.tact = true := by rw [hthr]; exact ht
  have hh : (s.vectorDone s.cur.1 s.cur.2).thr.held x = s.thr.held x := by
    rw [hthr]; exact held_congr rfl rfl rfl rfl
  simp only [State.trapEntry, ht', if_true, State.freeze, hh]
  refine ⟨trivial, by rw [hthr], by rw [hthr], by rw [hthr], by rw [hthr], by rw [hthr], by simp [Thread.canMove]⟩

/-- Settles O9: the handler's state where the record can be written, the frozen slot under TACT. -/
theorem trapEntries : Obligations.TrapEntries := ⟨trapEntry_handler, trapFreezes⟩

end Sys2Proof.Claims
end

section
/-! PROOFS. The return from a trap (R28), and the control registers (R12, R20, R59, R78, R190, R318). -/

namespace Sys2Proof.Claims
open Sys2Proof Sys2Proof.Machine

/-! ## The return from a trap (R28) -/

/-- The thread after its ERET: flags of the record's first word `w0`, from `pc`, past a REP or not. -/
def returned (w0 : Nat) (pc : Word) (rep : Bool) (t : Thread) : Thread :=
  let t1 := if rep then t.setRp 0 else t
  { t1.jumpTo (evenPc pc) with
    shadows := if t.privl.skip then [] else t1.shadows.filter (fun x => !x.tact && decide (x.pc = evenPc pc))
    flags := Flags.ofNat (bits w0 8 5)
    inflight := t1.inflight.map (fun e => { e with flagsLive := false, sfLive := false })
    privl := ⟨t.privl.ppriv, false, t.privl.ppriv, false⟩ }

@[simp] theorem returned_pc (w0 : Nat) (pc : Word) (rep : Bool) (t : Thread) : (returned w0 pc rep t).pc = evenPc pc := rfl

@[simp] theorem returned_flags (w0 : Nat) (pc : Word) (rep : Bool) (t : Thread) :
    (returned w0 pc rep t).flags = Flags.ofNat (bits w0 8 5) := rfl

@[simp] theorem returned_privl (w0 : Nat) (pc : Word) (rep : Bool) (t : Thread) :
    (returned w0 pc rep t).privl = ⟨t.privl.ppriv, false, t.privl.ppriv, false⟩ := rfl

@[simp] theorem jumpTo_vregs (t : Thread) (pc : Word) : (t.jumpTo pc).vregs = t.vregs := by
  rw [Thread.jumpTo, t.stepDone_form]

@[simp] theorem jumpTo_names (t : Thread) (pc : Word) : (t.jumpTo pc).names = t.names := by
  rw [Thread.jumpTo, t.stepDone_form]

@[simp] theorem returned_vregs (w0 : Nat) (pc : Word) (rep : Bool) (t : Thread) : (returned w0 pc rep t).vregs = t.vregs := by
  cases rep
  · simp [returned]
  · rw [← show (t.setRp 0).vregs = t.vregs by rw [t.setRp_form]]
    simp [returned]

@[simp] theorem returned_names (w0 : Nat) (pc : Word) (rep : Bool) (t : Thread) :
    (returned w0 pc rep t).names = (if rep then t.setRp 0 else t).names := by
  simp [returned]

/-- An ERET whose record is read: it goes on at TRAPPC, or past the instruction there. -/
theorem exec_eret_ready {s s1 s2 s3 : State} {ps : List Piece} {bs : List Byte} (hr : Ready s { sys := true } s1)
    (ha : s1.access s1.thr s1.cur.1 .read (s1.thr.traprec.toNat / 64 * 64) 64 64 = (.ok ps, s2))
    (hl : s2.loadBytes ps = (.ok bs, s3)) : exec .eret s =
      if !s3.thr.privl.skip then .next (s3.modThr (returned (leNat (bs.take 8)) s3.thr.trappc false))
      else match s3.skipLength { s3.thr with privl := { s3.thr.privl with priv := s3.thr.privl.ppriv } } s1.cur.1
          (bits (leNat (bs.take 8)) 16 3) with
        | (none, s4) => .next (s4.modThr (returned (leNat (bs.take 8)) s3.thr.trappc false))
        | (some (n, r), s4) => .next (s4.modThr (returned (leNat (bs.take 8)) (s3.thr.trappc + BitVec.ofNat 64 n) r)) := by
  change execEret s = _
  rw [execEret, guarded_ready hr]
  simp only [State.returnFromTrap, ha, hl]
  split
  · rfl
  · split <;> rename_i heq <;> simp only [heq] <;> rfl

/-- ILEN 1 to 4 tell the length and whether it is a REP (R28). -/
theorem skipLength_known (s : State) (t : Thread) (core : Nat) {k : Nat} (h1 : 1 ≤ k) (h4 : k ≤ 4) :
    s.skipLength t core k = (some (if k = 1 then 2 else if k = 4 then 6 else 4, decide (3 ≤ k)), s) := by
  interval_cases k <;> rfl

/-- Settles O10: with SKIP = 0 to TRAPPC, with SKIP = 1 past the instruction there. -/
theorem trapReturn : Obligations.TrapReturn := by
  intro s s1 s2 s3 ps bs hr ha hl
  have he := exec_eret_ready hr ha hl
  refine ⟨fun hs => ?_, fun hs q s4 hq => ⟨?_, ?_⟩⟩
  · rw [hs] at he
    exact ⟨_, he, by simp, by simp, by simp, by simp, by simp, rfl⟩
  · rintro k rfl h1 h4
    rw [skipLength_known _ _ _ h1 h4] at hq
    simp only [Prod.mk.injEq] at hq
    exact ⟨hq.1.symm, hq.2.symm⟩
  · rw [hs, hq] at he
    cases q with
    | none => exact ⟨_, he, by simp, by simp, by simp, by simp, by simp, rfl⟩
    | some p =>
      obtain ⟨n, r⟩ := p
      refine ⟨_, he, by simp, by simp, by simp, by simp, ?_, rfl⟩
      cases r <;> simp

/-! ## Control registers -/

theorem csrWriteResult : CsrWriteResult := by
  intro s s1 d c
  refine ⟨fun h => if_pos h, fun h hr => (if_neg (by simp [h])).trans (guarded_ready hr)⟩

theorem bit1_eq (x i : Nat) : (bit1 x i).toNat = bits x i 1 := by
  have h : x / 2 ^ i % 2 = 0 ∨ x / 2 ^ i % 2 = 1 := by omega
  rcases h with h | h <;> simp [bit1, bits, h]

/-- Neighbouring fields of a number are one field. -/
theorem bits_append (x lo m n : Nat) : bits x lo m + 2 ^ m * bits x (lo + m) n = bits x lo (m + n) := by
  unfold bits
  rw [pow_add, pow_add, ← Nat.div_div_eq_div_mul, Nat.mod_mul]

theorem threadRegisters : ThreadRegisters := by
  intro s v
  refine ⟨rfl, rfl, rfl, rfl, rfl, rfl, rfl, rfl, ?_, ?_, ?_⟩
  · simp only [State.csrWrite, State.csrRead, State.modThr_thr, Privl.word, Privl.ofNat, bit1_eq]
    rw [← bits_append v 1 1 2, ← bits_append v 2 1 1]
    ring
  · simp only [State.csrWrite, State.csrRead, State.modThr_thr, Dbgctl.word, Dbgctl.write, Dbgctl.ofNat, bit1_eq]
    rw [← bits_append v 0 1 2, ← bits_append v 1 1 1, show 1 + 1 = 2 from rfl]
    have h : bits v 4 2 < 4 := Nat.mod_lt _ (by omega)
    split
    · omega
    · rw [BitVec.toNat_ofNat, Nat.mod_eq_of_lt h]; omega
  · simp only [State.csrWrite, State.csrRead, State.modThr_thr, Srngc.word, Srngc.ofNat, bit1_eq]
    rw [← bits_append v 0 2 3, ← bits_append v 2 1 2, ← bits_append v 3 1 1]
    have h : bits v 0 2 < 4 := Nat.mod_lt _ (by omega)
    have h2 : bits v 12 45 < 2 ^ 45 := Nat.mod_lt _ (by omega)
    rw [BitVec.toNat_ofNat, BitVec.toNat_ofNat, Nat.mod_eq_of_lt h, Nat.mod_eq_of_lt h2]
    ring

theorem sharedRegisters : SharedRegisters := by
  intro s v
  dsimp only
  refine ⟨?_, fun h => ?_, fun h => ?_, rfl, ?_⟩
  · change (s.setCore s.cur.1 _).core s.cur.1 = _
    rw [State.core_setCore, if_pos rfl]
  · simp only [State.csrWrite, State.writeSplitc, h, if_true]
    exact setSplit_split _ _ _ _
  · simp only [State.csrWrite, State.writeSplitc, h, Bool.false_eq_true, if_false]
  · have h36 : bits v 12 36 < 2 ^ 36 := Nat.mod_lt _ (by omega)
    simp only [State.csrWrite, State.csrRead, State.modDev_dev, Device.errStat, Device.setErrStat, bit1_eq, BitVec.toNat_ofNat,
      Nat.mod_eq_of_lt h36]
    cases bit1 v 8 <;> simp

/-- Settles O12: what CSRW may write, and what it leaves in the fields that a register does not take from it. -/
theorem controlRegisterWrite : Obligations.ControlRegisterWrite := ⟨csrWriteResult, threadRegisters, sharedRegisters⟩

end Sys2Proof.Claims
end

section
/-! PROOFS. Loads and stores: scalars, vector registers, lanes, blocks, and the checks of a pointer (R119 to R121, R185, R186,
R236 to R244). -/

namespace Sys2Proof.Claims
open Sys2Proof Sys2Proof.Machine

/-! ## Accesses of one part -/

theorem accessAll_one_fail {s s1 : State} {k : AccKind} {p n al : Nat} {f : Fail}
    (h : s.access s.thr s.cur.1 k p n al = (.error f, s1)) : s.accessAll k [(p, n, al)] = (.error f, s1) := by
  simp [State.accessAll, h]

theorem loading_one_fail {s s1 : State} {p n al : Nat} {f : Fail} {k : List Byte → State → Out}
    (h : s.access s.thr s.cur.1 .read p n al = (.error f, s1)) :
    s.loading [(p, n, al)] k = .next (s1.takeTrap f.trap) := by
  simp only [State.loading, accessAll_one_fail h]; rfl

theorem storing_one_fail {s s1 : State} {p n al : Nat} {bs : List Byte} {f : Fail} {k : State → Out}
    (h : s.access s.thr s.cur.1 .write p n al = (.error f, s1)) :
    s.storing [(p, n, al)] bs k = .next (s1.takeTrap f.trap) := by
  simp only [State.storing, accessAll_one_fail h]; rfl

/-! ## Scalar loads and stores (R236, R237, R239) -/

/-- The number that a row's load makes of its bytes. -/
def LoadRow.number (w : LoadRow) (s : State) (bs : List Byte) : Int :=
  if w.signed s then patVal .signed (8 * w.size) (leNat bs) else leNat bs

/-- What a scalar load does with the bytes that it has read. -/
def LoadRow.finish (w : LoadRow) (bs : List Byte) (s : State) : Out :=
  if (s.thr.name w.d).kind.isFloat then
    s.finishLong w.look.val [w.a] { Pending.none with names := [(w.d, BitVec.ofNat 64 (leNat bs))] }
  else s.narrowLong w.look.val [w.a] w.d (w.number s bs)

/-- Each scalar load reads the bytes that its row names. -/
theorem exec_eq_load {i : Instr} {w : LoadRow} (h : loadRow i = some w) (s : State) :
    exec i s = s.guarded { reads := ints [w.a], writes := [(w.d, .intOr w.kinds)] } (fun s =>
      s.loading [(s.ptrOf w.a (w.imm * w.size), w.size, w.size)] w.finish) := by
  unfold loadRow at h
  split at h
  case h_8 => cases h
  case h_4 d a i l => -- LDD
    cases h
    have e (t : Thread) (n : Nat) : t.loadVal d n = if decide ((t.name d).kind = .signed) then patVal .signed 64 n else n := by
      unfold Thread.loadVal; split <;> simp_all
    change execLdd d a i l s = _
    simp only [execLdd, State.scalarLoad, e]
    rfl
  all_goals (cases h; rfl)

theorem narrowLong_none {s : State} {l : Nat} {rd : List Name} {d : Name} {x : Int} (h : s.thr.narrow d x = none) :
    s.narrowLong l rd d x = .next (s.takeTrap (mkTrap .widthOverflow 0 d.val (lowBits 64 x))) := by
  simp [State.narrowLong, h, State.trap, widthOverflow]

theorem loadResult : LoadResult := by
  intro i w s s1 s2 s3 ps bs hi hr hh hg
  have he : exec i s = w.finish bs s3 := by
    rw [exec_eq_load hi, guarded_ready hr]
    exact loading_one hh hg
  refine ⟨fun hf => ?_, fun r hf hn => ?_, fun x hx hf hn => ?_⟩
  · rw [he, LoadRow.finish, if_pos hf]
    exact finishLong_eq _ _ _ _
  · rw [he, LoadRow.finish, hf, if_neg Bool.false_ne_true]
    exact narrowLong_some hn
  · rw [he, LoadRow.finish, hf, if_neg Bool.false_ne_true, LoadRow.number, ← hx]
    exact narrowLong_none hn

/-- Each scalar store runs as the shared operation `State.scalarStore`. -/
theorem exec_eq_store {i : Instr} {d a : Name} {imm : Int} {l : Look} {n : Nat} {ks : List Kind}
    (h : storeRow i = some (d, a, imm, l, n, ks)) (s : State) : exec i s = s.scalarStore d a imm l n ks := by
  unfold storeRow at h
  split at h
  case h_5 => cases h
  all_goals (cases h; rfl)

theorem storeResult : StoreResult := by
  intro i d a imm l n ks s s1 s2 ps hi hr hh
  rw [exec_eq_store hi, State.scalarStore, guarded_ready hr]
  refine (storing_one hh).trans ?_
  exact finishLong_eq _ _ _ _

/-- Settles O16: a load narrows the bytes that it reads, a store writes the low bytes of its source. -/
theorem loadsAndStores : Obligations.LoadsAndStores := ⟨loadResult, storeResult⟩

/-! ## The checks of a pointer (R185, R186) -/

/-- The first check that fails is what the access reports; nothing is read or translated. -/
theorem access_refused {s : State} {t : Thread} {core : Nat} {k : AccKind} {p n al : Nat} {f : Fail}
    (h : Option.orFail (windowFail core k p) (alignFail p al) = some f) : s.access t core k p n al = (.error f, s) := by
  simp only [State.access, h]

theorem pointerChecks : PointerChecks := by
  intro s k p n al hp
  refine ⟨fun h => ?_, fun h hm => ?_, fun h hm hc => ?_, fun h hm hc => ?_, fun h hm ha hal => ?_⟩
  · exact access_refused (by simp [windowFail, Option.orFail, h])
  · exact access_refused (by simp [windowFail, Option.orFail, hm, show ¬ 4 ≤ ptrTag p by omega])
  · exact access_refused (by simp [windowFail, Option.orFail, h, hm, ptrCore, hc])
  · exact ⟨⟨3, mkTrap .spaceForeign p (ptrCore p) s.cur.1⟩,
      access_refused (by simp [windowFail, Option.orFail, h, hm, hc]), rfl, rfl⟩
  · exact access_refused (by simp [windowFail, alignFail, Option.orFail, h, hm, ha, hal])

theorem accessTraps : AccessTraps := by
  constructor
  · intro i w s s1 s2 f hi hr ha
    rw [exec_eq_load hi, guarded_ready hr]
    exact loading_one_fail ha
  · intro i d a imm l n ks s s1 s2 f hi hr ha
    rw [exec_eq_store hi, State.scalarStore, guarded_ready hr]
    exact storing_one_fail ha

/-- Settles O19: the checks of the window come before alignment; the first that fails is the trap. -/
theorem pointerTraps : Obligations.PointerTraps := ⟨pointerChecks, accessTraps⟩

/-! ## Vector loads and stores (R240 to R244) -/

theorem tagsAre_one {s : State} {d : VReg} {tag : Tag} (h : (s.thr.vreg d).tag = tag) : s.tagsAre [d] tag = none := by
  simp [State.tagsAre, State.tagOf, h]

theorem vstoring_all {s s1 : State} {parts : List (Nat × Nat × Nat)} {ps : List Piece} {bs : List Byte} {k : State → Out}
    (h : HitAll s .write parts ps s1) : s.vstoring parts bs k = k (s1.storeWords s1.cur.1 ps bs) := by
  unfold HitAll at h; simp only [State.vstoring, h]

theorem vectorLoadResult : VectorLoadResult := by
  intro i d a l u reads parts f s s1 s2 s3 ps bs hi hr hh hg
  unfold vloadRow at hi
  split at hi
  case h_1 => -- VLD
    cases hi
    exact (guarded_ready hr).trans ((loading_all hh hg).trans (finishLong_eq _ _ _ _))
  case h_2 => -- VLDB
    cases hi
    exact (guarded_ready hr).trans ((loading_all hh hg).trans (finishLong_eq _ _ _ _))
  case h_3 => -- VLDX
    split at hi
    case isTrue => cases hi
    case isFalse hl =>
      cases hi
      exact (if_neg hl).trans ((guarded_ready hr).trans ((loading_all hh hg).trans (finishLong_eq _ _ _ _)))
  case h_4 => cases hi

theorem vectorStoreResult : VectorStoreResult := by
  intro d a tag fmt l s s1 s2 ps
  refine ⟨fun hr ht hh => ?_, fun hr hl ht hh => ?_, fun hu ht => ?_, fun hk bs => ?_⟩
  · change execVst d a tag l s = _
    rw [execVst, guardedIf_ready hr (tagsAre_one ht)]
    exact (vstoring_all hh).trans (finishLong_eq _ _ _ _)
  · change execVstx d a fmt l s = _
    rw [execVstx, if_neg (by simp [hl]), guardedIf_ready hr (tagsAre_one ht)]
    exact (vstoring_all hh).trans (finishLong_eq _ _ _ _)
  · change execVst d a tag l s = _
    have hx : s.tagsAre [d] tag = some (mkTrap .tagMismatch 0 (s.thr.vreg d).tag.code tag.code) := by
      simp [State.tagsAre, State.tagOf, tagFail, ht]
    simp only [execVst, State.guardedIf, hu, hx]
    rfl
  · simp [State.storeWords, hk]

/-- Settles O20: a vector load makes its register of the bytes read, a vector store writes the image of its register. -/
theorem vectorMemory : Obligations.VectorMemory := ⟨vectorLoadResult, vectorStoreResult⟩

/-- Settles O21: a gather joins the lanes that it reads, a scatter writes its lanes in their order. -/
theorem gatherScatter : Obligations.GatherScatter := by
  intro d a tag l s s1 s2 s3 ps bs hidx
  refine ⟨fun hr ha hg => ?_, fun hr ht ha => ?_⟩
  · change execVgath d a tag l s = _
    rw [execVgath, guardedIf_ready hr (tagsAre_one hidx)]
    simp only [ha, State.loadBytes, hg.1, hg.2]
    exact finishLong_eq _ _ _ _
  · change execVscat d a tag l s = _
    rw [execVscat, guardedIf_ready hr]
    · simp only [ha]
      exact finishLong_eq _ _ _ _
    · simp only [tagsAre_one ht, tagsAre_one hidx]

/-! ## Frame of a scratchpad store (R190, R239) -/

theorem retire_names_of_none {t : Thread} (h : t.rep = none) : t.retire.names = t.names := by
  have e : t.stepDone.rep = none := by rw [Thread.stepDone_rep, h]
  simp only [Thread.retire, e]
  rw [t.stepDone_form]

/-- An instruction with no result, no operand bound and no repeat leaves memory, names and flags. -/
theorem afterLong_none {s : State} {rd : List Name} (h : ∀ n ∈ rd, (s.thr.name n).bind = .none) (hrep : s.thr.rep = none)
    (l : Nat) : (AfterLong s l rd Pending.none).mem = s.mem ∧ (AfterLong s l rd Pending.none).thr.names = s.thr.names ∧
      (AfterLong s l rd Pending.none).thr.flags = s.thr.flags := by
  unfold AfterLong
  split
  · simp only [After, State.consume_unbound s rd h, State.apply, Pending.none, List.foldl_nil]
    refine ⟨rfl, ?_, ?_⟩
    · exact retire_names_of_none hrep
    · simp [Thread.putFlags, Flags.put, FlagWrite.none]
  · rw [State.consume_unbound s rd h]
    refine ⟨rfl, ?_, ?_⟩
    · exact retire_names_of_none hrep
    · exact Thread.retire_flags _

/-- A scratchpad pointer of the core that passes its checks reaches one run of bytes (R185, R186, R190). -/
theorem access_sram {s : State} {k : AccKind} {p n al : Nat} (ht : ptrTag p = 2) (hc : ptrCore p = s.cur.1)
    (hm : ptrMbz p = false) (ha : p % al = 0) (hn : ptrOff p + n ≤ 16384 * (s.core s.cur.1).sps)
    (ho : (s.core s.cur.1).own = s.thr.ctx) (hd : s.thr.dbgctl.den = false) :
    s.access s.thr s.cur.1 k p n al = (.ok [⟨p, .sram s.cur.1 (ptrOff p), n⟩], s) := by
  have hw : Option.orFail (windowFail s.cur.1 k p) (alignFail p al) = none := by
    simp [windowFail, alignFail, Option.orFail, ht, hc, hm, ha]
  have hb : ¬(16384 * (s.core s.cur.1).sps < ptrOff p + n ∨ (s.core s.cur.1).own ≠ s.thr.ctx) := by
    rw [not_or]; exact ⟨by omega, not_not.2 ho⟩
  have hmatch : s.thr.matchFail p k = none := by simp [Thread.matchFail, Thread.dataMatch, hd]
  simp only [State.access, hw, ht, hc, if_neg hb, hmatch]

theorem sram_putSram (m : Mem) (x : Sram) (c : Nat) : (m.putSram x).sram c = if c = x.core then x else m.sram c := by
  unfold Mem.sram Mem.putSram
  by_cases h : c = x.core
  · simp [h]
  · have h' : ¬ x.core = c := fun e => h e.symm
    simp only [List.find?_cons, h', decide_false, if_neg h, List.find?_filter]
    congr 2
    funext y
    by_cases hy : y.core = c
    · simp [hy, h]
    · simp [hy]

theorem sram_core (m : Mem) (c : Nat) : (m.sram c).core = c := by
  unfold Mem.sram
  split
  · rename_i x hx
    simpa using List.find?_some hx
  · rfl

/-- The addresses of a run of bytes. -/
theorem mem_bytesAt {a : Nat} {bs : List Byte} {p : Host.Cell} (h : p ∈ bytesAt a bs) : a ≤ p.1 ∧ p.1 < a + bs.length := by
  induction bs generalizing a with
  | nil => cases h
  | cons b r ih =>
    rcases List.mem_cons.1 h with rfl | h
    · simp
    · have := ih h
      simp only [List.length_cons]
      omega

theorem cellsRead_one (l : List Host.Cell) (a : Nat) : cellsRead l a 1 = [cellGet l a] := rfl

/-- A write to a scratchpad is read back, and every other byte of every scratchpad is as before. -/
theorem sramWrite_frame {m : Mem} (w : m.wf = true) (core off : Nat) (bs : List Byte) :
    (m.sramWrite core (bytesAt off bs)).sramRead core off bs.length = bs ∧
    ∀ c a, (c ≠ core ∨ a < off ∨ off + bs.length ≤ a) →
      (m.sramWrite core (bytesAt off bs)).sramRead c a 1 = m.sramRead c a 1 := by
  have hwf := m.sram_wf core w
  have hs (c : Nat) : ((m.sramWrite core (bytesAt off bs)).sram c).cells =
      if c = core then cellsWrite (m.sram core).cells (bytesAt off bs) else (m.sram c).cells := by
    rw [Mem.sramWrite, sram_putSram, sram_core]
    split <;> rfl
  refine ⟨?_, fun c a h => ?_⟩
  · rw [Mem.sramRead, hs, if_pos rfl, cellsRead_cellsWrite _ _ _ hwf]
  · rw [Mem.sramRead, Mem.sramRead, hs, cellsRead_one, cellsRead_one]
    split
    · rename_i hc
      subst hc
      rw [cellGet_cellsWrite_other _ _ hwf]
      intro p hp
      have := mem_bytesAt hp
      omega
    · rfl

@[simp] theorem leBytes_length (n x : Nat) : (leBytes n x).length = n := by
  induction n generalizing x with
  | zero => rfl
  | succ n ih => simp [leBytes, ih]

/-- Settles O17: the access reaches one run of bytes of the core's scratchpad, and the store writes that run. -/
theorem scratchStoreFrame : Obligations.ScratchStoreFrame := by
  intro i d a imm l n ks s hi hr hfree p ht hc hm ha hn ho hd hrep hw
  have hh : Hit s .write (lowBits 64 (s.val a + imm * n)) n n [⟨p, .sram s.cur.1 (ptrOff p), n⟩] s :=
    access_sram ht hc hm ha hn ho hd
  obtain ⟨hmem, hnames, hflags⟩ := afterLong_none (rd := [d, a]) (s := s.storePieces s.cur.1 [⟨p, .sram s.cur.1 (ptrOff p), n⟩]
    (leBytes n (s.ext d % 2 ^ (8 * n)))) (bind_of_unbound hfree).1 hrep l.val
  have he : (s.storePieces s.cur.1 [⟨p, .sram s.cur.1 (ptrOff p), n⟩] (leBytes n (s.ext d % 2 ^ (8 * n)))).mem =
      s.mem.sramWrite s.cur.1 (bytesAt (ptrOff p) (leBytes n (s.ext d % 2 ^ (8 * n)))) := by
    simp [State.storePieces, State.storePiece, List.take_of_length_le]
  obtain ⟨hread, hother⟩ := sramWrite_frame hw s.cur.1 (ptrOff p) (leBytes n (s.ext d % 2 ^ (8 * n)))
  rw [leBytes_length] at hread hother
  refine ⟨_, storeResult i d a imm l n ks s s s _ hi hr hh, ?_, fun c off h => ?_, ?_, ?_, ?_, hnames, hflags⟩
  · rw [hmem, he, hread]
  · rw [hmem, he, hother c off h]
  · rw [hmem, he]; rfl
  · rw [hmem, he]; rfl
  · rw [hmem, he]; rfl

/-! ## Block moves (R119 to R121) -/

theorem bind_setFreePat (t : Thread) (n m : Name) (p : Word) : ((t.setFreePat n p).name m).bind = (t.name m).bind := by
  unfold Thread.setFreePat
  split
  · rfl
  · rw [Thread.name_setPat]
    split
    · rfl
    · rename_i h
      rw [show m = n by tauto]

theorem bind_foldl_setFreePat (vs : List (Name × Word)) (t : Thread) (m : Name) :
    ((vs.foldl (fun t p => t.setFreePat p.1 p.2) t).name m).bind = (t.name m).bind := by
  induction vs generalizing t with
  | nil => rfl
  | cons p r ih => rw [List.foldl_cons, ih, bind_setFreePat]

/-- The steps of a block move bind and unbind nothing. -/
theorem bind_blockNext (s : State) (mov : Bool) (d a b : Name) (n : Nat) (m : Name) :
    ((s.blockNext mov d a b n).thr.name m).bind = (s.thr.name m).bind := by
  unfold State.blockNext State.stepNames
  exact bind_foldl_setFreePat _ _ m

/-- The end of an instruction in steps, with nothing bound. -/
theorem endSteps_unbound {s : State} {rd wr : List Name} (hr : ∀ n ∈ rd, (s.thr.name n).bind = .none)
    (hw : ∀ n ∈ wr, (s.thr.name n).bind = .none) : s.endSteps rd wr = .next s.retire := by
  have h : wr.filter s.linkBound = [] := by
    rw [List.filter_eq_nil_iff]
    intro n hn
    simp [State.linkBound, hw n hn]
  simp only [State.endSteps, h, List.map_nil, List.foldl_nil, State.consume_unbound s rd hr]
  rfl

/-- A block move whose names and operands pass: nothing left, a trap, or one step. -/
theorem exec_block {mov : Bool} {d a b : Name} {s s0 : State} {u : Use}
    (hu : u = { reads := [(d, .u64), (a, if mov then .u64 else .int), (b, .int)],
                writes := [(d, .any)] ++ (if mov then [(a, .any)] else []) ++ [(b, .any)] })
    (hb : blockNames mov d a b = none) (hr : Ready s u s0) :
    exec (if mov then Instr.bmov d a b else Instr.bset d a b) s =
      if s0.val b ≤ 0 then (s0.consume u.names).done
      else match s0.blockStep mov (s0.upat d) (s0.upat a) (stepLen (s0.upat d) (s0.val b)) (BitVec.ofNat 8 (s0.upat a)) with
        | .error x => s0.blockTrap x
        | .ok s1 =>
          if s0.val b ≤ (stepLen (s0.upat d) (s0.val b) : Int) then
            (s1.blockNext mov d a b (stepLen (s0.upat d) (s0.val b))).endSteps u.names (u.writes.map Prod.fst)
          else (s1.blockNext mov d a b (stepLen (s0.upat d) (s0.val b))).again := by
  subst hu
  have he : exec (if mov then Instr.bmov d a b else Instr.bset d a b) s = s.block mov d a b := by cases mov <;> rfl
  rw [he, State.block, hb]
  exact guarded_ready hr

/-- Settles O22: a step moves what its line holds; the last one ends the instruction, a failed one is its trap. -/
theorem blockStep : Obligations.BlockStep := by
  intro mov d a b s s0 s1 i u hb hr n
  have he := exec_block rfl hb hr
  refine ⟨fun h0 => ?_, fun h0 hs => ⟨fun hn => ?_, fun hn => ?_, fun hn hfree => ?_⟩, fun x h0 hs hx => ?_⟩
  · exact he.trans (if_pos h0)
  · rw [if_neg (not_le.2 h0), hs] at he
    exact he.trans (if_neg (not_le.2 hn))
  · rw [if_neg (not_le.2 h0), hs] at he
    exact he.trans (if_pos hn)
  · rw [if_neg (not_le.2 h0), hs] at he
    refine he.trans ((if_pos hn).trans ?_)
    obtain rfl := ready_eq_of_unbound hr hfree
    obtain ⟨hrd, hwr⟩ := bind_of_unbound hfree
    have hthr : s1.thr = s0.thr := (State.blockStep_only hs).thr
    refine endSteps_unbound (fun m hm => ?_) (fun m hm => ?_)
    · rw [bind_blockNext, hthr]; exact hrd m hm
    · rw [bind_blockNext, hthr]; exact hwr m hm
  · rw [if_neg (not_le.2 h0), hs] at he
    exact he.trans (if_neg hx)

end Sys2Proof.Claims
end

section
/-! PROOFS. The frames of stores to the global window (R194 to R196, R202, R204). -/

namespace Sys2Proof.Machine
open Sys2Proof

/-! ## Bytes of an L1 line -/

/-- Replacing byte `i` of a number leaves what lies below and above it. -/
theorem replaceByte_split (x i b : Nat) :
    (x - x / 2 ^ (8 * i) % 256 * 2 ^ (8 * i) + b * 2 ^ (8 * i)) % 2 ^ (8 * i) = x % 2 ^ (8 * i) ∧
    (x - x / 2 ^ (8 * i) % 256 * 2 ^ (8 * i) + b * 2 ^ (8 * i)) / 2 ^ (8 * i) = x / 2 ^ (8 * i) / 256 * 256 + b := by
  have hp : 0 < 2 ^ (8 * i) := by positivity
  have h1 := Nat.div_add_mod x (2 ^ (8 * i))
  have h2 := Nat.div_add_mod (x / 2 ^ (8 * i)) 256
  have hlt := Nat.mod_lt x hp
  generalize 2 ^ (8 * i) = p at *
  generalize hq : x / p = q at *
  have e : x - q % 256 * p + b * p = x % p + p * (q / 256 * 256 + b) := by
    have hle : q % 256 * p ≤ x := by
      calc q % 256 * p ≤ q * p := Nat.mul_le_mul_right _ (Nat.mod_le _ _)
        _ ≤ x := by rw [← h1, Nat.mul_comm]; omega
    have : x = q % 256 * p + (x % p + p * (q / 256 * 256)) := by
      nlinarith
    zify [hle]
    zify at this
    linarith [this, mul_comm (p : Int) (b : Int), mul_add (p : Int) (q / 256 * 256 : Int) (b : Int)]
  rw [e]
  constructor
  · rw [Nat.add_mul_mod_self_left, Nat.mod_mod]
  · rw [Nat.add_mul_div_left _ _ hp, Nat.div_eq_of_lt hlt, Nat.zero_add]

/-- A byte of a number lies in its remainder above it. -/
theorem byte_of_mod (y : Nat) {i j : Nat} (h : j < i) : y % 2 ^ (8 * i) / 2 ^ (8 * j) % 256 = y / 2 ^ (8 * j) % 256 := by
  have e : 2 ^ (8 * i) = 2 ^ (8 * j) * (256 * 2 ^ (8 * (i - j - 1))) := by
    rw [show (256 : Nat) = 2 ^ 8 from rfl, ← pow_add, ← pow_add]; congr 1; omega
  rw [e, Nat.mod_mul_right_div_self, Nat.mod_mul_right_mod]

theorem replaceByte_byte (x i j b : Nat) (hb : b < 256) :
    (x - x / 2 ^ (8 * i) % 256 * 2 ^ (8 * i) + b * 2 ^ (8 * i)) / 2 ^ (8 * j) % 256 =
      if j = i then b else x / 2 ^ (8 * j) % 256 := by
  obtain ⟨hmod, hdiv⟩ := replaceByte_split x i b
  rcases Nat.lt_trichotomy j i with h | rfl | h
  · rw [if_neg (by omega)]
    rw [← byte_of_mod x h, ← byte_of_mod _ h, hmod]
  · rw [if_pos rfl, hdiv]; omega
  · rw [if_neg (by omega)]
    have e : 2 ^ (8 * j) = 2 ^ (8 * i) * 256 * 2 ^ (8 * (j - i - 1)) := by
      rw [show (256 : Nat) = 2 ^ 8 from rfl, ← pow_add, ← pow_add]; congr 1; omega
    rw [e, ← Nat.div_div_eq_div_mul, ← Nat.div_div_eq_div_mul, hdiv, ← Nat.div_div_eq_div_mul, ← Nat.div_div_eq_div_mul]
    congr 2
    omega

/-- The bytes of a line after one is written. -/
theorem byte_setByte (x : L1Line) (i : Nat) {j : Nat} (b : Byte) (hj : j < 64) :
    (x.setByte i b).byte j = if j = i then b else x.byte j := by
  apply BitVec.eq_of_toNat_eq
  have h := replaceByte_byte x.data.toNat i j b.toNat b.isLt
  rw [← byte_of_mod _ (i := 64) hj] at h
  refine h.trans ?_
  split <;> rfl

theorem valid_setByte (x : L1Line) {i j : Nat} (b : Byte) (hi : i < 64) :
    (x.setByte i b).valid.getLsbD j = (decide (j = i) || x.valid.getLsbD j) := by
  have h : (BitVec.ofNat 64 (2 ^ i)).getLsbD j = decide (j = i) := by
    rw [BitVec.getLsbD_ofNat, Nat.testBit_two_pow]
    by_cases hj : j = i
    · simp [hj, hi]
    · simp [hj, Ne.symm hj]
  simp only [L1Line.setByte, BitVec.getLsbD_or, h, Bool.or_comm]

/-- A line after a run of bytes within it is written: the run where it lies, the line elsewhere. -/
theorem line_written (bs : List Byte) (x : L1Line) (a : Nat) (h : a % 64 + bs.length ≤ 64) :
    let y := (bytesAt a bs).foldl (fun y p => y.setByte (p.1 % 64) p.2) x
    y.core = x.core ∧ y.line = x.line ∧
    (∀ j, j < bs.length → y.byte (a % 64 + j) = bs.getD j 0 ∧ y.valid.getLsbD (a % 64 + j) = true) ∧
    (∀ j, j < 64 → (j < a % 64 ∨ a % 64 + bs.length ≤ j) → y.byte j = x.byte j ∧ y.valid.getLsbD j = x.valid.getLsbD j) := by
  induction bs generalizing x a with
  | nil => exact ⟨rfl, rfl, fun j hj => absurd hj (by simp), fun j _ _ => ⟨rfl, rfl⟩⟩
  | cons b r ih =>
    intro y
    simp only [List.length_cons] at h ⊢
    have hy : y = (bytesAt (a + 1) r).foldl (fun y p => y.setByte (p.1 % 64) p.2) (x.setByte (a % 64) b) := rfl
    rcases Nat.eq_zero_or_pos r.length with hr | hr
    · obtain rfl := List.length_eq_zero_iff.1 hr
      refine ⟨rfl, rfl, fun j hj => ?_, fun j hj ho => ?_⟩
      · obtain rfl : j = 0 := by simpa using hj
        rw [hy, bytesAt, List.foldl_nil, Nat.add_zero, byte_setByte _ _ _ (by omega), valid_setByte _ _ (by omega)]
        simp
      · have hne : j ≠ a % 64 := by simp at ho; omega
        rw [hy, bytesAt, List.foldl_nil, byte_setByte _ _ _ hj, valid_setByte _ _ (by omega)]
        simp [hne]
    · have ha : (a + 1) % 64 = a % 64 + 1 := by omega
      obtain ⟨h1, h2, h3, h4⟩ := ih (x.setByte (a % 64) b) (a + 1) (by omega)
      rw [← hy] at h1 h2
      rw [← hy, ha] at h3 h4
      refine ⟨h1, h2, fun j hj => ?_, fun j hj ho => ?_⟩
      · cases j with
        | zero =>
          obtain ⟨e1, e2⟩ := h4 (a % 64) (by omega) (.inl (by omega))
          rw [byte_setByte _ _ _ (by omega)] at e1
          rw [valid_setByte _ _ (by omega)] at e2
          exact ⟨by simpa using e1, by simpa using e2⟩
        | succ j =>
          obtain ⟨e1, e2⟩ := h3 j (by omega)
          rw [show a % 64 + (j + 1) = a % 64 + 1 + j by omega]
          exact ⟨by simpa using e1, e2⟩
      · obtain ⟨e1, e2⟩ := h4 j hj (by omega)
        rw [byte_setByte _ _ _ hj, if_neg (by omega)] at e1
        rw [valid_setByte _ _ (by omega), show decide (j = a % 64) = false by simp; omega, Bool.false_or] at e2
        exact ⟨e1, e2⟩

/-! ## Lines and sectors -/

theorem line_putLine (m : Mem) (x : L1Line) (c l : Nat) :
    (m.putLine x).line c l = if c = x.core ∧ l = x.line then some x else m.line c l := by
  unfold Mem.line Mem.putLine
  by_cases h : c = x.core ∧ l = x.line
  · obtain ⟨rfl, rfl⟩ := h; simp
  · have h' : ¬(x.core = c ∧ x.line = l) := fun e => h ⟨e.1.symm, e.2.symm⟩
    simp only [List.find?_cons, h', decide_false, if_neg h, List.find?_filter]
    congr 1
    funext y
    by_cases hy : y.core = c ∧ y.line = l
    · obtain ⟨rfl, rfl⟩ := hy; simp [h]
    · simp [hy]

theorem line_at {m : Mem} {c l : Nat} {x : L1Line} (h : m.line c l = some x) : x.core = c ∧ x.line = l := by
  simpa using List.find?_some h

theorem sector_at {m : Mem} {d b : Nat} {x : Sector} (h : m.sector d b = some x) : x.die = d ∧ x.block = b := by
  simpa using List.find?_some h

theorem sector_putSector (m : Mem) (x : Sector) (d b : Nat) :
    (m.putSector x).sector d b = if d = x.die ∧ b = x.block then some x else m.sector d b := by
  unfold Mem.sector Mem.putSector
  by_cases h : d = x.die ∧ b = x.block
  · obtain ⟨rfl, rfl⟩ := h; simp
  · have h' : ¬(x.die = d ∧ x.block = b) := fun e => h ⟨e.1.symm, e.2.symm⟩
    simp only [List.find?_cons, h', decide_false, if_neg h, List.find?_filter]
    congr 1
    funext y
    by_cases hy : y.die = d ∧ y.block = b
    · obtain ⟨rfl, rfl⟩ := hy; simp [h]
    · simp [hy]

/-- A change of the bookkeeping of sectors, found by their place as before. -/
theorem find_sector_map (l : List Sector) (f : Sector → Sector) (hf : ∀ x, (f x).die = x.die ∧ (f x).block = x.block) (d b : Nat) :
    (l.map f).find? (fun x => decide (x.die = d ∧ x.block = b)) = (l.find? (fun x => decide (x.die = d ∧ x.block = b))).map f := by
  rw [List.find?_map]
  congr 2
  funext x
  simp [hf x]

/-! ## Writing sectors back -/

/-- HBM after sectors have been written back. -/
theorem foldl_writeBack (xs : List Sector) (m : Mem) : (xs.foldl (fun m x => m.writeBackSector x) m).hbm =
    xs.foldl (fun h x => cellsWrite h x.dirtyCells) m.hbm ∧ (xs.foldl (fun m x => m.writeBackSector x) m).l2 = m.l2 ∧
    (xs.foldl (fun m x => m.writeBackSector x) m).l1 = m.l1 ∧ (xs.foldl (fun m x => m.writeBackSector x) m).srams = m.srams := by
  induction xs generalizing m with
  | nil => exact ⟨rfl, rfl, rfl, rfl⟩
  | cons x r ih => exact ih (m.writeBackSector x)

/-- What is not dirty in the sectors written back keeps its byte in HBM. -/
theorem cellGet_writeBack (xs : List Sector) (h : List Host.Cell) (w : cellsWf h = true) (a : Nat)
    (ha : ∀ x ∈ xs, a ∉ x.dirty) : cellGet (xs.foldl (fun h x => cellsWrite h x.dirtyCells) h) a = cellGet h a := by
  induction xs generalizing h with
  | nil => rfl
  | cons x r ih =>
    rw [List.foldl_cons, ih _ (cellsWrite_wf _ _ w) (fun y hy => ha y (List.mem_cons_of_mem x hy)),
      cellGet_cellsWrite_other _ _ w]
    intro p hp
    obtain ⟨b, hb, rfl⟩ := List.mem_map.1 hp
    exact fun e => ha x List.mem_cons_self (e ▸ hb)

theorem hbm_recall (m : Mem) (b : Nat) : (m.recall b).hbm =
    (m.l2.filter (fun x => decide (x.block = b ∧ x.dirty ≠ []))).foldl (fun h x => cellsWrite h x.dirtyCells) m.hbm :=
  (foldl_writeBack _ m).1

theorem l2_recall (m : Mem) (b : Nat) :
    (m.recall b).l2 = m.l2.map (fun x => if x.block = b then { x with dirty := [] } else x) := by
  unfold Mem.recall
  dsimp only
  rw [(foldl_writeBack _ m).2.1]

/-- What a home read finds depends on HBM and on the sectors alone. -/
theorem hbm_recall_congr {m n : Mem} (h1 : n.hbm = m.hbm) (h2 : n.l2 = m.l2) (b : Nat) : (n.recall b).hbm = (m.recall b).hbm := by
  rw [hbm_recall, hbm_recall, h1, h2]

theorem peek_congr {m n : Mem} (h1 : n.hbm = m.hbm) (h2 : n.l2 = m.l2) (d a k : Nat) : n.peek d a k = m.peek d a k := by
  have hs : n.sector d (blockOf a) = m.sector d (blockOf a) := by unfold Mem.sector; rw [h2]
  unfold Mem.peek
  rw [hs, hbm_recall_congr h1 h2]

end Sys2Proof.Machine

namespace Sys2Proof.Claims
open Sys2Proof Sys2Proof.Machine

/-! ## Stores under policy 0 (R194, R204) -/

theorem settle_none {s : State} (h1 : s.mem.partials = []) (h2 : s.mem.rfPartials = []) (core pa n : Nat) :
    s.settle core pa n = s := by
  simp [State.settle, h1, h2]

/-- A line of the L1 after a store of bytes within it. -/
def stored (x : L1Line) (owner pa : Nat) (bs : List Byte) : L1Line :=
  let ps := bytesAt pa bs
  let y := ps.foldl (fun y p => y.setByte (p.1 % 64) p.2) x
  { y with
    dirty := ((wordsOf pa bs.length).map (· % 8)).foldl (fun d w => d ||| BitVec.ofNat 8 (2 ^ w)) y.dirty
    poison := ((fullWords ps).map (· % 8)).foldl (fun p w => p &&& ~~~(BitVec.ofNat 8 (2 ^ w))) y.poison
    owner := owner }

/-- A store under policy 0 to a line that the core holds changes that line. -/
theorem store_cached {s : State} {core owner pa : Nat} {bs : List Byte} {x : L1Line} (hm : pa / 64 ∉ s.mem.marks)
    (hp : s.mem.partials = []) (hr : s.mem.rfPartials = []) (hx : s.mem.line core (pa / 64) = some x) :
    s.store core 0 owner pa bs = s.modMem (fun m => m.putLine (stored x owner pa bs)) := by
  simp only [State.store, settle_none hp hr, hm, decide_false, Bool.false_eq_true, if_false, if_true, State.allocLine, hx]
  rfl

theorem cachedStoreFrame : CachedStoreFrame := by
  intro s core owner pa bs hlen hm hp hr hline
  obtain ⟨x, hx⟩ := Option.isSome_iff_exists.1 hline
  obtain ⟨hxc, hxl⟩ := line_at hx
  obtain ⟨h1, h2, h3, h4⟩ := line_written bs x pa hlen
  have ht := store_cached (owner := owner) (bs := bs) hm hp hr hx
  have hzc : (stored x owner pa bs).core = core := h1.trans hxc
  have hzl : (stored x owner pa bs).line = pa / 64 := h2.trans hxl
  have hin (j : Nat) (hj : j < bs.length) : (stored x owner pa bs).byte (pa % 64 + j) = bs.getD j 0 ∧
      (stored x owner pa bs).valid.getLsbD (pa % 64 + j) = true := h3 j hj
  have hout (j : Nat) (hj : j < 64) (ho : j < pa % 64 ∨ pa % 64 + bs.length ≤ j) :
      (stored x owner pa bs).byte j = x.byte j ∧ (stored x owner pa bs).valid.getLsbD j = x.valid.getLsbD j := h4 j hj ho
  generalize stored x owner pa bs = z at *
  intro t
  have hseen (a : Nat) : seen t core a = if a / 64 = pa / 64 then
      if z.valid.getLsbD (a % 64) then z.byte (a % 64) else (s.mem.peek (s.dev.dieOf core) a 1).headD 0
      else seen s core a := by
    have hpk : t.mem.peek (t.dev.dieOf core) a 1 = s.mem.peek (s.dev.dieOf core) a 1 := by
      rw [show t = s.modMem (fun m => m.putLine z) from ht]
      exact peek_congr (m := s.mem) (n := s.mem.putLine z) rfl rfl _ _ _
    unfold seen
    rw [hpk]
    simp only [t, ht, State.modMem_mem, line_putLine, hzc, hzl, true_and]
    by_cases ha : a / 64 = pa / 64 <;> simp [ha]
  refine ⟨fun j hj => ?_, fun a ha => ?_, fun c l hc => ?_, ?_, ?_⟩
  · obtain ⟨e1, e2⟩ := hin j hj
    rw [hseen, if_pos (by omega), show (pa + j) % 64 = pa % 64 + j by omega, e2, if_pos rfl, e1]
  · rw [hseen]
    split
    · rename_i hl
      obtain ⟨e1, e2⟩ := hout (a % 64) (Nat.mod_lt _ (by omega)) (by omega)
      rw [e2, e1]
      simp only [seen, hl, hx]
    · rfl
  · simp only [t, ht, State.modMem_mem, line_putLine, hzc, hc, false_and, if_false]
  · simp only [t, ht]; rfl
  · simp only [t, ht]; rfl

end Sys2Proof.Claims

namespace Sys2Proof.Machine
open Sys2Proof

/-! ## Fills of a die's L2 (R195, R196) -/

theorem l1_recall (m : Mem) (b : Nat) : (m.recall b).l1 = m.l1 := by
  unfold Mem.recall; exact (foldl_writeBack _ m).2.2.1

theorem srams_recall (m : Mem) (b : Nat) : (m.recall b).srams = m.srams := by
  unfold Mem.recall; exact (foldl_writeBack _ m).2.2.2

/-- A recall changes the bookkeeping of the block's sectors alone. -/
theorem sector_recall (m : Mem) (b d c : Nat) : (m.recall b).sector d c =
    (m.sector d c).map (fun x => if x.block = b then { x with dirty := [] } else x) := by
  unfold Mem.sector
  rw [l2_recall]
  exact find_sector_map _ _ (fun x => by split <;> exact ⟨rfl, rfl⟩) d c

theorem sector_recall_other (m : Mem) {b d c : Nat} (h : c ≠ b) : (m.recall b).sector d c = m.sector d c := by
  rw [sector_recall]
  cases hs : m.sector d c with
  | none => rfl
  | some x => simp [(sector_at hs).2, h]

/-- What is not dirty at any die keeps its byte when a block is recalled. -/
theorem cellGet_recall (m : Mem) (w : m.wf = true) (b a : Nat) (ha : ¬∃ x ∈ m.l2, x.block = b ∧ a ∈ x.dirty) :
    cellGet (m.recall b).hbm a = cellGet m.hbm a := by
  rw [hbm_recall]
  refine cellGet_writeBack _ _ ((Mem.wf_iff m).1 w).1 a (fun x hx hd => ha ?_)
  obtain ⟨hm, hb⟩ := List.mem_filter.1 hx
  exact ⟨x, hm, (of_decide_eq_true hb).1, hd⟩

theorem l2Copies_recall (m : Mem) (b d : Nat) : (m.recall b).l2Copies d = m.l2Copies d := by
  unfold Mem.l2Copies
  rw [l2_recall, List.filter_map, List.map_map]
  congr 1
  have hf : ((fun x : Sector => decide (x.die = d)) ∘ fun x => if x.block = b then { x with dirty := [] } else x) =
      fun x => decide (x.die = d) := by
    funext x; simp only [Function.comp_apply]; split <;> rfl
  rw [hf]
  refine List.map_congr_left (fun x _ => ?_)
  simp only [Function.comp_apply]
  split <;> rfl

/-- The sectors of a die other than one of a block. -/
theorem sum_filter_add_le {l : List Sector} {x : Sector} (hx : x ∈ l) {p : Sector → Bool} (hp : p x = false) (f : Sector → Nat) :
    f x + ((l.filter p).map f).sum ≤ (l.map f).sum := by
  induction l with
  | nil => cases hx
  | cons y r ih =>
    rcases List.mem_cons.1 hx with rfl | hx
    · have h : ((r.filter p).map f).sum ≤ (r.map f).sum := by
        exact List.Sublist.sum_le_sum (List.Sublist.map f List.filter_sublist) (fun _ _ => Nat.zero_le _)
      simp [hp]; omega
    · have := ih hx
      by_cases hy : p y = true
      · simp [hy]; omega
      · simp [hy]; omega

theorem l2Copies_putSector_le (m : Mem) (y : Sector) :
    (m.putSector y).l2Copies y.die ≤ (y.rowCopy.toNat + y.colCopy.toNat) + m.l2Copies y.die := by
  unfold Mem.l2Copies Mem.putSector
  simp only [List.filter_cons, decide_true, if_true, List.map_cons, List.sum_cons]
  refine Nat.add_le_add_left ?_ _
  refine List.Sublist.sum_le_sum (List.Sublist.map _ ?_) (fun _ _ => Nat.zero_le _)
  exact (List.filter_sublist (l := m.l2)).filter _

theorem l2Copies_putSector_present {m : Mem} {x y : Sector} (hx : x ∈ m.l2) (hd : x.die = y.die) (hb : x.block = y.block) :
    (m.putSector y).l2Copies y.die + (x.rowCopy.toNat + x.colCopy.toNat) ≤
      (y.rowCopy.toNat + y.colCopy.toNat) + m.l2Copies y.die := by
  unfold Mem.l2Copies Mem.putSector
  simp only [List.filter_cons, decide_true, if_true, List.map_cons, List.sum_cons]
  have h := sum_filter_add_le (l := m.l2.filter (fun z => decide (z.die = y.die))) (x := x)
    (List.mem_filter.2 ⟨hx, decide_eq_true hd⟩) (p := fun z => decide (¬(z.die = y.die ∧ z.block = y.block)))
    (by simp [hd, hb]) (fun z => z.rowCopy.toNat + z.colCopy.toNat)
  rw [List.filter_filter] at h ⊢
  simp only [Bool.and_comm] at h ⊢
  omega

theorem shrink_l1 (m : Mem) (d : Nat) : (m.shrink d).l1 = m.l1 ∧ (m.shrink d).srams = m.srams := by
  unfold Mem.shrink
  split
  · exact ⟨rfl, rfl⟩
  · split
    · exact ⟨rfl, rfl⟩
    · dsimp only
      split <;> exact ⟨rfl, rfl⟩

/-- The sector just put survives the eviction that its fill may cause. -/
theorem sector_shrink_putSector (m : Mem) (y : Sector) : ((m.putSector y).shrink y.die).sector y.die y.block = some y := by
  have hfront (n : Mem) (l : List Sector) (h : n.l2 = y :: l) : n.sector y.die y.block = some y := by
    unfold Mem.sector; rw [h]; simp
  unfold Mem.shrink
  split
  case isTrue => exact hfront _ _ rfl
  case isFalse hfull =>
    split
    case h_1 => exact hfront _ _ rfl
    case h_2 x hx =>
      have hne : ¬(y.die = x.die ∧ y.block = x.block) := by
        rintro ⟨hd, hb⟩
        have hl : (m.putSector y).l2.filter (fun z => decide (z.die = y.die)) =
            y :: (m.l2.filter (fun z => decide (¬(z.die = y.die ∧ z.block = y.block)))).filter (fun z => decide (z.die = y.die)) := by
          simp [Mem.putSector]
        rw [hl] at hx
        have hxm := List.mem_of_getLast? hx
        generalize hr : (m.l2.filter (fun z => decide (¬(z.die = y.die ∧ z.block = y.block)))).filter
          (fun z => decide (z.die = y.die)) = r at *
        cases r with
        | nil =>
          refine hfull ?_
          unfold Mem.l2Copies
          rw [hl]
          have h1 := Bool.toNat_le y.rowCopy
          have h2 := Bool.toNat_le y.colCopy
          simp only [List.map_cons, List.map_nil, List.sum_cons, List.sum_nil]
          omega
        | cons u v =>
          have hm : x ∈ u :: v := by
            rw [List.getLast?_cons_cons] at hx
            exact List.mem_of_getLast? hx
          rw [← hr] at hm
          have := (List.mem_filter.1 (List.mem_filter.1 hm).1).2
          simp [hd, hb] at this
      dsimp only
      have hl2 : (m.putSector y).l2.filter (fun z => decide (¬(z.die = x.die ∧ z.block = x.block))) =
          y :: (m.l2.filter (fun z => decide (¬(z.die = y.die ∧ z.block = y.block)))).filter
            (fun z => decide (¬(z.die = x.die ∧ z.block = x.block))) := by
        simp only [Mem.putSector, List.filter_cons, hne, not_false_eq_true, decide_true, if_true]
      split
      · exact hfront _ _ (congrArg (· ++ [{ x with colCopy := false }]) hl2)
      · exact hfront _ _ hl2

/-- The cells of a block are all of HBM's in it. -/
theorem cellGet_cellsIn (l : List Host.Cell) (lo n a : Nat) (h : lo ≤ a ∧ a < lo + n) : cellGet (cellsIn l lo n) a = cellGet l a := by
  induction l with
  | nil => rfl
  | cons p r ih =>
    unfold cellsIn at ih ⊢
    by_cases hp : p.1 = a
    · have hk : decide (lo ≤ p.1 ∧ p.1 < lo + n) = true := by simp [hp, h]
      rw [List.filter_cons, if_pos hk]
      simp [cellGet, hp]
    · rw [List.filter_cons]
      split
      · simp only [cellGet, if_neg hp, ih]
      · simp only [cellGet, if_neg hp]; exact ih

/-- What a fill of a block through the rows leaves: the sector that it put, over memory as it was or with the block recalled. -/
structure RowFilled (m n : Mem) (die b : Nat) (y : Sector) : Prop where
  place : y.die = die ∧ y.block = b
  row : y.rowCopy = true
  base : n = m ∨ n = m.recall b
  cells : ∀ a, blockOf a = b → cellsRead y.cells a 1 = m.peek die a 1
  dirty : ∀ a ∈ y.dirty, ∃ x ∈ m.l2, x.block = b ∧ a ∈ x.dirty
  copies : m.l2Copies die < 98304 → (n.putSector y).l2Copies die ≤ 98304

theorem fill_present {m : Mem} {die b : Nat} {x : Sector} (h : m.sector die b = some x) (hr : x.rowCopy = true) :
    m.fill die b false = (x, m) := by
  simp [Mem.fill, h, hr]

/-- A fill through the rows finds its sector, or puts one. -/
theorem fill_rows (m : Mem) (die b : Nat) :
    (∃ x, m.sector die b = some x ∧ x.rowCopy = true ∧ m.fill die b false = (x, m)) ∨
    ∃ n y, RowFilled m n die b y ∧ (m.fill die b false).2 = (n.putSector y).shrink die ∧
      ∀ x, m.sector die b = some x → x.rowCopy = false := by
  unfold Mem.fill
  cases h : m.sector die b with
  | some x =>
    obtain ⟨hd, hb⟩ := sector_at h
    have hx : x ∈ m.l2 := List.mem_of_find?_eq_some h
    cases hr : x.rowCopy with
    | true => exact .inl ⟨x, rfl, hr, by simp [hr]⟩
    | false =>
      refine .inr ⟨m, { x with rowCopy := true, colCopy := x.colCopy || false }, ⟨⟨hd, hb⟩, rfl, .inl rfl, ?_, ?_, ?_⟩, ?_, ?_⟩
      · rintro a rfl
        unfold Mem.peek
        rw [h]
      · exact fun a ha => ⟨x, hx, hb, ha⟩
      · intro hc
        have := l2Copies_putSector_present (y := { x with rowCopy := true, colCopy := x.colCopy || false }) hx rfl rfl
        simp only [hr, Bool.or_false, Bool.toNat_false, Bool.toNat_true, hd] at this ⊢
        omega
      · simp [hr]
      · rintro _ ⟨⟩; exact hr
  | none =>
    refine .inr ⟨m.recall b, ⟨die, b, cellsIn (m.recall b).hbm (1024 * b) 1024, [], true, false,
      (m.recall b).poison.filter (fun w => decide (w / 128 = b)), 0, false⟩, ⟨⟨rfl, rfl⟩, rfl, .inr rfl, ?_, ?_, ?_⟩, ?_, ?_⟩
    · rintro a rfl
      unfold Mem.peek
      rw [h, Claims.cellsRead_one, Claims.cellsRead_one, cellGet_cellsIn]
      unfold blockOf
      omega
    · intro a ha; cases ha
    · intro hc
      have := l2Copies_putSector_le (m.recall b) ⟨die, b, cellsIn (m.recall b).hbm (1024 * b) 1024, [], true, false,
        (m.recall b).poison.filter (fun w => decide (w / 128 = b)), 0, false⟩
      rw [l2Copies_recall] at this
      simp only [Bool.toNat_true, Bool.toNat_false] at this
      omega
    · rfl
    · intro x hx; cases hx

/-- After a fill through the rows the die holds the block's bytes, as a read of it finds them. -/
theorem fill_sector (m : Mem) (die b : Nat) : ∃ y, (m.fill die b false).2.sector die b = some y ∧ y.rowCopy = true ∧
    ∀ a, blockOf a = b → cellsRead y.cells a 1 = m.peek die a 1 := by
  rcases fill_rows m die b with ⟨x, hs, hr, hf⟩ | ⟨n, y, hy, hf, _⟩
  · refine ⟨x, by rw [hf]; exact hs, hr, ?_⟩
    rintro a rfl
    unfold Mem.peek
    rw [hs]
  · obtain ⟨rfl, rfl⟩ := hy.place
    exact ⟨y, by rw [hf]; exact sector_shrink_putSector n y, hy.row, hy.cells⟩

theorem fill_l1 (m : Mem) (die b : Nat) :
    (m.fill die b false).2.l1 = m.l1 ∧ (m.fill die b false).2.srams = m.srams := by
  rcases fill_rows m die b with ⟨x, _, _, hf⟩ | ⟨n, y, hy, hf, _⟩
  · rw [hf]; exact ⟨rfl, rfl⟩
  · obtain ⟨h1, h2⟩ := shrink_l1 (n.putSector y) die
    rw [hf, h1, h2]
    rcases hy.base with rfl | rfl
    · exact ⟨rfl, rfl⟩
    · exact ⟨l1_recall m b, srams_recall m b⟩

/-- Where the die has room for a copy, a fill touches no other block, nor a byte of HBM but those that a die held dirty. -/
theorem fill_frame (m : Mem) (w : m.wf = true) (die b : Nat)
    (h : m.l2Copies die < 98304 ∨ ∃ x, m.sector die b = some x ∧ x.rowCopy = true) :
    (∀ d c, c ≠ b → (m.fill die b false).2.sector d c = m.sector d c) ∧
    (∀ x ∈ (m.fill die b false).2.l2, x.block = b → ∀ a ∈ x.dirty, ∃ y ∈ m.l2, y.block = b ∧ a ∈ y.dirty) ∧
    (∀ a, (¬∃ x ∈ m.l2, x.block = b ∧ a ∈ x.dirty) → cellGet (m.fill die b false).2.hbm a = cellGet m.hbm a) := by
  rcases fill_rows m die b with ⟨x, _, _, hf⟩ | ⟨n, y, hy, hf, hno⟩
  · rw [hf]
    exact ⟨fun _ _ _ => rfl, fun x hx hb a ha => ⟨x, hx, hb, ha⟩, fun _ _ => rfl⟩
  · have hc : m.l2Copies die < 98304 := by
      rcases h with h | ⟨x, hx, hr⟩
      · exact h
      · rw [hno x hx] at hr; cases hr
    have hsh : (n.putSector y).shrink die = n.putSector y := by
      unfold Mem.shrink; rw [if_pos (hy.copies hc)]
    rw [hf, hsh]
    refine ⟨fun d c hcb => ?_, fun x hx hb a ha => ?_, fun a ha => ?_⟩
    · rw [sector_putSector, if_neg (by rintro ⟨_, rfl⟩; exact hcb hy.place.2)]
      rcases hy.base with rfl | rfl
      · rfl
      · exact sector_recall_other m hcb
    · rcases List.mem_cons.1 hx with rfl | hx
      · exact hy.dirty a ha
      · have hx := (List.mem_filter.1 hx).1
        rcases hy.base with rfl | rfl
        · exact ⟨x, hx, hb, ha⟩
        · rw [l2_recall] at hx
          obtain ⟨z, hz, rfl⟩ := List.mem_map.1 hx
          by_cases hzb : z.block = b
          · simp [hzb] at ha
          · simp [hzb] at hb
    · change cellGet n.hbm a = _
      rcases hy.base with rfl | rfl
      · rfl
      · exact cellGet_recall m w b a ha

/-! ## A block held alone (R196) -/

theorem sector_dropOthers (m : Mem) (die b d c : Nat) : (m.dropOthers (some die) b).sector d c =
    if c = b ∧ d ≠ die then none else m.sector d c := by
  have hl : (m.dropOthers (some die) b).l2 =
      m.l2.filter (fun x => !(decide (x.block = b) && decide (some x.die ≠ some die))) := by
    unfold Mem.dropOthers
    dsimp only
    rw [(foldl_writeBack _ m).2.1]
  unfold Mem.sector
  rw [hl, List.find?_filter]
  split
  · rename_i h
    obtain ⟨rfl, hd⟩ := h
    rw [List.find?_eq_none]
    intro x _
    by_cases hx : x.die = d ∧ x.block = c
    · obtain ⟨rfl, rfl⟩ := hx; simp [hd]
    · simp [hx]
  · rename_i h
    congr 1
    funext x
    by_cases hx : x.die = d ∧ x.block = c
    · obtain ⟨rfl, rfl⟩ := hx
      have : ¬(x.block = b ∧ ¬ x.die = die) := h
      simp only [Option.some.injEq, ne_eq, and_self, decide_true, Bool.and_true]
      by_cases hb : x.block = b <;> by_cases hd : x.die = die <;> simp_all
    · simp [hx]

theorem dropOthers_l1 (m : Mem) (k : Option Nat) (b : Nat) :
    (m.dropOthers k b).l1 = m.l1 ∧ (m.dropOthers k b).srams = m.srams := by
  unfold Mem.dropOthers
  exact ⟨(foldl_writeBack _ m).2.2.1, (foldl_writeBack _ m).2.2.2⟩

theorem cellGet_dropOthers (m : Mem) (w : m.wf = true) (k : Option Nat) (b a : Nat)
    (ha : ∀ x ∈ m.l2, x.block = b → a ∉ x.dirty) : cellGet (m.dropOthers k b).hbm a = cellGet m.hbm a := by
  have hh : (m.dropOthers k b).hbm = (m.l2.filter (fun x => decide (x.block = b) && decide (some x.die ≠ k))).foldl
      (fun h x => cellsWrite h x.dirtyCells) m.hbm := (foldl_writeBack _ m).1
  rw [hh]
  refine cellGet_writeBack _ _ ((Mem.wf_iff m).1 w).1 a (fun x hx => ?_)
  obtain ⟨hm, hb⟩ := List.mem_filter.1 hx
  simp only [Bool.and_eq_true, decide_eq_true_eq] at hb
  exact ha x hm hb.1

/-- A write at a die's L2: the sector that the die then holds alone, its cells written over what a read found. -/
theorem l2Write_form (m : Mem) (die owner pa : Nat) (b : Byte) (r : List Byte) : ∃ x z,
    z.die = die ∧ z.block = blockOf pa ∧ z.cells = cellsWrite x.cells (bytesAt pa (b :: r)) ∧
    (∀ a, blockOf a = blockOf pa → cellsRead x.cells a 1 = m.peek die a 1) ∧
    x ∈ ((m.fill die (blockOf pa) false).2).l2 ∧
    m.l2Write die owner (bytesAt pa (b :: r)) = (((m.fill die (blockOf pa) false).2).dropOthers (some die) (blockOf pa)).putSector z := by
  obtain ⟨x, hx, hr, hc⟩ := fill_sector m die (blockOf pa)
  have hx2 : (((m.fill die (blockOf pa) false).2).dropOthers (some die) (blockOf pa)).sector die (blockOf pa) = some x := by
    rw [sector_dropOthers, if_neg (by simp), hx]
  obtain ⟨hd, hb⟩ := sector_at hx
  have h2 : (((m.fill die (blockOf pa) false).2).dropOthers (some die) (blockOf pa)).fill die (blockOf pa) false =
      (x, ((m.fill die (blockOf pa) false).2).dropOthers (some die) (blockOf pa)) := fill_present hx2 hr
  refine ⟨x, { x with
    cells := cellsWrite x.cells (bytesAt pa (b :: r))
    owner := if x.dirty.isEmpty then owner else x.owner
    dirty := (bytesAt pa (b :: r)).foldl (fun l q => insertN q.1 l) x.dirty
    poison := poisonAfter x.poison (bytesAt pa (b :: r)) }, hd, hb, rfl, hc, List.mem_of_find?_eq_some hx, ?_⟩
  simp only [bytesAt, Mem.l2Write, h2]

end Sys2Proof.Machine

namespace Sys2Proof.Claims
open Sys2Proof Sys2Proof.Machine

/-! ## Stores under policies 1 and 2 (R195, R196, R202) -/

/-- A write at a die's L2: the block as it was but for the bytes written; the block leaves the other dies. -/
theorem l2Write_frame (m : Mem) (w : m.wf = true) (die owner pa : Nat) (bs : List Byte) (hne : bs ≠ [])
    (hlen : pa % 64 + bs.length ≤ 64) : let n := m.l2Write die owner (bytesAt pa bs)
    n.peek die pa bs.length = bs ∧
    (∀ a, blockOf a = blockOf pa → (a < pa ∨ pa + bs.length ≤ a) → n.peek die a 1 = m.peek die a 1) ∧
    n.l1 = m.l1 ∧ n.srams = m.srams ∧ (∀ d, d ≠ die → n.sector d (blockOf pa) = none) ∧
    ((m.l2Copies die < 98304 ∨ ∃ x, m.sector die (blockOf pa) = some x ∧ x.rowCopy = true) →
      (∀ d b, b ≠ blockOf pa → n.sector d b = m.sector d b) ∧
      (∀ a, (¬∃ x ∈ m.l2, x.block = blockOf pa ∧ a ∈ x.dirty) → cellGet n.hbm a = cellGet m.hbm a)) := by
  obtain ⟨b, r, rfl⟩ := List.exists_cons_of_ne_nil hne
  obtain ⟨x, z, hzd, hzb, hzc, hxc, hxm, hn⟩ := l2Write_form m die owner pa b r
  intro n
  have hw1 : (m.fill die (blockOf pa) false).2.wf = true := (m.fill_wf die (blockOf pa) false w).2
  have hxw : cellsWf x.cells = true := ((Mem.wf_iff _).1 hw1).2.1 x hxm
  have hs (d c : Nat) : n.sector d c = if d = die ∧ c = blockOf pa then some z else
      if c = blockOf pa ∧ d ≠ die then none else (m.fill die (blockOf pa) false).2.sector d c := by
    simp only [n, hn, sector_putSector, hzd, hzb, sector_dropOthers]
  have hpk (a k : Nat) (ha : blockOf a = blockOf pa) :
      n.peek die a k = cellsRead (cellsWrite x.cells (bytesAt pa (b :: r))) a k := by
    unfold Mem.peek
    rw [ha, hs, if_pos ⟨rfl, rfl⟩, ← hzc]
  obtain ⟨f1, f2⟩ := fill_l1 m die (blockOf pa)
  obtain ⟨g1, g2⟩ := dropOthers_l1 (m.fill die (blockOf pa) false).2 (some die) (blockOf pa)
  refine ⟨?_, fun a ha ho => ?_, ?_, ?_, fun d hd => ?_, fun hroom => ?_⟩
  · rw [hpk pa _ rfl, cellsRead_cellsWrite _ _ _ hxw]
  · rw [hpk a 1 ha, ← hxc a ha, cellsRead_one, cellsRead_one, cellGet_cellsWrite_other _ _ hxw]
    intro p hp
    have := mem_bytesAt hp
    omega
  · rw [show n.l1 = _ from congrArg Mem.l1 hn]; exact g1.trans f1
  · rw [show n.srams = _ from congrArg Mem.srams hn]; exact g2.trans f2
  · rw [hs, if_neg (by rintro ⟨h, _⟩; exact hd h), if_pos ⟨rfl, hd⟩]
  · obtain ⟨h1, h2, h3⟩ := fill_frame m w die (blockOf pa) hroom
    refine ⟨fun d c hc => ?_, fun a ha => ?_⟩
    · rw [hs, if_neg (by rintro ⟨_, h⟩; exact hc h), if_neg (by rintro ⟨h, _⟩; exact hc h), h1 d c hc]
    · rw [show n.hbm = _ from congrArg Mem.hbm hn]
      refine (cellGet_dropOthers _ hw1 (some die) (blockOf pa) a (fun y hy hyb hya => ?_)).trans (h3 a ha)
      exact ha (h2 y hy hyb a hya)

/-- A write at the home: the block as it was but for the bytes written; every die keeps its cells. -/
theorem homeStore_frame (m : Mem) (w : m.wf = true) (pa : Nat) (bs : List Byte) (hne : bs ≠ [])
    (hlen : pa % 64 + bs.length ≤ 64) : let n := m.homeStore (bytesAt pa bs)
    n.homePeek pa bs.length = bs ∧
    (∀ a, blockOf a = blockOf pa → (a < pa ∨ pa + bs.length ≤ a) → n.homePeek a 1 = m.homePeek a 1) ∧
    n.l1 = m.l1 ∧ n.srams = m.srams ∧ (∀ d b, b ≠ blockOf pa → n.sector d b = m.sector d b) ∧
    (∀ d, (n.sector d (blockOf pa)).map (fun x => x.cells) = (m.sector d (blockOf pa)).map (fun x => x.cells)) ∧
    (∀ a, (a < pa ∨ pa + bs.length ≤ a) → (¬∃ x ∈ m.l2, x.block = blockOf pa ∧ a ∈ x.dirty) →
      cellGet n.hbm a = cellGet m.hbm a) := by
  obtain ⟨b, r, rfl⟩ := List.exists_cons_of_ne_nil hne
  intro n
  have hwr : cellsWf (m.recall (blockOf pa)).hbm = true := ((Mem.wf_iff _).1 (m.recall_wf (blockOf pa) w)).1
  have hhbm : n.hbm = cellsWrite (m.recall (blockOf pa)).hbm (bytesAt pa (b :: r)) := rfl
  have hl2 : n.l2 = (m.recall (blockOf pa)).l2.map (fun x => if x.block = blockOf pa then { x with stale := true } else x) := rfl
  have hs (d c : Nat) : n.sector d c = ((m.recall (blockOf pa)).sector d c).map
      (fun x => if x.block = blockOf pa then { x with stale := true } else x) := by
    unfold Mem.sector
    rw [hl2]
    exact find_sector_map _ _ (fun x => by split <;> exact ⟨rfl, rfl⟩) d c
  have hclean : (n.recall (blockOf pa)).hbm = n.hbm := by
    rw [hbm_recall, List.filter_eq_nil_iff.2, List.foldl_nil]
    intro x hx
    rw [hl2, l2_recall, List.map_map] at hx
    obtain ⟨y, _, rfl⟩ := List.mem_map.1 hx
    by_cases hy : y.block = blockOf pa <;> simp [hy]
  refine ⟨?_, fun a ha ho => ?_, l1_recall m _, srams_recall m _, fun d c hc => ?_, fun d => ?_, fun a ho hd => ?_⟩
  · unfold Mem.homePeek
    rw [hclean, hhbm, cellsRead_cellsWrite _ _ _ hwr]
  · unfold Mem.homePeek
    rw [ha, hclean, hhbm, cellsRead_one, cellsRead_one, cellGet_cellsWrite_other _ _ hwr]
    intro p hp
    have := mem_bytesAt hp
    omega
  · rw [hs, sector_recall_other m hc]
    cases h : m.sector d c with
    | none => rfl
    | some x => simp [(sector_at h).2, hc]
  · rw [hs, sector_recall, Option.map_map, Option.map_map]
    congr 1
    funext x
    by_cases hx : x.block = blockOf pa <;> simp [hx]
  · rw [hhbm, cellGet_cellsWrite_other _ _ hwr]
    · exact cellGet_recall m w _ a hd
    · intro p hp
      have := mem_bytesAt hp
      omega

theorem deepStoreFrame : DeepStoreFrame := by
  intro s core owner pa bs hne hlen hm hp hr hk hw die t h wasDirty
  obtain ⟨b, r, rfl⟩ := List.exists_cons_of_ne_nil hne
  have ht : t.mem = s.mem.l2Write die owner (bytesAt pa (b :: r)) := by
    simp only [t, State.store, settle_none hp hr, hm, State.levelWrite, bytesAt, hk]
    rfl
  have hh : h.mem = s.mem.homeStore (bytesAt pa (b :: r)) := by
    simp only [h, State.store, settle_none hp hr, hm, hk]
    rfl
  rw [ht, hh]
  exact ⟨l2Write_frame s.mem hw die owner pa (b :: r) hne hlen, homeStore_frame s.mem hw pa (b :: r) hne hlen⟩

/-- Settles O18: a cached store changes one line, a deep one the block's sector or its home. -/
theorem globalStoreFrames : Obligations.GlobalStoreFrames := ⟨cachedStoreFrame, deepStoreFrame⟩

end Sys2Proof.Claims
end

section
/-! PROOFS. Full/empty words: LDFF, LDE, STF, STFF, FEQ, FEMPTY and FEFILL (R238, R245, R246). -/

namespace Sys2Proof.Claims
open Sys2Proof Sys2Proof.Machine

/-- A word of this device has the bit that the state lists for it (R245). -/
theorem feHolds_here {s : State} {x : Piece} (h : s.remotePiece x = false) (full : Bool) :
    s.feHolds x full = (s.isFull x.loc.word == full, s) := by
  simp [State.feHolds, h]

theorem readFull_here {s : State} {x : Piece} (h : s.remotePiece x = false) : s.readFull x = (s.isFull x.loc.word, s) := by
  simp [State.readFull, h]

theorem takeWord_some {s : State} {rd : List Name} {d : Name} {v : Nat} {perf : Bool} {r : Narrowed}
    (h : s.thr.narrow d (s.thr.loadVal d v) = some r) (hk : (s.thr.name d).kind.isFloat = false) :
    s.takeWord rd d v perf = .next (After s rd (put1 d r.pat r.flags)) := by
  cases perf
  · simp [State.takeWord, hk, narrowInto_some h]
  · simp [State.takeWord, hk, narrowAfter_some h]

/-- The running thread prepares a word without ceasing to be the one that runs (R245). -/
theorem fePrepare_cur (s : State) (x : Piece) : (s.fePrepare x).cur = s.cur := by
  unfold State.fePrepare State.resPrepare
  rcases x with ⟨p, pa | ⟨c, off⟩, n⟩
  · have h := (State.settle_only s s.cur.1 pa 8).trans (State.flushLine_only _ s.cur.1 (pa / 64))
    dsimp only
    split
    · exact h.cur
    · exact h.cur
  · rfl

theorem feLoad_eq (s : State) (x : Piece) :
    s.feLoad x = (s.fePrepare x).atomicAt (s.fePrepare x).cur.1 .quad x (fun _ => none) := by
  rw [fePrepare_cur]; rfl

/-- A full/empty store leaves the word as it has been stored, full, with its waiters served (R223, R246). -/
theorem feStore_filled {s t : State} {x : Piece} {v : Nat} (h : Filled s x v t) : s.feStore x v = t := by
  obtain ⟨hg, hs⟩ := h
  unfold State.feStore
  rcases x with ⟨p, pa | ⟨c, off⟩, n⟩
  · exact (hg _ _ _ rfl).symm
  · exact (hs _ _ rfl).symm

theorem fullEmptyResult : FullEmptyResult := by
  intro d a imm s s1 s2 s3 x v r hrem
  refine ⟨fun hr hw hf hl hn hk => ?_, fun hr hw hf hl hn hk => ?_, fun hr hw hf hst => ?_⟩
  · refine (guarded_ready hr).trans ((wordAccess_at hw.1).trans ?_)
    simp only [feHolds_here hrem, hf, beq_self_eq_true, cleanWord_clean hw.2]
    rw [feLoad_eq, fePrepare_cur, hl]
    exact takeWord_some hn hk
  · refine (guarded_ready hr).trans ((wordAccess_at hw.1).trans ?_)
    simp only [feHolds_here hrem, hf, beq_self_eq_true, cleanWord_clean hw.2]
    rw [feLoad_eq, fePrepare_cur, hl]
    exact takeWord_some hn hk
  · refine (guarded_ready hr).trans ((wordAccess_at hw.1).trans ?_)
    simp only [feHolds_here hrem, hf, beq_self_eq_true, cleanWord_clean hw.2]
    rw [feStore_filled hst]
    rfl

theorem fullEmptyMarks : FullEmptyMarks := by
  intro d a imm l s s1 s2 s3 x r hrem
  refine ⟨fun hr hw hst => ?_, fun hr hw h4 hn => ?_, fun hr hw => ⟨?_, ?_⟩⟩
  · refine (guarded_ready hr).trans ((wordAccess_at hw.1).trans ((cleanWord_clean hw.2).trans ?_))
    rw [feStore_filled hst]
    exact finishLong_eq _ _ _ _
  · refine (guarded_ready hr).trans ((wordAccess_at hw.1).trans ((cleanWord_clean hw.2).trans ?_))
    simp only [readFull_here h4]
    exact narrowLong_some hn
  · exact (guarded_ready hr).trans ((wordAccess_at hw.1).trans ((cleanWord_clean hw.2).trans (finishLong_eq _ _ _ _)))
  · exact (guarded_ready hr).trans ((wordAccess_at hw.1).trans ((cleanWord_clean hw.2).trans (finishLong_eq _ _ _ _)))

/-- A full/empty operation that must wait parks its thread at the tail of the word's list (R138, R245). -/
theorem feWait_parks {s : State} {x : Piece} (h : (s.fePrepare x).remotePiece x = false) (op : FeOp) (d : Name) (rd : List Name) :
    ∃ t, s.feWait x op d rd = .next t ∧ ParkedAt (s.fePrepare x) x op d t := by
  unfold State.feWait
  dsimp only
  rw [if_neg (by simp [h])]
  obtain ⟨rs, n, ps, e⟩ := park_form
    { s.fePrepare x with feWaits := (s.fePrepare x).feWaits ++ [(s.fePrepare x).feWaiter x op d] } rd .fullEmpty
  exact ⟨_, rfl, by rw [e]; exact ⟨rfl, rfl, rfl, rfl, rfl, rfl⟩⟩

theorem fullEmptyWaits : FullEmptyWaits := by
  intro d a imm s s1 s2 x s0 hrem h0
  refine ⟨fun hr hw hf => ?_, fun hr hw hf => ?_, fun hr hw hf => ?_⟩
  · rw [show exec (.ldff d a imm) s = _ from (guarded_ready hr).trans (wordAccess_at hw)]
    simp only [feHolds_here hrem, hf]
    exact feWait_parks h0 .ldff d [a]
  · rw [show exec (.lde d a imm) s = _ from (guarded_ready hr).trans (wordAccess_at hw)]
    simp only [feHolds_here hrem, hf]
    exact feWait_parks h0 .lde d [a]
  · rw [show exec (.stf d a imm) s = _ from (guarded_ready hr).trans (wordAccess_at hw)]
    simp only [feHolds_here hrem, hf]
    exact feWait_parks h0 _ 63 [d, a]

/-- Settles O24: each full/empty instruction from its access, its bit and its word; the ones that wait by what parking changes. -/
theorem fullEmpty : Obligations.FullEmpty := ⟨fullEmptyResult, fullEmptyMarks, fullEmptyWaits⟩

end Sys2Proof.Claims
end

section
/-! PROOFS. Atomics, reductions and reservations (R218 to R226, R247 to R250). -/

namespace Sys2Proof.Claims
open Sys2Proof Sys2Proof.Machine

/-! ## Atomics -/

/-- The atomics of the table are one operation on a word (R247). -/
theorem exec_eq_atomic {i : Instr} {d a b : Name} {sc : Scope} {f : Word → Word → Word} (h : atomicRow i = some (d, a, b, sc, f))
    (s : State) : exec i s = s.atomicOp d a b sc f := by
  unfold atomicRow at h; split at h
  case h_10 => cases h
  all_goals (cases h; rfl)

/-- A prior word that its destination cannot hold: the word stays updated, and the trap says so (R25, R247). -/
theorem narrowAfter_none {s : State} {rd : List Name} {d : Name} {x : Int} {g : FlagWrite → FlagWrite}
    (h : s.thr.narrow d x = none) :
    s.narrowAfter rd d x g = .next (s.takeTrap { mkTrap .widthOverflow 0 d.val (lowBits 64 x) with perf := true }) := by
  simp only [State.narrowAfter, h]; rfl

theorem atomicResult : AtomicResult := by
  intro i d a b sc f s s1 s2 s3 x v hi hr hw hv
  have key : exec i s = s3.narrowAfter [a, b] d (s3.thr.loadVal d v) id := by
    rw [exec_eq_atomic hi, State.atomicOp, guarded_ready hr, wordAccess_at hw.1, cleanWord_clean hw.2]
    simp only [hv]
  rw [key]
  exact ⟨fun r hn => narrowAfter_some hn, fun hn => narrowAfter_none hn⟩

theorem compareSwapResult : CompareSwapResult := by
  intro d a b sc s s1 s2 s3 x v r hr hw hv hn
  change execAcas d a b sc s = _
  rw [execAcas]
  refine (guarded_ready hr).trans ((wordAccess_at hw.1).trans ((cleanWord_clean hw.2).trans ?_))
  simp only [hv]
  exact narrowAfter_some hn

/-- Settles O25: the word is replaced first; what its prior value makes of the destination is the narrowing. -/
theorem atomicResults : Obligations.AtomicResults := ⟨atomicResult, compareSwapResult⟩

/-- A number of `n` bytes, read back from them. -/
theorem leNat_leBytes (n v : Nat) : leNat (leBytes n v) = v % 256 ^ n := by
  induction n generalizing v with
  | zero => simp [leBytes, leNat, Nat.mod_one]
  | succ n ih =>
    rw [leBytes, leNat, ih, BitVec.toNat_ofNat, show 256 ^ (n + 1) = 256 * 256 ^ n from Nat.pow_succ', Nat.mod_mul]

/-- Settles O26: an atomic at a scratchpad word is one read and one write of its bytes. -/
theorem atomicIndivisible : Obligations.AtomicIndivisible := by
  intro s core c off p v sc hv wf
  obtain ⟨hread, hkeep⟩ := sramWrite_frame wf c off (leBytes 8 v)
  rw [leBytes_length] at hread hkeep
  refine ⟨rfl, ?_, hkeep⟩
  have h : leNat ((s.mem.sramWrite c (bytesAt off (leBytes 8 v))).sramRead c off 8) = v := by
    rw [hread, leNat_leBytes]; exact Nat.mod_eq_of_lt hv
  exact h

/-! ## Reductions -/

theorem exec_eq_reduction {i : Instr} {a b : Name} {sc : Scope} {op : RedOp} (h : reduceRow i = some (a, b, sc, op))
    (s : State) : exec i s = s.reduction a b sc op := by
  unfold reduceRow at h; split at h
  case h_5 => cases h
  all_goals (cases h; rfl)

/-- An access that succeeds has passed the checks of its pointer (R185, R186). -/
theorem access_checked {s s1 : State} {t : Thread} {core : Nat} {k : AccKind} {p n al : Nat} {ps : List Piece}
    (h : s.access t core k p n al = (.ok ps, s1)) : Option.orFail (windowFail core k p) (alignFail p al) = none := by
  cases hf : Option.orFail (windowFail core k p) (alignFail p al) with
  | none => rfl
  | some f => rw [access_refused hf] at h; cases h

/-- Settles O27: a reduction is its step at the word, RFADD its step at the slot once the pointer has passed. -/
theorem reductionResult : Obligations.ReductionResult := by
  refine ⟨fun i a b sc op s s1 s2 x r hi hr hit hp => ?_, fun a b sc s s1 s2 q pa pol ow n r hr hsc ht hit => ?_, fun a b sc s hsc => ?_⟩
  · rw [exec_eq_reduction hi, State.reduction, guarded_ready hr, wordAccess_at ⟨r, hit⟩]
    dsimp only
    cases hk : x.loc.keepsPartial sc with
    | true => rfl
    | false => exact (if_neg (by decide)).trans (cleanWord_clean (hp hk))
  · change execRfadd a b sc s = _
    have hchk : Option.orFail (windowFail s1.cur.1 .rmw (s1.ptrOf a 0)) (alignFail (s1.ptrOf a 0) 64) = none := access_checked hit
    unfold Hit at hit
    rw [execRfadd, if_neg (by omega), guarded_ready hr]
    simp only [hchk, ht, hit]
    rfl
  · exact if_pos hsc

/-! ## Reservations -/

theorem takeReserved_some {s : State} {rd : List Name} {d : Name} {v : Nat} {z : Bool} {r : Narrowed}
    (h : s.thr.narrow d (s.thr.loadVal d v) = some r) :
    s.takeReserved rd d v z = .next (After s rd (put1 d r.pat (r.flags.withZ z))) := by
  simp only [State.takeReserved, h]; rfl

/-- A thread holds a word when the holder's entry names it (R224). -/
theorem holds_of_holder {s : State} {h : ResHome} {w : WordLoc} {e : ResEntry} {ctx k : Nat} (he : s.holder h w = some e)
    (hc : e.ctx = ctx) (hk : e.recIx = k) : s.holds h w ctx k = true := by
  simp [State.holds, he, hc, hk]

theorem holds_of_none {s : State} {h : ResHome} {w : WordLoc} {ctx k : Nat} (he : s.holder h w = none) :
    s.holds h w ctx k = false := by
  simp [State.holds, he]

theorem choose_form (s : State) (k : Nat) : (s.choose k).2 = { s with freeCtr := (s.choose k).2.freeCtr } := by
  unfold State.choose; split <;> rfl

theorem reservationTake : ReservationTake := by
  intro d a sc s s1 s2 x hr hw s0 h w room entry
  have key : exec (.lrw d a sc) s =
      if s0.holds h w s0.thr.ctx s0.thr.recIx then (s0.resWord h w).2.takeReserved [a] d (s0.resWord h w).1 false
      else if h = .remote then s0.remoteReserve a d w x.addr sc
      else
        let s1 : State := { s0 with resvs := s0.resvs ++ [entry (room && (s0.holder h w).isNone)] }
        if room && (s0.holder h w).isNone then
          ((s1.resWord h w).2.acquire (s1.resWord h w).2.cur.1 sc).takeReserved [a] d (s1.resWord h w).1 true
        else .next (s1.park [a] .reservation) :=
    (guarded_ready hr).trans ((wordAccess_at hw.1).trans (cleanWord_clean hw.2))
  refine ⟨fun e v s4 r he hc hk hv hn => ?_, fun hh hroom hno v s4 r hv hn => ?_, fun hh hno hor => ?_,
    fun hh hno k s3 hk => ?_⟩
  · rw [key, if_pos (holds_of_holder he hc hk), hv]
    exact takeReserved_some hn
  · rw [key, if_neg (by simp [holds_of_none hno]), if_neg hh]
    simp only [hroom, hno, Option.isNone_none, Bool.and_true, if_true, hv]
    exact takeReserved_some hn
  · have hf : (room && (s0.holder h w).isNone) = false := by
      rcases hor with h1 | h1
      · simp [h1]
      · rw [← Option.not_isSome, h1, Bool.not_true, Bool.and_false]
    rw [key, if_neg (by simp [hno]), if_neg hh]
    simp only [hf, Bool.false_eq_true, if_false]
    obtain ⟨rs, n, ps, e⟩ := park_form { s0 with resvs := s0.resvs ++ [entry false] } [a] .reservation
    exact ⟨_, rfl, by rw [e]; exact ⟨rfl, rfl, rfl, rfl⟩⟩
  intro here far
  have hfar (g : Bool) : far g = ⟨.remote, w, s0.me, s0.thr.ctx, s0.thr.recIx, g, true, sc, d, BitVec.ofNat 64 x.addr⟩ := by
    rw [← hh]
  have hall : s0.resvs.all (fun e => decide (¬(e.home = .remote ∧ e.loc = w))) = !here := by
    rw [List.all_eq_not_any_not]
    simp only [decide_not, Bool.not_not, here]
  refine ⟨fun hk0 hhere v s4 r hv hn => ?_, fun hor => ?_⟩
  · rw [key, if_neg (by simp [hno]), if_pos hh]
    simp only [State.remoteReserve, hk]
    rw [if_pos ⟨hk0, by rw [hall, hhere]; rfl⟩, ← hfar true, hv]
    exact takeReserved_some hn
  · rw [key, if_neg (by simp [hno]), if_pos hh]
    simp only [State.remoteReserve, hk]
    rw [if_neg (by rw [hall]; rcases hor with h1 | h1 <;> simp [h1]), ← hfar false]
    have h3 : s3 = { s0 with freeCtr := s3.freeCtr } := by have e := choose_form s0 2; rwa [hk] at e
    have hpc : s3.thr.pc = s0.thr.pc := by rw [h3]
    have hmem : s3.mem = s0.mem := by rw [h3]
    have hres : s3.resvs ++ [far false] = s0.resvs ++ [far false] := by rw [h3]
    obtain ⟨rs, n, ps, e⟩ := park_form
      (({ s3 with resvs := s3.resvs ++ [far false] } : State).remoteWait (.reserve w) x.addr false none) [a] .reservation
    refine ⟨_, rfl, ?_⟩
    rw [e]
    exact ⟨rfl, hpc, hmem, hres⟩

/-- The entry through which a thread holds a word, if it does (R224). -/
theorem holder_filter (s : State) (h : ResHome) (w : WordLoc) (ctx k : Nat) :
    (s.holder h w).filter (fun e => decide (e.ctx = ctx ∧ e.recIx = k)) = if s.holds h w ctx k then s.holder h w else none := by
  cases hh : s.holder h w with
  | none => simp
  | some e => simp only [Option.filter_some, State.holds, hh]

theorem holder_home {s : State} {h : ResHome} {w : WordLoc} {e : ResEntry} (he : s.holder h w = some e) : e.home = h := by
  have := List.find?_some he
  simp only [Bool.and_eq_true, decide_eq_true_eq] at this
  exact this.1.1

theorem reservationGive : ReservationGive := by
  intro a b sc s s1 s2 x hw h s0
  have gone (hno : s2.holds h x.loc.word s2.thr.ctx s2.thr.recIx = false) (rd : List Name) (v : State → Option Nat) :
      s1.giveUp rd a sc v = s0.putFlags rd (FlagWrite.onlyZ false) := by
    refine (wordAccess_at hw).trans ?_
    simp only [holder_filter]
    rw [if_neg (by rw [hno]; decide)]
  refine ⟨fun hno => ⟨fun hr => ?_, fun hr => ?_⟩, fun e he hc hk => ?_⟩
  · exact (guarded_ready hr).trans (gone hno _ _)
  · exact (guarded_ready hr).trans (gone hno _ _)
  have hhome : e.home = h := holder_home he
  have held (rd : List Name) (v : State → Option Nat) : s1.giveUp rd a sc v =
      if (v s2).isSome then s2.cleanWord (resLevel h) x (fun s => s.giveHeld rd sc e (v s) x)
      else s2.giveHeld rd sc e none x := by
    refine (wordAccess_at hw).trans ?_
    simp only [holder_filter]
    rw [if_pos (holds_of_holder he hc hk), he, ← hhome]
  have stores (hp : s2.levelPoison (resLevel h) x = none) (rd : List Name) (v : State → Nat) :
      s1.giveUp rd a sc (fun s => some (v s)) = s2.giveHeld rd sc e (some (v s2)) x :=
    (held rd _).trans ((if_pos rfl).trans (cleanWord_clean hp))
  refine ⟨fun hr => ?_, fun pa pol ow hr hl hp => ?_, fun c off hr hl hp => ?_⟩
  · exact (guarded_ready hr).trans (held _ _)
  · refine (guarded_ready hr).trans ((stores hp _ _).trans ?_)
    simp only [State.giveHeld, hl, hhome]; rfl
  · refine (guarded_ready hr).trans ((stores hp _ _).trans ?_)
    simp only [State.giveHeld, hl]; rfl

/-- Settles O28: LRW by its cases at the word's queue, SCH and LRX by the entry through which the thread holds the word, if any. -/
theorem reservations : Obligations.Reservations := ⟨reservationTake, reservationGive⟩

end Sys2Proof.Claims
end

section
/-! PROOFS. The vector unit: lanes, moves, conversions and checks (R69, R80, R152, R153, R170 to R184). -/

namespace Sys2Proof.Claims
open Sys2Proof Sys2Proof.Machine

@[simp] theorem ints_names (ns : List Name) : (ints ns).map Prod.fst = ns := by
  simp [ints, Function.comp_def]

/-! ## The rows of the vector unit run as the shared operations -/

theorem exec_eq_lane {i : Instr} {w : LaneRow} (h : laneRow i = some w) (s : State) :
    exec i s = s.vlane w.d w.a w.b w.tags w.lane := by
  unfold laneRow at h; split at h
  case h_19 => cases h
  all_goals (cases h; rfl)

theorem exec_eq_vshift {i : Instr} {d : VReg} {a b : VOp} {f : Nat → Nat → Nat → Nat} (h : vshiftRow i = some (d, a, b, f))
    (s : State) : exec i s = s.vshift d a b f := by
  unfold vshiftRow at h; split at h
  case h_7 => cases h
  all_goals (cases h; rfl)

theorem exec_eq_vcompare {i : Instr} {d : VReg} {a b : VOp} {f : Int → Int → Bool} {g : FVal → FVal → Bool}
    (h : vcmpRow i = some (d, a, b, f, g)) (s : State) : exec i s = s.vcompare d a b f g := by
  unfold vcmpRow at h; split at h
  case h_5 => cases h
  all_goals (cases h; rfl)

/-- The magnitude that VABS takes is the integer's absolute value (R172). -/
theorem exec_eq_vunary {i : Instr} {d a : VReg} {f : Int → Int} {g : FVal → FVal} (h : vunaryRow i = some (d, a, f, g)) (s : State) :
    exec i s = s.vunary d a f g := by
  have habs : (fun x : Int => (x.natAbs : Int)) = fun x => if x < 0 then -x else x := funext natAbs_choice
  unfold vunaryRow at h; split at h
  case h_1 => cases h; exact congrArg (fun f => s.vunary d a f FVal.abs) habs
  case h_2 => cases h; rfl
  case h_3 => cases h; exact congrArg (fun f => s.vunary (v16 _) (v16 _) f FVal.abs) habs
  case h_4 => cases h; rfl
  case h_5 => cases h

theorem exec_eq_vread {i : Instr} {u : Use} {pre : State → Option Trap} {d : Name} {x : State → Int}
    (h : vreadRow i = some (u, pre, d, x)) (s : State) : exec i s = s.vread u pre d x := by
  unfold vreadRow at h; split at h
  case h_4 => cases h
  all_goals (cases h; rfl)

theorem exec_eq_vreduce {i : Instr} {d a : VReg} {f : Int → Int → Int} {g : FVal → FVal → FVal} (h : vreduceRow i = some (d, a, f, g))
    (s : State) : exec i s = s.vreduce d a f g := by
  unfold vreduceRow at h; split at h
  case h_4 => cases h
  all_goals (cases h; rfl)

theorem exec_eq_vlong {i : Instr} {d : VReg} {a b : VOp} {acc : Bool} {l : Look} {f : FVal → FVal → FVal → FVal}
    (h : vlongRow i = some (d, a, b, acc, l, f)) (s : State) : exec i s = s.vlong d a b acc l f := by
  unfold vlongRow at h; split at h
  case h_4 => cases h
  all_goals (cases h; rfl)

/-! ## Lanes -/

theorem laneResult : LaneResult := by
  intro i w s s2 hi hv
  rw [exec_eq_lane hi, State.vlane]
  exact vissue_ready hv

theorem shiftCompareResult : ShiftCompareResult := by
  refine ⟨fun i d a b f s s2 hi hv => ?_, fun i d a b f g s s2 hi hv => ?_, fun i d a f g s s2 hi hv => ?_⟩
  · rw [exec_eq_vshift hi, State.vshift]; exact vissue_ready hv
  · rw [exec_eq_vcompare hi, State.vcompare]; exact vissue_ready hv
  · rw [exec_eq_vunary hi, State.vunary]; exact vissue_ready hv

/-- Settles O29: each instruction is the shared lane, shift, comparison or one-register operation of its row. -/
theorem laneOperations : Obligations.LaneOperations := ⟨laneResult, shiftCompareResult⟩

/-! ## Moves -/

theorem selectMoveInsert : SelectMoveInsert := by
  intro d a x y n p q tag e f s s2
  refine ⟨fun hv => ?_, fun hv => ?_, fun hv => ?_, fun hv => ?_, fun hv => ?_⟩
  · change execVsel d x y s = _
    rw [execVsel]; exact vissue_ready hv
  · change s.vcopy d a = _
    rw [State.vcopy]; exact vissue_ready hv
  · change s.vcopy (v16 e) (v16 f) = _
    rw [State.vcopy]; exact vissue_ready hv
  · change execVbcast d n tag s = _
    rw [execVbcast]; exact vissue_ready hv
  · change execVins d p q s = _
    rw [execVins]; exact vissue_ready hv

theorem permuteReduceRetag : PermuteReduceRetag := by
  intro d a x n tag item s s2
  refine ⟨fun hv => ?_, fun i f g hi hv => ⟨fun k hk => ?_, fun hk => ?_⟩, fun hv => ?_, fun hv => ?_⟩
  · change execVperm d a x s = _
    rw [execVperm]
    refine (vissue_ready hv).trans ?_
    rw [putVreg_eq, Use.names, ints_names]
  · rw [exec_eq_vreduce hi, State.vreduce, vissue_ready hv]; simp only [hk]; rfl
  · rw [exec_eq_vreduce hi, State.vreduce, vissue_ready hv]; simp only [hk]; rfl
  · change execVretag d a tag s = _
    rw [execVretag]; exact vissue_ready hv
  · change execVsexw d n item s = _
    rw [execVsexw]; exact vissue_ready hv

/-- Settles O30: each move is one write of a register, computed from the operands at hand. -/
theorem vectorMoves : Obligations.VectorMoves := ⟨selectMoveInsert, permuteReduceRetag⟩

/-- Settles O31: the value is narrowed before the entry is made, so that a name that cannot hold it stops the issue. -/
theorem vectorToName : Obligations.VectorToName := by
  intro i u pre d x s s1 hi hr hp hq
  have hroom : s1.vqFull = false := by simp only [State.vqFull, decide_eq_false_iff_not]; omega
  rw [exec_eq_vread hi, State.vread, guardedIf_ready hr hp, hroom, if_neg (by decide)]
  refine ⟨fun r hn => ?_, fun hn => ?_⟩
  · simp only [hn]
    exact narrowInto_some hn
  · simp only [hn]; rfl

/-! ## Rounding -/

theorem vectorFloatResult : VectorFloatResult := by
  refine ⟨fun i d a b acc l f s s2 hi => ?_, fun d a l s s2 hv => ?_⟩
  · intro srcs u hv
    rw [exec_eq_vlong hi, State.vlong]
    exact (vissue_ready hv).trans (finishLong_eq _ _ _ _)
  · change execVsqrt d a l s = _
    rw [execVsqrt]
    exact (vissue_ready hv).trans (finishLong_eq _ _ _ _)

/-- The noise of a group's conversion: a word for each element in mode SR, none in another mode (R55, R181). -/
theorem withNoise_group {s s1 : State} {rm : RMode} {n : Nat} {ws : List Nat} {k : List Nat → State → Out}
    (h : (rm = .sr ∧ s.draws n = (.ok ws, s1)) ∨ (rm ≠ .sr ∧ ws = [] ∧ s1 = s)) : s.withNoise rm n k = k ws s1 := by
  rcases h with ⟨rfl, h⟩ | ⟨hm, rfl, rfl⟩
  · simp [State.withNoise, h]
  · simp [State.withNoise, hm]

theorem groupConversion : GroupConversion := by
  intro d a tag rm s s1 s2 ws p srcs dsts hr hq hn out
  have hroom : s1.vqFull = false := by simp only [State.vqFull, decide_eq_false_iff_not]; omega
  have conv (acc : List Tag) (exact : Tag → Bool) (hp : s.groupFail d a tag rm acc (exact (s.tagOf a)) = none) :
      s.vconvert d a tag rm acc exact = .next (After s2.vqPush [] { Pending.none with vregs := List.zip dsts out }) := by
    rw [State.vconvert]
    refine (guardedIf_ready hr hp).trans ?_
    rw [hroom, if_neg (by decide)]
    exact withNoise_group hn
  exact ⟨fun hp => conv vcvtSources (fun S => tagExact S tag) hp, fun hp => conv _ (fun _ => false) hp⟩

/-- Settles O32: the long forms by their row, the conversions by one argument for both. -/
theorem vectorRounding : Obligations.VectorRounding := ⟨vectorFloatResult, groupConversion⟩

/-! ## Checks -/

/-- Registers that all carry a tag pass the check of it; the first that does not is the one that the trap names (R170). -/
theorem tagsAre_all {s : State} {vs : List VReg} {t : Tag} (h : ∀ v ∈ vs, (s.thr.vreg v).tag = t) : s.tagsAre vs t = none := by
  have hf : vs.find? (fun v => decide (s.tagOf v ≠ t)) = none := List.find?_eq_none.2 (fun v hv => by simp [State.tagOf, h v hv])
  rw [State.tagsAre, hf]; rfl

theorem tagsAre_first {s : State} {vs : List VReg} {t : Tag} {w : VReg}
    (h : vs.find? (fun v => decide ((s.thr.vreg v).tag ≠ t)) = some w) : s.tagsAre vs t = some (tagFail (s.thr.vreg w).tag t) := by
  unfold State.tagsAre State.tagOf
  rw [h]; rfl

theorem tagIn_accepted {s : State} {v : VReg} {acc : List Tag} (h : (s.thr.vreg v).tag ∈ acc) : s.tagIn v acc = none := if_pos h

theorem tagIn_refused {s : State} {v : VReg} {acc : List Tag} (h : (s.thr.vreg v).tag ∉ acc) :
    s.tagIn v acc = some (tagFail (s.thr.vreg v).tag (acc.headD .raw)) := if_neg h

/-- The instructions under one lane type make the check of their row (R170). -/
theorem exec_eq_vissue {i : Instr} {u : Use} {vs : List VReg} {acc : List Tag} (h : vtypeRow i = some (u, vs, acc)) :
    ∃ k : State → Out, ∀ s, exec i s = s.vissue u (fun s => s.laneType vs acc) k := by
  unfold vtypeRow at h
  split at h
  · rename_i w hw; cases h; exact ⟨_, fun s => (exec_eq_lane hw s).trans (by unfold State.vlane; rfl)⟩
  split at h
  · rename_i hw; cases h; exact ⟨_, fun s => (exec_eq_vshift hw s).trans (by unfold State.vshift; rfl)⟩
  split at h
  · rename_i hw; cases h; exact ⟨_, fun s => (exec_eq_vcompare hw s).trans (by unfold State.vcompare; rfl)⟩
  split at h
  · rename_i hw; cases h; exact ⟨_, fun s => (exec_eq_vunary hw s).trans (by unfold State.vunary; rfl)⟩
  split at h
  · rename_i hw; cases h; exact ⟨_, fun s => (exec_eq_vlong hw s).trans (by unfold State.vlong; rfl)⟩
  split at h
  · cases h; exact ⟨_, fun s => show execVsqrt _ _ _ s = _ by unfold execVsqrt; rfl⟩
  · cases h

theorem vissue_refused {s : State} {u : Use} {pre : State → Option Trap} {k : State → Out} {x : Trap}
    (hu : s.useFail u = none) (hp : pre s = some x) : s.vissue u pre k = .next (s.takeTrap x) := guardedIf_refused hu hp

/-- With the queue full an instruction does not issue (R153). -/
theorem vissue_full {s s1 : State} {u : Use} {pre : State → Option Trap} {k : State → Out} (hr : Ready s u s1) (hp : pre s = none)
    (hq : 4 ≤ (s1.core s1.cur.1).vq.length) : s.vissue u pre k = .next (s1.modThr Thread.unissue) := by
  refine (guardedIf_ready hr hp).trans (if_pos ?_)
  simpa [State.vqFull] using hq

theorem laneChecks {i : Instr} {u : Use} {vs : List VReg} {acc : List Tag} {s s1 : State} (hi : vtypeRow i = some (u, vs, acc))
    (hu : s.useFail u = none) :
    (vs = [] → exec i s = .next (s.takeTrap (mkTrap .illegalInstruction 0 0 0))) ∧
    (∀ v rest, vs = v :: rest →
      ((s.thr.vreg v).tag ∉ acc →
        exec i s = .next (s.takeTrap (mkTrap .tagMismatch 0 (s.thr.vreg v).tag.code (acc.headD .raw).code))) ∧
      (∀ w, (s.thr.vreg v).tag ∈ acc → rest.find? (fun w => decide ((s.thr.vreg w).tag ≠ (s.thr.vreg v).tag)) = some w →
        exec i s = .next (s.takeTrap (mkTrap .tagMismatch 0 (s.thr.vreg w).tag.code (s.thr.vreg v).tag.code))) ∧
      ((s.thr.vreg v).tag ∈ acc → (∀ w ∈ rest, (s.thr.vreg w).tag = (s.thr.vreg v).tag) → s.gather u = .ready s1 →
        4 ≤ (s1.core s1.cur.1).vq.length → exec i s = .next (s1.modThr Thread.unissue))) := by
  obtain ⟨k, hk⟩ := exec_eq_vissue hi
  rw [hk]
  refine ⟨fun h => ?_, fun v rest h => ⟨fun ht => ?_, fun w ht hf => ?_, fun ht hall hg hq => ?_⟩⟩
  · exact vissue_refused hu (by rw [h]; rfl)
  · exact vissue_refused hu (by simp only [h, State.laneType, tagIn_refused ht]; rfl)
  · exact vissue_refused hu (by simp only [h, State.laneType, tagIn_accepted ht]; exact tagsAre_first hf)
  · exact vissue_full ⟨hu, hg⟩ (by simp only [h, State.laneType, tagIn_accepted ht]; exact tagsAre_all hall) hq

theorem groupChecks {d a : VReg} {D : Tag} {rm : RMode} {acc : List Tag} {exact : Tag → Bool} {s s1 : State} {u : Use}
    (hU : u = { vreads := vregRun a (groupSize (s.thr.vreg a).tag D / tagCount (s.thr.vreg a).tag)
                vwrites := vregRun d (groupSize (s.thr.vreg a).tag D / tagCount D) })
    (hu : s.useFail u = none) :
    let S := (s.thr.vreg a).tag
    let p := groupSize S D
    let past : Prop := 32 < a.val + p / tagCount S ∨ 32 < d.val + p / tagCount D ∨ (rm = .sr ∧ exact S = true)
    (S ∉ acc → s.vconvert d a D rm acc exact = .next (s.takeTrap (mkTrap .tagMismatch 0 S.code (acc.headD .raw).code))) ∧
    (S ∈ acc → past → s.vconvert d a D rm acc exact = .next (s.takeTrap (mkTrap .illegalInstruction 0 0 0))) ∧
    (S ∈ acc → ¬past →
      (∀ w, (vregRun a (p / tagCount S)).find? (fun v => decide ((s.thr.vreg v).tag ≠ S)) = some w →
        s.vconvert d a D rm acc exact = .next (s.takeTrap (mkTrap .tagMismatch 0 (s.thr.vreg w).tag.code S.code))) ∧
      ((∀ v ∈ vregRun a (p / tagCount S), (s.thr.vreg v).tag = S) → s.gather u = .ready s1 → 4 ≤ (s1.core s1.cur.1).vq.length →
        s.vconvert d a D rm acc exact = .next (s1.modThr Thread.unissue))) := by
  intro S p past
  subst hU
  rw [State.vconvert]
  refine ⟨fun ht => ?_, fun ht hpast => ?_, fun ht hpast => ⟨fun w hf => ?_, fun hall hg hq => ?_⟩⟩
  · exact guardedIf_refused hu (by simp only [State.groupFail, tagIn_refused ht]; rfl)
  · exact guardedIf_refused hu (by simp only [State.groupFail, tagIn_accepted ht]; exact if_pos hpast)
  · exact guardedIf_refused hu (by
      simp only [State.groupFail, tagIn_accepted ht]; exact (if_neg hpast).trans (tagsAre_first hf))
  · refine (guardedIf_ready ⟨hu, hg⟩ ?_).trans (if_pos ?_)
    · simp only [State.groupFail, tagIn_accepted ht]
      exact (if_neg hpast).trans (tagsAre_all hall)
    · simpa [State.vqFull] using hq

/-- Settles O33: the checks of the lane type by its three cases, those of a group conversion by one argument for both. -/
theorem vectorChecks : Obligations.VectorChecks := by
  refine ⟨fun i u vs acc s s1 hi hu => laneChecks hi hu, fun i d a D rm acc exact s s1 => ?_⟩
  intro S p srcs u past hi hu
  rcases hi with ⟨rfl, rfl, rfl⟩ | ⟨rfl, rfl, rfl⟩
  · exact groupChecks (exact := fun S => tagExact S D) rfl hu
  · exact groupChecks (exact := fun _ => false) rfl hu

end Sys2Proof.Claims
end

section
/-! PROOFS. Flumes, QBIND and SPLIT (R212, R228 to R231, R251 to R254, R257). -/

namespace Sys2Proof.Claims
open Sys2Proof Sys2Proof.Machine

/-! ## Enqueues and dequeues -/

/-- A flume instruction whose handle is not bound and whose element names end at n63 goes on with those names (R252). -/
theorem flumeGuard_send {s s1 : State} {a e : Name} {others writes : List (Name × Need)} {k : List Name → State → Out}
    (hb : (s.thr.name a).bind = .none) (hn : e.val + elemNames (s.ext a) ≤ 64)
    (hr : Ready s { reads := ints [a] ++ (nameRun e (elemNames (s.ext a))).map (fun x => (x, .intOr [.f64])) ++ others
                    writes := writes } s1) :
    s.flumeGuard a others writes e true k = k (nameRun e (elemNames (s.ext a))) s1 := by
  simp only [State.flumeGuard, State.withHandle]
  rw [if_pos hb, if_neg (Nat.not_lt.2 hn)]
  exact guarded_ready hr

theorem flumeGuard_take {s s1 : State} {a e : Name} {others writes : List (Name × Need)} {k : List Name → State → Out}
    (hb : (s.thr.name a).bind = .none) (hn : e.val + elemNames (s.ext a) ≤ 64)
    (hr : Ready s { reads := ints [a] ++ others
                    writes := (nameRun e (elemNames (s.ext a))).map (fun x => (x, .elem)) ++ writes } s1) :
    s.flumeGuard a others writes e false k = k (nameRun e (elemNames (s.ext a))) s1 := by
  simp only [State.flumeGuard, State.withHandle]
  rw [if_pos hb, if_neg (Nat.not_lt.2 hn)]
  exact guarded_ready hr

/-- A thread parks at a flume with no limit, or with one above 0; with another it takes WAIT_EXPIRED (R231). -/
theorem flumePark_above {s : State} {f : Fcb} {w : FlumeWaiter} {rd : List Name} {l : Int} (h : 0 < l) :
    s.flumePark f w rd (some l) = .next ((s.flumeWait f w).park rd .flume) := if_neg (by omega)

theorem flumePark_expired {s : State} {f : Fcb} {w : FlumeWaiter} {rd : List Name} {l : Int} (h : l ≤ 0) :
    s.flumePark f w rd (some l) = .next (s.takeTrap (mkTrap .waitExpired w.va.toNat f.head f.tail)) := if_pos h

theorem enqueueResult : EnqueueResult := by
  intro a b d s s1 s2 s3 pa f o es h elem hb hn ho he
  have enq (lim : Option Name) (hr : Ready s { reads := ints [a] ++ elem ++ ints lim.toList } s1) : s.enqueue a b lim =
      if o = .wait then s3.flumePark f (s3.flumeMe pa f h true (s1.elemOf es) 63 lim.isSome) ([a] ++ es ++ lim.toList)
        (lim.map (fun n => s1.val n))
      else .next (After s3 ([a] ++ es ++ lim.toList) Pending.none) := by
    rw [State.enqueue]
    refine (flumeGuard_send hb hn hr).trans ?_
    simp only [h, es] at ho he ⊢
    simp only [ho, he]
    cases o <;> rfl
  refine ⟨fun hr => ⟨fun hw => ?_, fun hw => ?_⟩, fun hr => ⟨fun hw => ?_, fun hw hl => ?_, fun hw hl => ?_⟩⟩
  · exact (enq none hr).trans (if_neg hw)
  · exact (enq none hr).trans (if_pos hw)
  · exact (enq (some d) hr).trans (if_neg hw)
  · exact (enq (some d) hr).trans ((if_pos hw).trans (flumePark_expired hl))
  · exact (enq (some d) hr).trans ((if_pos hw).trans (flumePark_above hl))

theorem dequeueResult : DequeueResult := by
  intro d a b s s1 s2 s3 pa f e es h dsts hb hn ho
  have deq (lim : Option Name) (hr : Ready s { reads := ints [a] ++ ints lim.toList, writes := dsts } s1) {r : FlumeOut}
      (hd : s2.flumeDeq (s2.dev.dieOf s2.cur.1) pa f = (r, s3)) : s.dequeue d a lim = match (motive := FlumeOut → Out) r with
        | .done e => .next (After (s3.acquire s3.cur.1 f.scopeOf) ([a] ++ lim.toList) { Pending.none with names := s3.thr.parts d e })
        | _ => s3.flumePark f (s3.flumeMe pa f h false [] d lim.isSome) ([a] ++ lim.toList) (lim.map (fun n => s1.val n)) := by
    rw [State.dequeue]
    refine (flumeGuard_take hb hn hr).trans ?_
    simp only [h, es] at ho ⊢
    simp only [ho, hd]
    cases r <;> rfl
  refine ⟨fun hd => ⟨fun hr => ?_, fun hr => ?_⟩, fun hd => ⟨fun hr => ?_, fun hr hl => ?_, fun hr hl => ?_⟩⟩
  · exact deq none hr hd
  · exact deq (some b) hr hd
  · exact deq none hr hd
  · exact (deq (some b) hr hd).trans (flumePark_expired hl)
  · exact (deq (some b) hr hd).trans (flumePark_above hl)

/-- Settles O34: each form is the shared operation with or without a limit, and what it does is the controller's answer. -/
theorem flumeTransfers : Obligations.FlumeTransfers := ⟨enqueueResult, dequeueResult⟩

/-- A counter of a control block by its item (R253). -/
theorem stat_eq (f : Fcb) (item : Fin 7) :
    f.stat item.val = [f.tail - f.head, f.free, f.head, f.tail, f.drops, f.waite, f.waitd].getD item.val 0 := by
  fin_cases item <;> rfl

/-- Settles O35: ENQN and DEQN by the controller's answer, QSTAT by the counter that its item names. -/
theorem flumeTries : Obligations.FlumeTries := by
  intro d a b l item s s1 s2 s3 pa f r h src dst look hb hnb hnd
  refine ⟨fun hr ho o he hn => ?_, fun hr ho => ⟨fun e hd => ?_, fun hd => ?_⟩, fun hr ho hn => ?_⟩
  · change execEnqn d a b l s = _
    rw [execEnqn]
    refine (flumeGuard_send hb hnb hr).trans ?_
    simp only [h, src] at ho he ⊢
    simp only [ho, he]
    cases o <;> exact narrowLongAfter_some hn
  · change execDeqn d a l s = _
    rw [execDeqn]
    refine (flumeGuard_take hb hnd hr).trans ?_
    simp only [h] at ho ⊢
    simp only [ho, hd]
    exact finishLong_eq _ _ _ _
  · change execDeqn d a l s = _
    rw [execDeqn]
    refine (flumeGuard_take hb hnd hr).trans ?_
    simp only [h] at ho ⊢
    simp only [ho, hd]
    exact finishLong_eq _ _ _ _
  · change execQstat d a item l s = _
    rw [execQstat, guarded_ready hr]
    simp only [h] at ho ⊢
    simp only [ho, stat_eq]
    exact narrowLong_some hn

/-- Settles O36: the controller's three cases of an enqueue and of a dequeue. -/
theorem flumeOrder : Obligations.FlumeOrder := by
  intro s die pa f e
  refine ⟨fun hw hf => ?_, fun hw hf hp => ?_, fun hw hf hp => ?_, fun w hw => ?_, fun hh => ?_, fun hh hw => ?_,
    fun w hh hw => ?_⟩
  · simp [State.flumeEnq, hw, hf]
  · simp [State.flumeEnq, hw, hf, hp, Nat.min_def]
  · simp [State.flumeEnq, hw, hf, hp]
  · intro s1 ho
    simp only [State.flumeEnq, if_pos hw, State.handElem]
    simp only [s1] at ho ⊢
    rw [ho]
  · simp [State.flumeDeq, Nat.not_lt.2 hh]
  · simp [State.flumeDeq, hh, hw]
  · intro s1 ho
    simp only [State.flumeDeq, if_pos hh, if_pos hw, State.takeElem, Nat.add_sub_cancel]
    simp only [s1] at ho ⊢
    rw [ho]; rfl

/-! ## QBIND and SPLIT -/

theorem flumeBinding : FlumeBinding := by
  intro d a s s1 s2 pa f h b ha
  refine ⟨fun hr ho => ⟨fun hq => ?_, fun hq => ?_⟩, fun hr hb => ?_⟩
  · change execQbind d a s = _
    rw [execQbind, if_neg ha, guarded_ready hr]
    simp only [ho, hq, if_true]; rfl
  · change execQbind d a s = _
    rw [execQbind, if_neg ha, guarded_ready hr]
    simp only [ho, hq, Bool.false_eq_true, if_false]; rfl
  · change execQbind d 63 s = _
    rw [execQbind, if_pos rfl, State.qunbind, guarded_ready hr]
    simp only [hb]; rfl

theorem splitResult : SplitResult := fun u s => ⟨fun h => if_pos h, fun h => if_neg (by simp [h])⟩

/-- Settles O37: QBIND by the controller's answer and the rule of refusal, SPLIT by its one test. -/
theorem flumeBindingAndSplit : Obligations.FlumeBindingAndSplit := ⟨flumeBinding, splitResult⟩

end Sys2Proof.Claims
end

section
/-! PROOFS. Threads, groups and the tables of a core (R134 to R136, R144 to R148, R158, R159, R162 to R169). -/

namespace Sys2Proof.Claims
open Sys2Proof Sys2Proof.Machine

/-! ## SPAWN, QUIT and YIELD -/

/-- Settles O38: the entry is read, then a record is taken or none is free. -/
theorem spawnResult : Obligations.SpawnResult := by
  intro d a b s s1 s2 s3 pc maph u hr he
  have key : exec (.spawn d a b) s = _ := guarded_ready hr
  simp only [he] at key
  refine ⟨fun k hk => ?_, fun hk => ?_⟩
  · simp only [hk] at key; exact key
  · simp only [hk] at key; exact key

/-- A thread quits in the turn that finds its windows and its noria operations done (R135, R280). -/
theorem quit_eq {s s1 s2 : State} {b : Bool} (hq : s.quieted = some s1) (hn : s1.quitNoria s1.cur.1 s1.thr = (b, s2)) :
    s.quit = if b then .next (s2.endThread s2.cur.1 s2.cur.2 s2.thr) else .next ((s2.modThr Thread.handlerDone).modThr Thread.unissue) := by
  simp only [State.quit, hq, hn]
  cases b <;> rfl

/-- The record that a YIELD lets into its slot (R136). -/
theorem yieldsTo_none {s : State} (h : s.readyRecs s.thr.ctx s.thr.aff (s.dev.dieOf s.cur.1) = [] ∨ s.pinned s.cur.1 s.thr = true) :
    s.yieldsTo s.cur.1 s.thr = none := by
  unfold State.yieldsTo
  rcases h with h | h
  · rw [h]; split <;> rfl
  · exact if_pos h

theorem yieldsTo_head {s : State} {k : Nat} {r : List Nat} (h : s.readyRecs s.thr.ctx s.thr.aff (s.dev.dieOf s.cur.1) = k :: r)
    (hp : s.pinned s.cur.1 s.thr = false) : s.yieldsTo s.cur.1 s.thr = some k := by
  simp [State.yieldsTo, hp, h]

/-- Settles O39: QUIT by what its noria operations answer, YIELD by the head of its ready flume. -/
theorem quitAndYield : Obligations.QuitAndYield := by
  refine ⟨fun s s1 s2 hq => ⟨fun hn => ?_, fun hn => ?_⟩, fun s h => ?_, fun s s1 k r h hp hq => ?_⟩
  · exact ⟨quit_eq hq hn, quit_eq hq hn⟩
  · exact ⟨quit_eq hq hn, quit_eq hq hn⟩
  · have key : s.yield = .next (s.modThr (fun t => { t with forgo := true })).retire := by
      simp only [State.yield, yieldsTo_none h]; rfl
    exact ⟨key, key⟩
  · intro die t
    have key : s.yield = .next t := by
      simp only [State.yield, yieldsTo_head h hp, hq]; rfl
    exact ⟨key, key⟩

/-! ## Groups -/

/-- A member joins: the word counts one more, in the phase that it had (R146). -/
theorem join_memb (w : GroupWord) (sc : Scope) : (w.join sc).1.memb = w.memb + 1 := by
  unfold GroupWord.join
  split
  · rename_i h; rw [h]
  · rfl

theorem join_phase (w : GroupWord) (sc : Scope) : (w.join sc).1.phase = w.phase := by
  unfold GroupWord.join; split <;> rfl

/-- Settles O40: JOIN is one atomic at the word, after which it refuses or keeps the handle. -/
theorem joinResult : Obligations.JoinResult := by
  intro g a sc s s1 s2 s3 x w0 hr hg mine refused ha w
  refine ⟨join_memb w sc, join_phase w sc, ?_⟩
  have key : exec (.join g a sc) s =
      if refused w then s3.putFlags [a] ⟨some false, none, none, some false, false⟩
      else (s3.modThr (fun t => t.setGroup g (some (BitVec.ofNat 64 (s1.ext a))))).putFlags [a]
        ⟨some true, none, none, some (w.join sc).2, false⟩ := by
    change execJoin g a sc s = _
    rw [execJoin, guarded_ready hr]
    have ha' : s2.atomicAt s2.cur.1 sc x (fun n =>
        if ((s2.thr.group g).isSome || s2.thr.groups.toList.any (fun h => decide (h = some (BitVec.ofNat 64 (s1.ext a)))) ||
          (GroupWord.ofNat n).joinRefused) = true then none else some ((GroupWord.ofNat n).join sc).1.toNat) = (w0, s3) := ha
    simp only [hg.1, cleanWord_clean hg.2, ha']
    rfl
  exact ⟨fun h => key.trans (if_pos h), fun h => key.trans (if_neg (by simp [h]))⟩

/-- A group instruction whose word is well formed and clean goes on with it (R166). -/
theorem withGroup_found {s s2 : State} {addr : Nat} {x : Piece} {w : GroupWord} {k : Piece → GroupWord → State → Out}
    (h : GroupFound s addr x w s2) : s.withGroup addr k = k x w s2 := by
  obtain ⟨s1, hg, hw, -, hp⟩ := h
  simp only [State.withGroup, hg.1, cleanWord_clean hg.2, hw, cleanWord_clean hp]

theorem field_eq (w : GroupWord) (item : Fin 4) : w.field item.val = [w.memb, w.arrv, w.phase, w.scp].getD item.val 0 := by
  fin_cases item <;> rfl

theorem groupResult : GroupResult := by
  intro g d item addr s s2 x w
  refine ⟨fun hg => ⟨?_, ?_⟩, fun hg hf => ⟨?_, ?_⟩, fun s0 r hr => ⟨fun hg hn => ?_, fun hg hf hn => ?_⟩⟩
  · change execLeave g s = _
    simp only [execLeave, hg]; rfl
  · change execGbar g s = _
    simp only [execGbar, hg]; rfl
  · change execLeave g s = _
    obtain ⟨s1, h1, h2, hm, h4⟩ := id hf
    simp only [execLeave, hg, withGroup_found hf, hm, Bool.false_eq_true, if_false]; rfl
  · change execGbar g s = _
    obtain ⟨s1, h1, h2, hm, h4⟩ := id hf
    simp only [execGbar, hg, withGroup_found hf, hm, Bool.false_eq_true, if_false]
  · change execGcnt d g item s = _
    rw [execGcnt, guarded_ready hr]
    simp only [hg]
    exact narrowInto_some hn
  · change execGcnt d g item s = _
    obtain ⟨s1, h1, h2, hm, h4⟩ := id hf
    rw [execGcnt, guarded_ready hr]
    simp only [hg, withGroup_found hf, hm, Bool.false_eq_true, if_false, field_eq]
    exact narrowInto_some hn

/-- An arrival moves the phase on exactly where it is the last one (R148). -/
theorem arrive_eq (w : GroupWord) : w.arrive = if (w.arrv + 1) % 2 ^ 32 = w.memb then { w with arrv := 0, phase := (w.phase + 1) % 65536 }
    else { w with arrv := (w.arrv + 1) % 2 ^ 32 } := rfl

theorem barrierArrival : BarrierArrival := by
  intro s x sc w0 s2 count next ha w
  have key : s.arrive x sc =
      if w.arrive.phase ≠ w.phase then ((s2.wakeGroup x.loc.key w.phase).acquire s.cur.1 sc).putFlags [] (FlagWrite.onlyZ true)
      else if s2.remotePiece x then .next ((s2.remoteWait (.group sc) x.addr false none).park [] .group)
      else .next (({ s2 with groupWaits := s2.groupWaits ++ [⟨x.loc.key, w.phase, sc, s2.me⟩] } : State).park [] .group) := by
    have ha' : (s.release s.cur.1 sc).atomicAt s.cur.1 sc x (fun w => some (GroupWord.ofNat w).arrive.toNat) = (w0, s2) := ha
    simp only [State.arrive, ha']
    rfl
  refine ⟨fun hc hp => ?_, fun hc hr => ?_⟩
  · have hne : w.arrive.phase ≠ w.phase := by
      rw [arrive_eq, if_pos hc]; dsimp only; omega
    rw [key, if_pos hne]; rfl
  · have he : ¬ w.arrive.phase ≠ w.phase := by
      rw [arrive_eq, if_neg hc]; exact fun h => h rfl
    rw [key, if_neg he, if_neg (by simp [hr])]
    obtain ⟨rs, n, ps, e⟩ := park_form
      { s2 with groupWaits := s2.groupWaits ++ [⟨x.loc.key, w.phase, sc, s2.me⟩] } [] .group
    exact ⟨_, rfl, by rw [e]; exact ⟨rfl, rfl, rfl⟩⟩

/-- Settles O41: the instructions through the word that their handle finds, the arrival by whether it is the last. -/
theorem groupsAndBarriers : Obligations.GroupsAndBarriers := ⟨groupResult, barrierArrival⟩

/-! ## The tables of a core -/

theorem fixedName_eq (d : Name) : fixedName d = decide (61 ≤ d.val) := by
  unfold fixedName
  refine decide_eq_decide.2 ?_
  constructor
  · rintro (h | h | h) <;> rw [h] <;> decide
  · intro h
    have := d.isLt
    rcases (by omega : d.val = 61 ∨ d.val = 62 ∨ d.val = 63) with e | e | e
    · exact .inl (Fin.ext e)
    · exact .inr (.inl (Fin.ext e))
    · exact .inr (.inr (Fin.ext e))

theorem fixedName_low {d : Name} (h : d.val < 61) : fixedName d = false := by
  rw [fixedName_eq]; exact decide_eq_false (by omega)

theorem fixedName_high {d : Name} (h : 61 ≤ d.val) : fixedName d = true := by
  rw [fixedName_eq]; exact decide_eq_true h

/-- The four tests of a LINK that turns it away are the contrary of those that let it bind (R159). -/
theorem linkRefused_eq {α : Type} (p : Prop) [Decidable p] (taken fits : Bool) (out : Option α) :
    (taken || decide (¬p) || out.isNone || !fits) = !(decide p && !taken && out.isSome && fits) := by
  rw [Bool.not_and, Bool.not_and, Bool.not_and, Bool.not_not, Option.not_isSome, decide_not, Bool.or_comm taken]

theorem exec_link_ready {d : Name} {l : Fin 4} {s s1 : State} (hr : Ready s { decls := ints [d] } s1) :
    exec (.link d l) s =
      if fixedName d then s1.trap (mapFault d.val)
      else if !(decide ((s1.thr.name d).bind = .none) && !s1.linkTaken s1.cur.1 l && (s1.linkOut s1.cur.1 l).isSome &&
        s1.chargeFits s1.thr.ctx 128) then s1.putFlags [] (FlagWrite.onlyZ false)
      else (s1.modThr (fun t => t.setName d { t.name d with bind := .link l })).putFlags [] (FlagWrite.onlyZ true) := by
  change execLink d l s = _
  rw [execLink, guarded_ready hr, ← linkRefused_eq]

theorem exec_ldir_ready {d : Name} {s s1 : State} (hr : Ready s { reads := ints [d] } s1) :
    exec (.ldir d) s =
      if fixedName d then s1.trap (mapFault d.val)
      else if !(dirsDiffer (s1.upat d % 256) && (s1.thr.privl.priv || !s1.foreignLink s1.cur.1 s1.thr.ctx)) then
        s1.putFlags [d] (FlagWrite.onlyZ false)
      else ((s1.consume [d]).setCore s1.cur.1 { (s1.consume [d]).core s1.cur.1 with
        ldir := BitVec.ofNat 8 (s1.upat d % 256) }).putFlags [] (FlagWrite.onlyZ true) := by
  change execLdir d s = _
  rw [execLdir, guarded_ready hr, Bool.not_and, Bool.not_or, Bool.not_not]

/-- Settles O42: each of the four by its tests. -/
theorem coreTables : Obligations.CoreTables := by
  intro d l s s1 s2
  refine ⟨fun hr => ⟨fun h => ?_, fun h => ?_⟩, fun hr => ?_, fun hr => ⟨fun hd h => ?_, fun hd h => ?_, fun hd => ⟨?_, ?_⟩,
    fun hd hq => ⟨fun hb => ?_, fun hb => ?_⟩⟩⟩
  · exact (guarded_ready hr).trans (if_pos h)
  · exact (guarded_ready hr).trans (if_neg (by simp [h]))
  · rw [exec_ldir_ready hr]
    refine ⟨fun hd h => ?_, fun hd h => ?_, fun hd => ?_⟩
    · rw [fixedName_low hd, h]; rfl
    · rw [fixedName_low hd, h]; rfl
    · rw [fixedName_high hd]; rfl
  · rw [exec_link_ready hr, fixedName_low hd, h]; rfl
  · rw [exec_link_ready hr, fixedName_low hd, h]; rfl
  · rw [exec_link_ready hr, fixedName_high hd]; rfl
  · change execUnlink d s = _
    rw [execUnlink, guarded_ready hr]
    exact if_pos (fixedName_high hd)
  · change execUnlink d s = _
    rw [execUnlink, guarded_ready hr]
    simp only [fixedName_low hd, hq, hb]; rfl
  · change execUnlink d s = _
    rw [execUnlink, guarded_ready hr]
    cases hc : (s2.thr.name d).bind with
    | link k => exact absurd hc (hb k)
    | none => simp only [fixedName_low hd, hq, hc]; rfl
    | flume h q => simp only [fixedName_low hd, hq, hc]; rfl

end Sys2Proof.Claims
end

section
/-! PROOFS. Packets, tokens, basins, launches and the noise mode (R59, R259, R268 to R279, R298 to R303, R313, R374). -/

namespace Sys2Proof.Claims
open Sys2Proof Sys2Proof.Machine

/-! ## Packets -/

/-- A token that is tied or done is busy; another is not (R268). -/
theorem tokBusy_iff (t : Thread) (k : Tok) : t.tokBusy k = true ↔ t.tok k.val = 1 ∨ t.tok k.val = 2 := by
  simp [Thread.tokBusy]

theorem exec_packet (coll : Bool) (k : Tok) (a : VReg) (b : Name) (s : State) :
    exec (if coll then Instr.coll k a b else Instr.cpy k a b) s = s.appendPacket k a b coll := by
  cases coll <;> rfl

theorem packetAppended : PacketAppended := by
  intro k a b coll s s1 s2 s3 s4 pa f o i h hr hc
  rw [show exec i s = _ from exec_packet coll k a b s, State.appendPacket, guarded_ready hr]
  simp only [h] at hc ⊢
  simp only [hc]
  refine ⟨fun ht => if_pos ((tokBusy_iff _ _).2 ht), fun h1 h2 hsz => ?_, fun h1 h2 hsz hrem hhome => ?_⟩
  · rw [if_neg (fun e => ((tokBusy_iff _ _).1 e).elim h1 h2), if_pos hsz]; rfl
  · rw [if_neg (fun e => ((tokBusy_iff _ _).1 e).elim h1 h2), if_neg (not_not.2 hsz), if_neg (by simp [hrem])]
    refine ⟨fun hreg => ?_, fun hreg ho he => ?_⟩
    · exact if_pos (.inr (by simp [hreg]))
    · rw [if_neg (by simp [hreg]; omega)]
      simp only [ho]
      refine ⟨fun x hx => ?_, fun hx => ?_, fun hx => ?_⟩
      · simp only [he, hx]; rfl
      · simp only [he, hx]; rfl
      · simp only [he, hx]; rfl

/-! ## Tokens -/

theorem tokenResult : TokenResult := by
  intro mask kind d l s s1 r
  refine ⟨fun hm sc hsc => ?_, fun hm hsc => ?_, fun hm => if_neg (by simp [hm]), fun hr hn => ?_⟩
  · refine (if_pos hm).trans ?_
    simp only [hsc]; rfl
  · refine (if_pos hm).trans ?_
    simp only [hsc]; rfl
  · exact (guarded_ready hr).trans (narrowLong_some hn)

/-! ## Basins -/

theorem phaseState_zero {n : Nat} : phaseState n = 0 ↔ n = 0 := by
  unfold phaseState; split
  · simp [*]
  · split <;> simp [*]

theorem phaseState_one {n : Nat} : phaseState n = 1 ↔ n ≠ 0 ∧ n ≤ 32767 := by
  unfold phaseState; split
  · simp [*]
  · split <;> simp [*]

theorem phaseState_two {n : Nat} : phaseState n = 2 ↔ n ≠ 0 ∧ ¬n ≤ 32767 := by
  unfold phaseState; split
  · simp [*]
  · split <;> simp [*]

theorem basinResult : BasinResult := by
  intro d a b l s s1 s2 pa w r look st acq
  refine ⟨fun hr hb => fun hn => ?_, fun hr hb => fun hn => ?_, fun hr hb hn => ?_, fun hr hb => ⟨fun hn => ?_, fun hs hn => ?_, fun hs hn => ?_, fun hs hk => ?_⟩⟩
  · exact (guarded_ready hr).trans ((withBasin_hit hb).trans (narrowLongAfter_some hn))
  · exact (guarded_ready hr).trans ((withBasin_hit hb).trans (narrowLongAfter_some hn))
  · exact (guarded_ready hr).trans ((withBasin_hit hb).trans (narrowLong_some hn))
  · exact (guarded_ready hr).trans ((withBasin_hit hb).trans (narrowLong_some hn))
  · obtain ⟨h0, h1⟩ := phaseState_one.1 hs
    refine (guarded_ready hr).trans ((withBasin_hit hb).trans ((if_neg h0).trans ?_))
    dsimp only
    rw [if_pos h1]
    exact narrowInto_some hn
  · obtain ⟨h0, h1⟩ := phaseState_two.1 hs
    refine (guarded_ready hr).trans ((withBasin_hit hb).trans ((if_neg h0).trans ?_))
    dsimp only
    rw [if_neg h1]
    exact narrowInto_some hn
  · have key : exec (.bwait d a b) s = .next (({ s2 with basinWaits := s2.basinWaits ++ [⟨pa, w.scope, d, s2.me⟩] } : State).park
        [a, b] .basin) := by
      refine (guarded_ready hr).trans ((withBasin_hit hb).trans ((if_pos (phaseState_zero.1 hs)).trans ?_))
      rw [if_pos hk]
    obtain ⟨rs, n, ps, e⟩ := park_form
      { s2 with basinWaits := s2.basinWaits ++ [⟨pa, w.scope, d, s2.me⟩] } [a, b] .basin
    exact ⟨_, key, by rw [e]; exact ⟨rfl, rfl⟩⟩

/-- Settles O43: a packet by the checks in their order and the controller's answer, tokens and basins by the word that they find. -/
theorem packetsTokensBasins : Obligations.PacketsTokensBasins := ⟨packetAppended, tokenResult, basinResult⟩

/-! ## Launches -/

/-- A request on a record whose die has a live scheduler is carried out (R335). -/
theorem atScheduler_live {s : State} {j : Nat} {k : State → Out} (h : s.dev.recordDie j ∉ s.dev.deadSched) : s.atScheduler j k = k s :=
  if_neg h

theorem answerZ_eq (s : State) (l : Nat) (rd : List Name) (z : Bool) : s.answerZ l rd z = .next (AfterLong s l rd (putZ z)) :=
  finishLong_eq _ _ _ _

theorem armLaunch_live {s s1 : State} {d : Name} {l : Look} {j : Nat} {f : State → Nat → List Decr × State}
    (hr : Ready s { reads := ints [d] } s1) (hi : s1.launchIndex d = some j) (hl : s1.dev.recordDie j ∉ s1.dev.deadSched) :
    s.armLaunch d l f =
      let s3 := s1.release s1.cur.1 .dev
      if s3.launchState s3.thr.ctx j ≠ 0 then .next (AfterLong s3 l.val [d] (putZ false))
      else .next (AfterLong (State.settleLaunch (f s3 j) s3.thr.ctx) l.val [d] (putZ true)) := by
  rw [State.armLaunch]
  refine (guarded_ready hr).trans ?_
  simp only [hi, atScheduler_live hl, answerZ_eq]

theorem armLaunch_none {s s1 : State} {d : Name} {l : Look} {f : State → Nat → List Decr × State}
    (hr : Ready s { reads := ints [d] } s1) (hi : s1.launchIndex d = none) :
    s.armLaunch d l f = .next (AfterLong s1 l.val [d] (putZ false)) := by
  rw [State.armLaunch]
  refine (guarded_ready hr).trans ?_
  simp only [hi, answerZ_eq]

theorem lpatch_ready {d b : Name} {item : Fin 13} {l : Look} {s s1 s2 : State} {j : Nat} (hb : item = 12 → b.val < 32)
    (hr : Ready s (lpatchUse d item b) s1) (hl : s1.dev.recordDie j ∉ s1.dev.deadSched) :
    (s1.launchIndex d = none → exec (.lpatch d item b l) s = .next (AfterLong s1 l.val (lpatchUse d item b).names (putZ false))) ∧
    (s1.launchIndex d = some j →
      (s1.launchState s1.thr.ctx j = 0 → s1.patched s1.thr.ctx j item.val b = some s2 →
        exec (.lpatch d item b l) s = .next (AfterLong s2 l.val (lpatchUse d item b).names (putZ true))) ∧
      ((s1.launchState s1.thr.ctx j ≠ 0 ∨ s1.patched s1.thr.ctx j item.val b = none) →
        exec (.lpatch d item b l) s = .next (AfterLong s1 l.val (lpatchUse d item b).names (putZ false)))) := by
  have hlegal : lpatchIllegal item b = false := decide_eq_false (fun h => by have := hb h.1; omega)
  change (_ → execLpatch d item b l s = _) ∧ (_ → (_ → _ → execLpatch d item b l s = _) ∧ (_ → execLpatch d item b l s = _))
  rw [execLpatch, hlegal, if_neg (by decide), guarded_ready hr]
  refine ⟨fun hi => ?_, fun hi => ⟨fun h0 hp => ?_, fun h0 => ?_⟩⟩
  · simp only [hi, answerZ_eq]
  · simp only [hi, atScheduler_live hl, if_neg (not_not.2 h0), hp, answerZ_eq]
  · simp only [hi, atScheduler_live hl, answerZ_eq]
    split
    · rfl
    · rename_i hz
      simp only [h0.resolve_left hz]

theorem armLaunch_ready {d : Name} {l : Look} {s s1 : State} {j : Nat} (hr : Ready s { reads := ints [d] } s1) (hi : s1.launchIndex d = some j)
    (hl : s1.dev.recordDie j ∉ s1.dev.deadSched) :
    let s3 := s1.release s1.cur.1 .dev
    (s3.launchState s3.thr.ctx j = 0 →
      exec (.lfire d l) s = .next (AfterLong
        (State.settleLaunch ((s3.setLaunch s3.thr.ctx j 0x10 48 16 0).launchTrigger s3.thr.ctx j) s3.thr.ctx) l.val [d] (putZ true)) ∧
      (let s4 := s3.setLaunchState s3.thr.ctx j 1
       s4.launchField s4.thr.ctx j 0x10 48 16 ≠ 0 →
       exec (.larm d l) s = .next (AfterLong (State.settleLaunch ([], s4) s3.thr.ctx) l.val [d] (putZ true))) ∧
      (let s4 := s3.setLaunchState s3.thr.ctx j 1
       s4.launchField s4.thr.ctx j 0x10 48 16 = 0 →
       exec (.larm d l) s = .next (AfterLong (State.settleLaunch (s4.launchTrigger s4.thr.ctx j) s3.thr.ctx) l.val [d] (putZ true)))) ∧
    (s3.launchState s3.thr.ctx j ≠ 0 → exec (.larm d l) s = .next (AfterLong s3 l.val [d] (putZ false)) ∧
      exec (.lfire d l) s = .next (AfterLong s3 l.val [d] (putZ false))) := by
  intro s3
  rw [show exec (.lfire d l) s = execLfire d l s from rfl, show exec (.larm d l) s = execLarm d l s from rfl, execLfire, execLarm,
    armLaunch_live hr hi hl, armLaunch_live hr hi hl]
  refine ⟨fun h0 => ⟨if_neg (not_not.2 h0), fun hf => ?_, fun hf => ?_⟩, fun h0 => ⟨if_pos h0, if_pos h0⟩⟩
  · refine (if_neg (not_not.2 h0)).trans ?_
    dsimp only
    rw [if_neg hf]
  · refine (if_neg (not_not.2 h0)).trans ?_
    dsimp only
    rw [if_pos hf]

theorem launchResult : LaunchResult := by
  intro d a b item l s s1 s2 j r hl
  refine ⟨fun h12 hb => if_pos (by simp [lpatchIllegal, h12, hb]), fun hb hr => lpatch_ready hb hr hl, fun hr hi => armLaunch_ready hr hi hl,
    fun hr hi => ⟨?_, ?_⟩, fun hr hi hn => ?_⟩
  · change execLarm d l s = _
    rw [execLarm, armLaunch_none hr hi]
  · change execLfire d l s = _
    rw [execLfire, armLaunch_none hr hi]
  change execLstat d a l s = _
  rw [execLstat, guarded_ready hr]
  simp only [hi, atScheduler_live hl]
  exact narrowLong_some hn

theorem noiseControl : NoiseControl := by
  intro d a md s s1 r hr c old bad base hn
  have hbad : s1.srngRefused a md.val = bad := rfl
  change (_ → execSrng d a md s = _) ∧ (_ → execSrng d a md s = _)
  rw [execSrng, guarded_ready hr]
  dsimp only
  rw [hbad]
  refine ⟨fun h => ?_, fun h => ?_⟩
  · rw [h]; exact narrowAfter_some hn
  · rw [h]; exact narrowAfter_some hn

/-- Settles O44: the launch instructions by the state of their record, SRNG by its one test. -/
theorem launchesAndNoise : Obligations.LaunchesAndNoise := ⟨launchResult, noiseControl⟩

end Sys2Proof.Claims
end

section
/-! PROOFS. The noria's instructions (R280 to R297, R305 to R312). -/

namespace Sys2Proof.Machine
open Sys2Proof

/-! ## What reading names and the phase steps leave alone -/

theorem clearHeld_form (ns : List Name) (t : Thread) : t.clearHeld ns = { t with names := (t.clearHeld ns).names } := by
  induction ns generalizing t with
  | nil => rfl
  | cons n r ih =>
    have step : t.clearHeld (n :: r) = (match (t.name n).bind with
        | .flume h _ => t.setName n { t.name n with bind := .flume h none }
        | _ => t).clearHeld r := rfl
    rw [step, ih]
    split
    · rw [t.setName_form]
    · rfl

theorem popRunnels_form (ps : List (Nat × Nat)) (s : State) : ∃ rs, s.popRunnels ps = { s with runnels := rs } := by
  induction ps generalizing s with
  | nil => exact ⟨s.runnels, rfl⟩
  | cons p r ih =>
    obtain ⟨rs, h⟩ := ih (s.setRunnel p.1 p.2 (s.runnel p.1 p.2).tail)
    exact ⟨rs, h⟩

/-- Consuming what was read changes runnels and the names that hold elements (R160, R254). -/
theorem consume_form (s : State) (ns : List Name) :
    ∃ rs xs, s.consume ns = { s with runnels := rs, thr := { s.thr with names := xs } } := by
  obtain ⟨rs, h⟩ := popRunnels_form (s.popsOf s.cur.1 s.thr ns.eraseDups) s
  refine ⟨rs, (s.thr.clearHeld ns).names, ?_⟩
  unfold State.consume
  rw [h, State.modThr, clearHeld_form]

theorem landStores_only (s : State) (p : LateStore → Bool) : s.MemOnly (s.landStores p) := by
  unfold State.landStores
  split
  · exact State.MemOnly.refl s
  · exact State.MemOnly.trans (t := { s with late := s.late.filter (fun x => !p x) }) rfl
      (State.foldl_only _ (fun t (x : LateStore) => t.storePiece_only x.core x.piece x.bytes) _ _)

theorem releaseLines_only (s : State) (core : Nat) (sc : Scope) : s.MemOnly (s.releaseLines core sc) := by
  unfold State.releaseLines
  split
  · exact State.MemOnly.refl s
  · have lines := State.foldl_only (fun t x => State.writeBackLine t x) (fun t x => t.writeBackLine_only x)
    have partials := State.foldl_only (fun t p => State.pushPartial t p) (fun t p => t.pushPartial_only p)
    have slots := State.foldl_only (fun t p => State.pushRf t p) (fun t p => t.pushRf_only p)
    dsimp only
    split
    · exact (((lines _ _).trans (partials _ _)).trans (slots _ _)).trans (State.modMem_only _ _)
    · exact ((lines _ _).trans (partials _ _)).trans (slots _ _)

theorem release_only (s : State) (core : Nat) (sc : Scope) : s.MemOnly (s.release core sc) :=
  (landStores_only s _).trans (releaseLines_only _ core sc)

theorem acquire_only (s : State) (core : Nat) (sc : Scope) : s.MemOnly (s.acquire core sc) := by
  unfold State.acquire
  split
  · exact State.MemOnly.refl s
  · dsimp only
    split
    · exact (State.modMem_only _ _).trans (State.modMem_only _ _)
    · exact State.modMem_only _ _

/-- A token reads back as it was set (R268). -/
theorem tok_setTok (t : Thread) (k : Tok) {v : Nat} (hv : v < 4) : (t.setTok k.val v).tok k.val = v := by
  have hw := t.toks.isLt
  simp only [Thread.tok, Thread.setTok, setTok, BitVec.toNat_ofNat]
  generalize t.toks.toNat = w at hw ⊢
  fin_cases k <;> simp only [bits] <;> omega

@[simp] theorem retire_tok (t : Thread) (k : Nat) : t.retire.tok k = t.tok k := by simp only [Thread.tok, Thread.retire_toks]

@[simp] theorem retire_out (t : Thread) : t.retire.out = t.out := by rw [t.retire_form]

end Sys2Proof.Machine

namespace Sys2Proof.Claims
open Sys2Proof Sys2Proof.Machine

/-! ## Requests of the noria -/

/-- Behind other requests of its quad a request waits in its queue (R289). -/
theorem awaitNoria_behind {s : State} {rd : List Name} {d : Name} {op : NoriaOp} (h : s.queued s.myQuad ≠ []) :
    s.awaitNoria rd d op = .next ((s.nqPush op).2.park rd (.noria s.serial d)) := by
  have hne : (s.queued s.myQuad).isEmpty = false := by simpa using h
  unfold State.awaitNoria State.askNoria
  simp only [hne, Bool.false_eq_true, if_false]
  rfl

/-- A request that is taken at once leaves the turn with its core. -/
theorem atNoria_cur {s s2 : State} {rd : List Name} {d : Name} {op : NoriaOp} {e : NqEntry} (h : AtNoria s rd d op e s2) :
    s2.cur = s.cur := by
  obtain ⟨-, -, -, h4⟩ := h
  obtain ⟨rs, n, ps, hp⟩ := park_form (s.nqPush op).2 rd (.noria s.serial d)
  rw [h4, hp]
  rfl

theorem atNoria_releases {s s2 : State} {rd : List Name} {d : Name} {op : NoriaOp} {e : NqEntry} (h : AtNoria s rd d op e s2) :
    (s2.quad s.myQuad).releases = [] := by
  obtain ⟨-, h2, -, h4⟩ := h
  obtain ⟨rs, n, ps, hp⟩ := park_form (s.nqPush op).2 rd (.noria s.serial d)
  rw [h4, State.quad_setQuad, if_pos rfl, hp]
  exact h2

theorem atNoria_entry {s s2 : State} {rd : List Name} {d : Name} {op : NoriaOp} {e : NqEntry} (h : AtNoria s rd d op e s2) :
    e.op = op := by
  obtain ⟨-, -, rfl, -⟩ := h; rfl

/-- What a noria whose queues are empty makes of a request: the entry taken in the state that the claims name (R289, log 102). -/
theorem awaitNoria_taken {s s2 : State} {rd : List Name} {d : Name} {op : NoriaOp} {e : NqEntry} (h : AtNoria s rd d op e s2) :
    (∀ ts ss, op = .acquire ts ss → s.awaitNoria rd d op = .next (s2.acquireAt s.cur.1 e ts ss)) ∧
    (∀ ts ss, op = .release ts ss → s.awaitNoria rd d op =
      .next ((s2.setQuad s.myQuad { s2.quad s.myQuad with releases := [⟨s.cur.1, e⟩] }).tryRelease s.myQuad ⟨s.cur.1, e⟩)) ∧
    (∀ n handle pc maph, op = .register n handle pc maph → s.awaitNoria rd d op = .next (s2.registerAt s.cur.1 e n handle pc maph)) ∧
    (∀ tile on, op = .check tile on → (s2.quad s.myQuad).rowsIn = [] →
      s.awaitNoria rd d op = .next (s2.checkAt s.cur.1 e tile on)) := by
  have hop := atNoria_entry h
  have hrel := atNoria_releases h
  refine ⟨fun ts ss ho => ?_, fun ts ss ho => ?_, fun n handle pc maph ho => ?_, fun tile on ho hin => ?_⟩ <;>
    obtain ⟨y, hy, hk⟩ := awaitNoria_alone h (by simp only [QuadSt.canStart, hop, ho])
  · rw [hk]; simp only [State.takeEntry, hop, ho, hy]; rfl
  · rw [hk]
    simp only [hy, State.quad_setQuad, if_true] at hrel
    simp only [State.takeEntry, hop, ho, hy, State.quad_setQuad, if_true, State.setQuad_setQuad]
    rw [show ((y.quad (s.cur.1 / 4)).releases) = [] from hrel]
    rfl
  · rw [hk]; simp only [State.takeEntry, hop, ho, hy]; rfl
  · rw [hk]
    simp only [hy, State.quad_setQuad, if_true] at hin
    simp only [State.takeEntry, hop, ho, hy]
    rw [if_pos (by rw [show ((y.quad (s.cur.1 / 4)).rowsIn) = [] from hin]; rfl)]
    rfl

theorem exec_macq_ready {a : Name} {s s1 : State} (hr : NReady s { reads := ints [a] } s1) :
    exec (.macq a) s = if bits (s1.ext a) 12 52 ≠ 0 then s1.trap (matrixShape 4 (s1.ext a))
      else s1.awaitNoria [a] 63 (.acquire (wordTiles (s1.ext a)) (wordSlots (s1.ext a))) := by
  change execMacq a s = _
  rw [execMacq, noriaStep_ready hr, nqFull_false hr]
  rfl

theorem exec_mrel_ready {a : Name} {s s1 : State} (hr : NReady s { reads := ints [a] } s1) :
    exec (.mrel a) s = if bits (s1.ext a) 12 52 ≠ 0 then s1.trap (matrixShape 4 (s1.ext a))
      else s1.awaitNoria [a] 63 (.release (wordTiles (s1.ext a)) (wordSlots (s1.ext a))) := by
  change execMrel a s = _
  rw [execMrel, noriaStep_ready hr, nqFull_false hr]
  rfl

/-- MACQ's grant: every named resource is free and the charge allows them, or nothing is granted (R280, R311). -/
theorem acquireAt_granted {s : State} {core : Nat} {e : NqEntry} {ts ss : List Nat}
    (ht : ∀ i ∈ ts, ((s.quad (core / 4)).tile i).holder = none) (hs : ∀ i ∈ ss, ((s.quad (core / 4)).bslot i).holder = none)
    (hc : ts = [] ∧ ss = [] ∨ s.chargeFits e.ctx (16448 * ts.length + 4416 * ss.length) = true) :
    s.acquireAt core e ts ss = (s.setQuad (core / 4) ((s.quad (core / 4)).grant e.ctx e.recIx ts ss)).noriaZ core e true := by
  unfold State.acquireAt
  refine if_neg ?_
  have h1 : ts.any (fun i => ((s.quad (core / 4)).tile i).holder.isSome) = false := by simpa using ht
  have h2 : ss.any (fun i => ((s.quad (core / 4)).bslot i).holder.isSome) = false := by simpa using hs
  rw [h1, h2]
  rcases hc with ⟨rfl, rfl⟩ | hc
  · simp
  · simp [hc]

theorem acquireAt_refused {s : State} {core : Nat} {e : NqEntry} {ts ss : List Nat}
    (h : (∃ i ∈ ts, ((s.quad (core / 4)).tile i).holder ≠ none) ∨ (∃ i ∈ ss, ((s.quad (core / 4)).bslot i).holder ≠ none) ∨
      (ts ≠ [] ∨ ss ≠ []) ∧ s.chargeFits e.ctx (16448 * ts.length + 4416 * ss.length) = false) :
    s.acquireAt core e ts ss = s.noriaZ core e false := by
  unfold State.acquireAt
  refine if_pos ?_
  simp only [Bool.or_eq_true, List.any_eq_true, Option.isSome_iff_ne_none, Bool.and_eq_true, decide_eq_true_eq, Bool.not_eq_true']
  rcases h with h | h | h
  · exact .inl (.inl h)
  · exact .inl (.inr h)
  · exact .inr h

/-- With none of the named resources held there is nothing to give back (R311). -/
theorem release'_none_held {s : State} {core ctx k : Nat} {ts ss : List Nat}
    (ht : ∀ i ∈ ts, ((s.quad (core / 4)).tile i).holder ≠ some (ctx, k))
    (hs : ∀ i ∈ ss, ((s.quad (core / 4)).bslot i).holder ≠ some (ctx, k)) : s.release' core ctx k ts ss = some s := by
  have h1 : (s.quad (core / 4)).tilesOf ctx k ts = [] := List.filter_eq_nil_iff.2 (fun i hi => by simpa using ht i hi)
  have h2 : (s.quad (core / 4)).slotsOf ctx k ss = [] := List.filter_eq_nil_iff.2 (fun i hi => by simpa using hs i hi)
  simp only [State.release', h1, h2, List.isEmpty_nil, Bool.and_self, if_true]

theorem tryRelease_done {s s1 : State} {q : Nat} {l : LoadStep} {ts ss : List Nat} (ho : l.entry.op = .release ts ss)
    (h : s.release' l.core l.entry.ctx l.entry.recIx ts ss = some s1) : s.tryRelease q l =
      (s1.setQuad q { s1.quad q with releases := (s1.quad q).releases.erase l }).noriaAnswer l.core l.entry Thread.retire := by
  simp only [State.tryRelease, ho, h]

theorem tryRelease_waits {s : State} {q : Nat} {l : LoadStep} {ts ss : List Nat} (ho : l.entry.op = .release ts ss)
    (h : s.release' l.core l.entry.ctx l.entry.recIx ts ss = none) : s.tryRelease q l = s := by
  simp only [State.tryRelease, ho, h]

/-- Z for the thread that made a request of its core's noria (R280, R292). -/
theorem noriaZ_eq {s : State} {core : Nat} (e : NqEntry) (z : Bool) (h : s.cur.1 = core) : s.noriaZ core e z = goOnZ s e.slot z := by
  subst h; rfl

theorem noriaResources : NoriaResources := by
  intro a s s1 s2 s3 e hr w ts ss q core
  refine ⟨fun hw => ⟨?_, ?_⟩, fun hw hq => ⟨?_, ?_⟩, fun hw hn => ⟨fun ht hs hc => ?_, fun h => ?_⟩, fun hw hn => ?_, fun hw hn => ?_⟩
  · rw [exec_macq_ready hr]; exact if_pos hw
  · rw [exec_mrel_ready hr]; exact if_pos hw
  · rw [exec_macq_ready hr, if_neg (not_not.2 hw)]; exact awaitNoria_behind hq
  · rw [exec_mrel_ready hr, if_neg (not_not.2 hw)]; exact awaitNoria_behind hq
  · rw [exec_macq_ready hr, if_neg (not_not.2 hw), (awaitNoria_taken hn).1 _ _ rfl, acquireAt_granted ht hs hc,
      noriaZ_eq e true (by rw [State.setQuad_cur, atNoria_cur hn])]
    rfl
  · rw [exec_macq_ready hr, if_neg (not_not.2 hw), (awaitNoria_taken hn).1 _ _ rfl, acquireAt_refused h,
      noriaZ_eq e false (by rw [atNoria_cur hn])]
  · intro l y ht hs
    have hq : y.quad q = { s2.quad q with releases := [l] } := by rw [State.quad_setQuad, if_pos rfl]
    have hrel : y.release' l.core l.entry.ctx l.entry.recIx ts ss = some y :=
      release'_none_held (by rw [show l.core / 4 = q from rfl, hq]; exact ht) (by rw [show l.core / 4 = q from rfl, hq]; exact hs)
    rw [exec_mrel_ready hr, if_neg (not_not.2 hw), (awaitNoria_taken hn).2.1 _ _ rfl,
      tryRelease_done (l := l) (atNoria_entry hn) hrel]
    have hl : (y.quad q).releases.erase l = [] := by rw [hq]; exact List.erase_cons_head ..
    change Host.Outcome.next ((y.setQuad q { y.quad q with releases := (y.quad q).releases.erase l }).noriaAnswer _ _ _) = _
    rw [hl]; rfl
  · intro l y
    rw [exec_mrel_ready hr, if_neg (not_not.2 hw), (awaitNoria_taken hn).2.1 _ _ rfl]
    refine ⟨fun h => ?_, fun h => ?_⟩
    · rw [tryRelease_done (l := l) (atNoria_entry hn) h]; rfl
    · rw [tryRelease_waits (l := l) (atNoria_entry hn) h]

/-! ## Steps -/

theorem mine_holder {s : State} {h : Option (Nat × Nat)} (hh : h = some (s.thr.ctx, s.thr.recIx)) : s.mine h = true := decide_eq_true hh

theorem mldb_step {a : VReg} {l : Look} {s s1 s2 s3 s4 : State} {pss : List (List Piece)} {es xs : List (List Byte)} {p1 p2 : Option Nat}
    (hr : NReady s { vreads := [a] } s1) (hf : (BDesc.ofNat (s1.thr.vreg a).data.toNat).fault = none)
    (hh : ((s1.quad s1.myQuad).bslot (BDesc.ofNat (s1.thr.vreg a).data.toNat).slot).holder = some (s1.thr.ctx, s1.thr.recIx))
    (h2 : s1.runPieces ((BDesc.ofNat (s1.thr.vreg a).data.toNat).elemRuns ++ (BDesc.ofNat (s1.thr.vreg a).data.toNat).pairRuns) =
      (.ok pss, s2))
    (h3 : s2.readRuns (decide ((BDesc.ofNat (s1.thr.vreg a).data.toNat).mode = 2))
      (pss.take (BDesc.ofNat (s1.thr.vreg a).data.toNat).elemRuns.length) = (es, p1, s3))
    (h4 : s3.readRuns false (pss.drop (BDesc.ofNat (s1.thr.vreg a).data.toNat).elemRuns.length) = (xs, p2, s4)) :
    exec (.mldb a l) s = .next ((s4.nqPush (.load (s1.thr.vreg a).data ((BDesc.ofNat (s1.thr.vreg a).data.toNat).codes es)
      ((BDesc.ofNat (s1.thr.vreg a).data.toNat).exps xs) (if p1.isSome then p1 else p2))).2.openWindow l.val Pending.none
        (.slotLoaded s1.myQuad (BDesc.ofNat (s1.thr.vreg a).data.toNat).slot)).retire := by
  change execMldb a l s = _
  rw [execMldb, noriaStep_ready hr]
  simp only [hf, mine_holder hh, nqFull_false hr, h2, h3, h4]
  rfl

/-- Completing an instruction that writes nothing leaves the cores and the tokens alone. -/
theorem after_none_frame (s : State) (rd : List Name) : (∀ c, (After s rd Pending.none).core c = s.core c) ∧
    (After s rd Pending.none).thr.out = s.thr.out ∧ ∀ k, (After s rd Pending.none).thr.tok k = s.thr.tok k := by
  obtain ⟨rs, xs, h⟩ := consume_form s rd
  unfold After
  rw [h]
  exact ⟨fun c => rfl, retire_out _, fun k => retire_tok _ k⟩

theorem finish_eq (s : State) (rd : List Name) (r : Pending) : s.finish rd r = .next (After s rd r) := rfl

theorem mmac_step {k : Tok} {a : VReg} {b : Name} {l : Look} {s s1 : State} (hr : NReady s { reads := ints [b], vreads := [a] } s1)
    (hv : (s1.core s1.cur.1).vq.length < 4) (ht : s1.rowTagFail (shapeSlot (s1.ext b)) (s1.thr.vreg a).tag = none)
    (hs : s1.shapeFail (s1.ext b) = none) (h1 : s1.thr.tok k.val ≠ 1) (h2 : s1.thr.tok k.val ≠ 2) :
    ∃ t, exec (.mmac k a b l) s = .next t ∧ t.thr.out = true ∧ t.thr.tok k.val = 1 ∧
      (t.core s1.cur.1).nq = (s1.core s1.cur.1).nq ++
        [⟨s1.serial, s1.cur.2, s1.thr.ctx, s1.thr.recIx, .row (s1.thr.vreg a) (s1.ext b) k.val false⟩] ∧
      (t.core s1.cur.1).vq = (s1.core s1.cur.1).vq ++ [.handoff s1.cur.2 s1.serial] := by
  have hroom : s1.vqFull = false := by simp only [State.vqFull, decide_eq_false_iff_not]; omega
  have hbusy : s1.thr.tokBusy k = false := decide_eq_false (fun h => h.elim h1 h2)
  change ∃ t, execMmac k a b l s = _ ∧ _
  rw [execMmac, guarded_ready hr.1]
  simp only [ht, hr.2.1, hs, hbusy, nqFull_false hr, hroom]
  refine ⟨_, finish_eq _ _ _, (after_none_frame _ _).2.1, ((after_none_frame _ _).2.2 _).trans (tok_setTok s1.thr k (by decide)),
    (congrArg CoreSt.nq ((after_none_frame _ _).1 _)).trans ?_, (congrArg CoreSt.vq ((after_none_frame _ _).1 _)).trans ?_⟩
  · refine (congrArg CoreSt.nq ((State.core_setCore _ _ _ _).trans (if_pos rfl))).trans ?_
    exact congrArg CoreSt.nq ((State.core_setCore _ _ _ _).trans (if_pos rfl))
  · refine (congrArg CoreSt.vq ((State.core_setCore _ _ _ _).trans (if_pos rfl))).trans ?_
    exact congrArg (fun c => CoreSt.vq c ++ [.handoff s1.cur.2 s1.serial]) ((State.core_setCore _ _ _ _).trans (if_pos rfl))

theorem mrun_step {d a b : Name} {s s1 s2 : State} (hn : mrunNames d a b = none)
    (hr : NReady s { reads := [(d, .u64), (a, .int), (b, .u64)], writes := [(d, .any), (a, .any), (b, .any)] } s1)
    (ha : 0 < s1.val a) (hs : s1.mrunStep (s1.upat d) (s1.upat b) = .ok s2) :
    exec (.mrun d a b) s =
      let s3 := s2.stepNames [(d, s1.pat d + 72), (a, BitVec.ofNat 64 (lowBits (s1.thr.name a).width (s1.val a - 1))),
        (b, s1.pat b + 2 ^ 11)]
      if s1.val a = 1 then s3.endSteps [d, a, b] [d, a, b] else s3.again := by
  change execMrun d a b s = _
  rw [execMrun, hn]
  dsimp only
  rw [noriaStep_ready hr, if_neg (by omega), nqFull_false hr, if_neg (by decide), hs]
  rfl

theorem noriaSteps : NoriaSteps := by
  refine ⟨fun a l s s1 s2 s3 s4 pss es xs p1 p2 hr => fun hf hh h2 h3 h4 => mldb_step hr hf hh h2 h3 h4,
    fun k a b l s s1 hr hv ht hs h1 h2 => mmac_step hr hv ht hs h1 h2, fun d a b s s1 s2 hn => ?_⟩
  intro u hr ha hs left s3
  rw [mrun_step hn hr ha hs]
  refine ⟨fun h => if_pos h, fun h hfree => (if_pos h).trans ?_, fun h => if_neg h⟩
  have hb (n : Name) (hn : n ∈ [d, a, b]) : (s3.thr.name n).bind = .none := (bind_of_unbound hfree).1 n hn
  exact endSteps_unbound hb hb

/-! ## Drains, checks and handlers -/

theorem mdrn_step {a b : Name} {l : Look} {s s1 : State} (hr : NReady s { reads := ints [a, b] } s1)
    (hz : bits (s1.ext a) 15 49 = 0) (hc : bits (s1.ext a) 8 7 ≠ 0) (hl : bits (s1.ext a) 2 6 + bits (s1.ext a) 8 7 ≤ 64)
    (hh : ((s1.quad s1.myQuad).tile (bits (s1.ext a) 0 2)).holder = some (s1.thr.ctx, s1.thr.recIx))
    (hn : (s1.core s1.cur.1).handler.isSome = true) :
    let x := (s1.release s1.cur.1 .core).nqPush
      (.drain (bits (s1.ext a) 0 2) (bits (s1.ext a) 2 6) (bits (s1.ext a) 8 7) (BitVec.ofNat 64 (s1.ext b)))
    exec (.mdrn a b l) s = .next ((x.2.consume [a, b]).openWindow l.val Pending.none (.drained x.1)).retire := by
  intro x
  have hnone : (s1.core s1.cur.1).handler.isNone = false := by rw [← Option.not_isSome, hn]; rfl
  change execMdrn a b l s = _
  rw [execMdrn, noriaStep_ready hr]
  simp only [hz, mine_holder hh, nqFull_false hr, hnone]
  rw [if_neg (fun h => h rfl), if_neg (fun h => h.elim hc (Nat.not_lt.2 hl))]
  rfl

theorem mchk_ready {d a : Name} {l : Look} {s s1 : State} (hr : NReady s (use2 d a) s1) (hz : bits (s1.ext a) 3 61 = 0)
    (hh : ((s1.quad s1.myQuad).tile (bits (s1.ext a) 0 2)).holder = some (s1.thr.ctx, s1.thr.recIx)) :
    exec (.mchk d a l) s = if s1.statusInWindow d l then
        .next (s1.askNoria (.check (bits (s1.ext a) 0 2) (bit1 (s1.ext a) 2))
          (fun id s => ((s.consume [a]).openWindow l.val (awaited d) (.count id d)).retire))
      else s1.awaitNoria [a] d (.check (bits (s1.ext a) 0 2) (bit1 (s1.ext a) 2)) := by
  change execMchk d a l s = _
  rw [execMchk, noriaStep_ready hr]
  simp only [hz, mine_holder hh, nqFull_false hr]
  rw [if_neg (fun h => h rfl)]
  rfl

theorem mhnd_ready {a b : Name} {s s1 : State} (hr : NReady s { reads := ints [a, b] } s1) :
    ((s1.val a < 0 ∨ 15 < s1.val a) → exec (.mhnd a b) s = .next (After s1 [a, b] (putZ false))) ∧
    (s1.val a = 0 → exec (.mhnd a b) s = s1.awaitNoria [a, b] 63 (.register 0 0 0 0)) ∧
    (∀ pc maph s3, 0 < s1.val a → s1.val a ≤ 15 → s1.readEntry (s1.ext b) = (.ok (pc, maph), s3) → exec (.mhnd a b) s =
      s3.awaitNoria [a, b] 63 (.register (s1.val a).toNat (BitVec.ofNat 64 (s1.ext b)) pc maph)) := by
  change (_ → execMhnd a b s = _) ∧ (_ → execMhnd a b s = _) ∧ (∀ pc maph s3, _ → _ → _ → execMhnd a b s = _)
  rw [execMhnd, noriaStep_ready hr]
  dsimp only
  rw [nqFull_false hr, if_neg (by decide)]
  refine ⟨fun h => if_pos h, fun h => ?_, fun pc maph s3 h0 h15 he => ?_⟩
  · rw [if_neg (by omega), if_pos h]
  · rw [if_neg (by omega), if_neg (by omega)]
    simp only [he]

/-- MHND with 0 at the noria: a registration that the thread holds is let go unless a handler of it runs (R292, R309). -/
theorem registerAt_zero {s : State} {core : Nat} {e : NqEntry} :
    (s.holdsHandler core e.ctx e.recIx = false → s.registerAt core e 0 0 0 0 = s.noriaZ core e true) ∧
    (s.holdsHandler core e.ctx e.recIx = true → s.handlersBusy core = false →
      s.registerAt core e 0 0 0 0 = (s.unregister core).noriaZ core e true) ∧
    (s.holdsHandler core e.ctx e.recIx = true → s.handlersBusy core = true → s.registerAt core e 0 0 0 0 = s.noriaZ core e false) := by
  refine ⟨fun h => ?_, fun h hb => ?_, fun h hb => ?_⟩
  · simp [State.registerAt, h]
  · simp [State.registerAt, h, hb]
  · simp [State.registerAt, h, hb]

theorem registerAt_made {s : State} {core : Nat} {e : NqEntry} {n : Nat} {handle pc maph : Word} (hn : 0 < n)
    (h : (s.core core).handler = none) (hf : n ≤ (s.freeSlots core).length) (hp : s.poolFits e.ctx n = true)
    (hc : s.chargeFits e.ctx 64 = true) : s.registerAt core e n handle pc maph =
      (s.registerHandler core (s.partyThread (.slot core e.slot)) n handle pc maph).noriaZ core e true := by
  unfold State.registerAt
  rw [if_neg (by omega), if_neg (by simp [h, hp, hc, Nat.not_lt.2 hf])]

theorem registerAt_refused {s : State} {core : Nat} {e : NqEntry} {n : Nat} {handle pc maph : Word} (hn : 0 < n)
    (h : (s.core core).handler ≠ none ∨ (s.freeSlots core).length < n ∨ s.poolFits e.ctx n = false ∨ s.chargeFits e.ctx 64 = false) :
    s.registerAt core e n handle pc maph = s.noriaZ core e false := by
  unfold State.registerAt
  rw [if_neg (by omega), if_pos ?_]
  simp only [Bool.or_eq_true, Option.isSome_iff_ne_none, decide_eq_true_eq, Bool.not_eq_true']
  rcases h with h | h | h | h
  · exact .inl (.inl (.inl h))
  · exact .inl (.inl (.inr h))
  · exact .inl (.inr h)
  · exact .inr h

theorem rowDone_thr (s : State) (core : Nat) (h : HandlerId) : (s.rowDone core h).thr = s.thr := (release_only s core .die).thr

theorem checkAt_waits {s : State} {core : Nat} {e : NqEntry} {tile n : Nat} {on : Bool} {d : Name}
    (hn : n = min (s.quad (core / 4)).mismatches (2 ^ 32 - 1))
    (hw : ((s.setQuad (core / 4) ((s.quad (core / 4)).modTile tile (fun t => { t with chk := on }))).partyThread
      (.slot core e.slot)).wait = some (.noria e.id d)) :
    s.checkAt core e tile on =
      ((s.setQuad (core / 4) ((s.quad (core / 4)).modTile tile (fun t => { t with chk := on }))).pushReceived (.slot core e.slot) d
        (fun _ => n)).completeParty (.slot core e.slot) none (Thread.receive d n true) := by
  simp only [State.checkAt, hw, if_true, hn]

theorem noriaHandlers : NoriaHandlers := by
  intro d a b l s s1 s2 s3 e pc maph core q
  refine ⟨fun hr => fun hz hc hl hh hn => mdrn_step hr hz hc hl hh hn, fun hr => ?_, fun hr => ⟨?_, fun h0 hn => ⟨fun h => ?_, fun h hb => ?_, fun h hb => ?_⟩, fun h0 h15 he hcur => ?_⟩,
    fun h hh hd => ?_, fun h hh hd => ?_, fun hh => ?_⟩
  · intro w tile op n hz hh
    refine ⟨fun hs hn hin => ?_, fun hs hq => ?_⟩
    · intro s4 hw
      rw [mchk_ready hr hz hh, if_neg (by simp [hs]), (awaitNoria_taken hn).2.2.2 _ _ rfl hin]
      exact congrArg Host.Outcome.next (checkAt_waits rfl hw)
    · have hne : (s1.queued s1.myQuad).isEmpty = false := by simpa using hq
      rw [mchk_ready hr hz hh, if_pos hs]
      simp only [State.askNoria, hne, Bool.false_eq_true, if_false]
      rfl
  · exact (mhnd_ready hr).1
  · rw [(mhnd_ready hr).2.1 h0, (awaitNoria_taken hn).2.2.1 _ _ _ _ rfl, registerAt_zero.1 h, noriaZ_eq e true (by rw [atNoria_cur hn])]
  · rw [(mhnd_ready hr).2.1 h0, (awaitNoria_taken hn).2.2.1 _ _ _ _ rfl, registerAt_zero.2.1 h hb,
      noriaZ_eq e true (by rw [unregister_cur, atNoria_cur hn])]
  · rw [(mhnd_ready hr).2.1 h0, (awaitNoria_taken hn).2.2.1 _ _ _ _ rfl, registerAt_zero.2.2 h hb, noriaZ_eq e false (by rw [atNoria_cur hn])]
  · intro n handle hn
    have hcore : s3.cur.1 = core := congrArg Prod.fst hcur
    have hpos : 0 < n := by omega
    rw [(mhnd_ready hr).2.2 pc maph s3 h0 h15 he, (awaitNoria_taken hn).2.2.1 _ _ _ _ rfl, hcore]
    refine ⟨fun h hf hp hc => ?_, fun h => ?_⟩
    · rw [registerAt_made hpos h hf hp hc, noriaZ_eq e true (by rw [registerHandler_cur, atNoria_cur hn, hcore])]
    · rw [registerAt_refused hpos h, noriaZ_eq e false (by rw [atNoria_cur hn, hcore])]
  · change execRdone s = _
    have hthr : (s.rowDone s.cur.1 h).thr.handlerDone = { (s.rowDone s.cur.1 h).thr with handler := some { h with done := true } } := by
      unfold Thread.handlerDone; rw [rowDone_thr, hh]; rfl
    simp only [execRdone, hh, hd, Bool.false_eq_true, if_false]
    exact congrArg (fun t => Host.Outcome.next (State.retire { s.rowDone s.cur.1 h with thr := t })) hthr
  · change execRdone s = _
    simp only [execRdone, hh, hd]; rfl
  · change execRdone s = _
    simp only [execRdone, hh]; rfl

/-- Settles O45: each instruction by its checks, and by what the noria makes of a request that it takes at once. -/
theorem noriaInstructions : Obligations.NoriaInstructions := ⟨noriaResources, noriaSteps, noriaHandlers⟩

end Sys2Proof.Claims
end

section
/-! PROOFS. Contexts, the error ring, time, offtakes and firmware expansions (R87, R331, R333, R338 to R349, R369 to R373). -/

namespace Sys2Proof.Claims
open Sys2Proof Sys2Proof.Machine

/-! ## Context commands -/

theorem exec_eq_command {i : Instr} {c : CtxCmd} {d a : Name} {w : Bool} (h : commandRow i = some (c, d, a, w)) (s : State) :
    exec i s = s.contextCommand c d a w := by
  unfold commandRow at h; split at h
  case h_4 => cases h
  all_goals (cases h; rfl)

theorem contextResult : ContextResult := by
  refine ⟨fun s s1 hq => ?_, fun i c d a wait s s1 s2 x r hi hr => ?_, fun d a act s s1 s2 x r hr hu hn => ?_⟩
  · change execCommit s = _
    simp only [execCommit, hq]; rfl
  · intro s0 hc
    have key : exec i s = if wait && decide (x = 0) then .next (s2.park [a] (.drain (s1.val a).toNat d))
        else s2.narrowAfter [a] d x (zStatus x) := by
      rw [exec_eq_command hi, State.contextCommand, guarded_ready hr]
      simp only [s0] at hc
      simp only [hc]
    refine ⟨fun hw hn => ?_, fun hw hx => ?_⟩
    · rw [key, if_neg (by rcases hw with h | h <;> simp [h])]
      exact narrowAfter_some hn
    · rw [key, if_pos (by simp [hw, hx])]
  · change execUnfreeze d a act s = _
    rw [execUnfreeze, guarded_ready hr]
    simp only [hu]
    exact narrowAfter_some hn

/-! ## The error ring, the timebase, SPILL -/

theorem systemResult : SystemResult := by
  intro d a b md s s1 s2 r x
  refine ⟨fun hr => ?_, fun hr => ⟨fun dev ht hn => ?_, fun ht hn => ?_⟩, fun hr => ⟨fun h hn => ?_, fun t h ht hp hq hw hn => ?_⟩⟩
  · intro n
    change (_ → _ → execErrpop d b s = _) ∧ (_ → _ → _ → (_ → execErrpop d b s = _))
    rw [execErrpop, guarded_ready hr]
    refine ⟨fun h0 hn => ?_, fun h0 hx hp hn => ?_⟩
    · refine (if_pos h0).trans ?_
      rw [show (s1.dev.errTail - s1.dev.errHead).toNat = 0 from h0]
      exact narrowAfter_some hn
    · refine (if_neg h0).trans ?_
      simp only [hx]
      rw [if_neg (by rcases hp with h | h <;> simp [h])]
      exact narrowAfter_some hn
  · change execDtset d a md s = _
    rw [execDtset, guarded_ready hr]
    simp only [ht]
    exact narrowAfter_some hn
  · change execDtset d a md s = _
    rw [execDtset, guarded_ready hr]
    simp only [ht]
    exact narrowAfter_some hn
  · change execSpill d a s = _
    rw [execSpill, guarded_ready hr]
    exact (if_pos h).trans (narrowAfter_some hn)
  · change execSpill d a s = _
    rw [execSpill, guarded_ready hr]
    refine (if_neg (by simp [h])).trans ?_
    simp only [ht, hp, hq, hw]
    exact narrowAfter_some hn

/-- Settles O46: each instruction by what its controller answers. -/
theorem contextsAndSystem : Obligations.ContextsAndSystem := ⟨contextResult, systemResult⟩

/-! ## Offtakes -/

/-- What a parked sender of an offtake is (R369). -/
theorem park_offtakes (s : State) (rd : List Name) (w : Wait) :
    (s.park rd w).offtakes = s.offtakes ∧ (s.park rd w).thr.wait = some w ∧ (s.park rd w).thr.retry = s.thr.retry ∧
      (s.park rd w).thr.reads = rd.eraseDups := by
  obtain ⟨rs, n, ps, e⟩ := park_form s rd w
  rw [e]; exact ⟨rfl, rfl, rfl, rfl⟩

/-- A state with one more offtake under way (R369). -/
def withOfftake (s : State) (p : List Word) : State :=
  { s with serial := s.serial + 1, offtakes := s.offtakes ++ [⟨s.serial, s.me, packetDev p, p⟩] }

/-- What a RINV does with a packet that its line has let out: the tail of `execRinv` (R369). -/
def rinvSends (reads : List Name) (d : Name) (l : Look) (p : List Word) (s : State) : Out :=
  if s.dev.unreachable (packetDev p) then s.narrowLongAfter l.val reads d 3
  else
    let (id, s2) := s.sendOfftake s.me p
    if s2.statusInWindow d l then ((s2.consume reads).openWindow l.val (awaited d) (.offtake id d)).done
    else .next (s2.park reads (.offtake id d))

/-- What a RINVW with its limit in `n` does with a packet: the tail of `execRinvw` (R370). -/
def rinvwSends (reads : List Name) (n d : Name) (p : List Word) (s : State) : Out :=
  if s.dev.unreachable (packetDev p) then s.narrowAfter reads d 3 id
  else
    let retry : Retry := ⟨1, decide (s.val n ≤ 0), p⟩
    let (id, s2) := s.sendOfftake s.me p
    .next ((s2.modThr (fun t => { t with retry := some retry })).park reads (.offtake id d))

theorem rinv_ready {d a : Name} {b : VReg} {l : Look} {s s1 : State} (ha : a.val ≤ 61) (hr : Ready s (rinvUse d a b []) s1) :
    exec (.rinv d a b l) s = if bits (s1.ext a) 26 38 ≠ 0 then s1.narrowLongAfter l.val [a, nextName a] d 2
      else rinvSends [a, nextName a] d l (s1.offtakePacket a b) (s1.releaseOfftake (s1.offtakePacket a b)) := by
  unfold exec execRinv
  exact (if_neg (Nat.not_lt.2 ha)).trans (guarded_ready hr)

theorem rinvw_ready {d a : Name} {b : VReg} {s s1 : State} (ha : a.val ≤ 60)
    (hr : Ready s (rinvUse d a b [nextName (nextName a)]) s1) :
    exec (.rinvw d a b) s = if bits (s1.ext a) 26 38 ≠ 0 then s1.narrowAfter [a, nextName a, nextName (nextName a)] d 2 id
      else rinvwSends [a, nextName a, nextName (nextName a)] (nextName (nextName a)) d (s1.offtakePacket a b)
        (s1.releaseOfftake (s1.offtakePacket a b)) := by
  unfold exec execRinvw
  exact (if_neg (Nat.not_lt.2 ha)).trans (guarded_ready hr)

section
variable {reads : List Name} {d n : Name} {l : Look} {p : List Word} {s : State} {r : Narrowed}

theorem rinvSends_unreachable (hu : s.dev.unreachable (packetDev p) = true) :
    rinvSends reads d l p s = s.narrowLongAfter l.val reads d 3 := if_pos hu

theorem rinvSends_inWindow (hu : s.dev.unreachable (packetDev p) = false) (hs : s.statusInWindow d l = true) :
    rinvSends reads d l p s =
      .next (((withOfftake s p).consume reads).openWindow l.val (awaited d) (.offtake s.serial d)).retire :=
  (if_neg (Bool.eq_false_iff.1 hu)).trans (if_pos hs)

theorem rinvSends_parks (hu : s.dev.unreachable (packetDev p) = false) (hs : s.statusInWindow d l = false) :
    rinvSends reads d l p s = .next ((withOfftake s p).park reads (.offtake s.serial d)) :=
  (if_neg (Bool.eq_false_iff.1 hu)).trans (if_neg (Bool.eq_false_iff.1 hs))

theorem rinvwSends_unreachable (hu : s.dev.unreachable (packetDev p) = true) :
    rinvwSends reads n d p s = s.narrowAfter reads d 3 id := if_pos hu

theorem rinvwSends_parks (hu : s.dev.unreachable (packetDev p) = false) :
    rinvwSends reads n d p s = .next (((withOfftake s p).modThr (fun t => { t with
      retry := some ⟨1, decide (s.val n ≤ 0), p⟩ })).park reads (.offtake s.serial d)) :=
  if_neg (Bool.eq_false_iff.1 hu)

end

theorem remoteAndTime : RemoteAndTime := by
  intro d a b l item s s1 s2 r x look n1 n2
  refine ⟨fun ha hr => ?_, fun ha hr => ?_, fun hr hx hn => ?_, fun hr hn => ?_, fun hr => ⟨fun ht hn => ?_, fun ht => ?_⟩⟩
  · rw [rinv_ready ha hr]
    refine ⟨fun hz hn => (if_pos hz).trans (narrowLongAfter_some hn), fun hz => ?_⟩
    rw [if_neg (not_not.2 hz)]
    refine ⟨fun hu hn => (rinvSends_unreachable hu).trans (narrowLongAfter_some hn), fun hu hs => ?_,
      fun hu hs => rinvSends_inWindow hu hs⟩
    obtain ⟨ho, hw, -⟩ := park_offtakes (withOfftake (s1.releaseOfftake (s1.offtakePacket a b)) (s1.offtakePacket a b))
      [a, nextName a] (.offtake (s1.releaseOfftake (s1.offtakePacket a b)).serial d)
    exact ⟨_, rinvSends_parks hu hs, ho, hw⟩
  · rw [rinvw_ready ha hr]
    refine ⟨fun hz hn => (if_pos hz).trans (narrowAfter_some hn), fun hz => ?_⟩
    rw [if_neg (not_not.2 hz)]
    exact ⟨fun hu hn => (rinvwSends_unreachable hu).trans (narrowAfter_some hn),
      fun hu => ⟨_, rinvwSends_parks hu, park_offtakes _ _ _⟩⟩
  · change execRstat d a item l s = _
    rw [execRstat]
    refine (guarded_ready hr).trans ?_
    simp only [hx]
    exact narrowLong_some hn
  · exact (guarded_ready hr).trans (narrowLong_some hn)
  · exact (guarded_ready hr).trans ((if_pos ht).trans (narrowInto_some hn))
  · exact (guarded_ready hr).trans (if_neg (Nat.not_le.2 ht))

/-! ## Expansions -/

theorem expansionResult : ExpansionResult := by
  intro m x s
  refine ⟨fun h => if_neg (by simp [h]), fun h => ?_⟩
  intro e k j s1 s2 s3 s4 ls f pc a x0 e1 hk
  have key : exec (.firmwareExpansion m x) s = (s.modThr (fun t => { t with exp := some e })).expansionStep e := if_pos h
  rw [key, State.expansionStep, hk]
  refine ⟨fun h0 hs hj => ?_, fun h0 hs => ?_, fun h1 hj ha hx => ?_, fun h2 hg => ?_⟩
  · subst h0
    simp only [State.endExpansion, hs, hj]
    refine ⟨fun h => ?_, fun h1 hrep hpc => ?_⟩
    · rw [if_neg]
      · rfl
      · rintro ⟨h1, h2⟩
        rcases h with h | h
        · exact h h1
        · rw [Option.isNone_iff_eq_none.1 h2] at h; cases h
    · rw [if_pos ⟨h1, by rw [hrep]; rfl⟩]
      simp only [hpc]
  · subst h0
    simp only [State.endExpansion, hs]; rfl
  · subst h1
    simp only [State.failExpansion, hj, ha, hx]; rfl
  · match k, h2 with
    | n + 2, _ =>
      simp only at hg ⊢
      simp only [hg]; rfl

/-- Settles O47: offtakes by the checks of their packet and the reach of its device, an expansion by the step that is chosen. -/
theorem remoteTimeExpansion : Obligations.RemoteTimeExpansion := ⟨remoteAndTime, expansionResult⟩

end Sys2Proof.Claims
end

section
/-! PROOFS. Words of the spec, short forms, and the machine after reset (R20, R80, R81, R83, R129, R318, R353). -/

namespace Sys2Proof.Claims
open Sys2Proof Sys2Proof.Machine

/-- Settles O60: each word is decoded. -/
theorem tableWords : Obligations.TableWords := by
  refine ⟨?_, ?_, ?_, ?_, ?_, ?_, ?_, ?_, ?_, ?_, ?_, ?_, ?_, ?_, ?_⟩ <;> decide

/-- A word of the short miscellaneous format, by its 13 bits above the major (R81). -/
theorem decodeWord_misc16 (n : Nat) (h : n < 8192) : decodeWord (6 + 8 * n) =
    if n = 0 then .ok .nop else if n = 1 then .ok .yield16 else if n = 2 then .ok .quit16
    else if n = 3 then .ok .rdone else if n = 4 then .ok .fencei16 else .error .shortUnassigned := by
  have hc : fld (6 + 8 * n) 1 2 = 3 := by simp only [fld]; omega
  have hn : fld (6 + 8 * n) 3 13 = n := by simp only [fld]; omega
  rw [decodeWord, if_pos (by omega), decode16, if_neg (by omega), hc]
  simp only [decodeMisc, hn]
  match n with
  | 0 | 1 | 2 | 3 | 4 => rfl
  | n + 5 => simp

/-- A word of MOVIS, by its immediate and the bits above it (R81). -/
theorem decodeWord_movis (d : Fin 16) (imm high : Nat) (hi : imm < 128) (hh : high < 4) :
    decodeWord (4 + 8 * d.val + 128 * imm + 16384 * high) =
      if high = 0 then .ok (.movis d (if imm < 64 then imm else (imm : Int) - 128)) else .error .reservedField := by
  have hc : fld (4 + 8 * d.val + 128 * imm + 16384 * high) 1 2 = 2 := by simp only [fld]; omega
  have ht : fld (4 + 8 * d.val + 128 * imm + 16384 * high) 14 2 = high := by simp only [fld]; omega
  have hf : fld (4 + 8 * d.val + 128 * imm + 16384 * high) 7 7 = imm := by simp only [fld]; omega
  have hd : finAt 16 (by decide) (4 + 8 * d.val + 128 * imm + 16384 * high) 3 = d :=
    Fin.ext (by simp only [finAt]; omega)
  have hs : sfld (4 + 8 * d.val + 128 * imm + 16384 * high) 7 7 = if imm < 64 then (imm : Int) else (imm : Int) - 128 := by
    rw [sfld, hf]; rfl
  have hw : (Instr.movis d (if imm < 64 then (imm : Int) else (imm : Int) - 128)).wf = true := by
    simp only [Instr.wf, fitsS, decide_eq_true_eq]; split <;> omega
  rw [decodeWord, if_pos (by omega), decode16, if_neg (by omega), hc]
  simp only [decodeMovis, ht, hs, hd, checked, hw, if_true]

/-- Settles O48: a short form and its 32-bit form are executed by one operation; the words are decoded by their fields. -/
theorem shortForms : Obligations.ShortForms := by
  refine ⟨fun d b s => ?_, fun d imm s => rfl, decodeWord_movis, decodeWord_misc16, fun s => ⟨rfl, rfl, rfl, rfl⟩⟩
  · simp only [List.forall_mem_cons]
    refine ⟨rfl, rfl, rfl, rfl, rfl, rfl, rfl, rfl, rfl, rfl, rfl, rfl, rfl, rfl, rfl, rfl, rfl, rfl, rfl, rfl, rfl, rfl, rfl, rfl,
      rfl, rfl, rfl, rfl, rfl, rfl, rfl, ?_⟩
    intro p h; cases h

/-- No slot of a core is occupied after reset (R129). -/
theorem slot_reset (c i : Nat) : ((State.reset.core c).slot i).occ = .free := by
  show (List.getD _ i (⟨false, .free⟩ : Slot)).occ = .free
  rw [show (State.reset.core c).slots.toList = List.replicate 16 ⟨false, .free⟩ from rfl, List.getD_eq_getElem?_getD,
    List.getElem?_replicate]
  split <;> rfl

theorem threadAt_reset (c i : Nat) : State.reset.threadAt c i = none := by
  rw [State.threadAt, slot_reset]

theorem resetState : ResetState := by
  refine ⟨rfl, fun c i => threadAt_reset c i, rfl, fun c => ⟨rfl, rfl, fun i => slot_reset c i⟩, rfl, rfl, rfl, ?_, rfl, rfl, rfl, rfl, rfl, rfl, rfl, rfl,
    rfl, rfl, rfl, rfl, rfl, rfl, rfl, rfl, rfl, rfl⟩
  decide

/-- Settles O59: the fields of the reset state are what they are set to. -/
theorem resetStates : Obligations.ResetStates := ⟨resetState, rfl, rfl, rfl⟩

end Sys2Proof.Claims
end

section
/-! PROOFS. A step runs the decoded instruction: a core's cycle down to the issue of its slot's thread (R13, R22, R130). -/

namespace Sys2Proof.Machine
open Sys2Proof

section
variable {s s1 s2 s3 : State} {t : Thread} {w len : Nat} {ex : Exec}

/-- A cycle on the agenda, from the pick of R130 to the thread that issues. -/
theorem step_cycle {c i : Nat} {rest : List Turn} (hc : s.dev.clocksStopped = false) (ha : s.agenda = .run c :: rest)
    (hp : ({ s with agenda := rest } : State).pick c = some i)
    (hs : (({ s with agenda := rest } : State).cycleEnd c).switchTo c i = some s1) :
    step s = State.endStep true (s1.issue exec) := by
  unfold step
  rw [State.advance, ha]
  simp only [hc, Bool.false_and, Bool.false_eq_true, if_false, Turn.isCycle, State.turn, State.cycle, hp, State.runSlot, hs]

/-- A thread that may move and holds nothing issues, its late words landed and its due windows complete. -/
theorem issue_next (hr : s.hasRunning = true) (hm : s.thr.canMove = true) (hx : s.ctxRuns s.thr.ctx = true)
    (hp : (s.landSlotStores s.cur.1 s.cur.2).thr.pendTrap = none)
    (he : (s.landSlotStores s.cur.1 s.cur.2).thr.asyncErr = none)
    (hq : (s.landSlotStores s.cur.1 s.cur.2).thr.acq = none)
    (hl : (s.landSlotStores s.cur.1 s.cur.2).landDue = some s2) : s.issue ex = s2.issueNext ex := by
  rw [State.issue, if_neg (by simp [hr, hm, hx])]
  simp only [hp, he, hq, hl]

/-- An instruction match takes BREAKPOINT in place of the instruction (R20). -/
theorem issueNext_match (hrep : s.thr.rep = none)
    (hf : (s.modThr Thread.cover).fetchWord (s.modThr Thread.cover).thr (s.modThr Thread.cover).cur.1
      (s.modThr Thread.cover).thr.pc.toNat = (.ok (w, len), s3, t))
    (hn : ({ s3 with thr := t } : State).noTurn w = false) (hi : t.instrMatch = true) :
    s.issueNext ex = .next (({ s3 with thr := { t with ir := ⟨w, len, .absent⟩ } } : State).takeTrap (mkTrap .breakpoint 0 1 0)) := by
  rw [State.issueNext, hrep]
  simp only [hf, hn, hi, Bool.false_eq_true, if_false, if_true]
  rfl

/-- A word that decodes is executed (R13, R85). -/
theorem issueNext_ok {i : Instr} (hrep : s.thr.rep = none)
    (hf : (s.modThr Thread.cover).fetchWord (s.modThr Thread.cover).thr (s.modThr Thread.cover).cur.1
      (s.modThr Thread.cover).thr.pc.toNat = (.ok (w, len), s3, t))
    (hn : ({ s3 with thr := t } : State).noTurn w = false) (hi : t.instrMatch = false) (hd : decodeWord w = .ok i) :
    s.issueNext ex = ({ s3 with thr := t } : State).runDecoded ex w len i := by
  rw [State.issueNext, hrep]
  simp only [hf, hn, hi, hd, Bool.false_eq_true, if_false]

/-- A word that does not decode takes ILLEGAL_INSTRUCTION (R85). -/
theorem issueNext_illegal {e : DecodeError} (hrep : s.thr.rep = none)
    (hf : (s.modThr Thread.cover).fetchWord (s.modThr Thread.cover).thr (s.modThr Thread.cover).cur.1
      (s.modThr Thread.cover).thr.pc.toNat = (.ok (w, len), s3, t))
    (hn : ({ s3 with thr := t } : State).noTurn w = false) (hi : t.instrMatch = false) (hd : decodeWord w = .error e) :
    s.issueNext ex = .next (({ s3 with thr := { t with ir := ⟨w, len, .absent⟩ } } : State).takeTrap
      (mkTrap .illegalInstruction 0 0 0)) := by
  rw [State.issueNext, hrep]
  simp only [hf, hn, hi, hd, Bool.false_eq_true, if_false]
  rfl

/-- A fetch that fails takes its trap (R86). -/
theorem issueNext_fetchTrap {x : Trap} (hrep : s.thr.rep = none)
    (hf : (s.modThr Thread.cover).fetchWord (s.modThr Thread.cover).thr (s.modThr Thread.cover).cur.1
      (s.modThr Thread.cover).thr.pc.toNat = (.error x, s3, t)) :
    s.issueNext ex = .next (({ s3 with thr := t } : State).takeTrap x) := by
  rw [State.issueNext, hrep]
  simp only [hf]
  rfl

/-- An open repeat executes its iteration's word (R22). -/
theorem issueNext_repeat {r : RepCtx} {base i : Instr} (hrep : s.thr.rep = some r) (hn : s.noTurn r.inner = false)
    (hb : decodeWord r.inner = .ok base) (hi : decodeWord (iterWord base r.rword r.inner r.ilen r.iter).1 = .ok i) :
    s.issueNext ex = ex i { s with thr := { s.thr.startInstr with ir := ⟨r.inner, r.ilen, .absent⟩ } } := by
  rw [State.issueNext, hrep]
  simp only [State.iterate, hn, hb, Bool.false_eq_true, if_false]
  rw [hi]
  rfl

/-- A decoded instruction other than REP is executed at once. -/
theorem runDecoded_plain {i : Instr} (h : ∀ n d a b, i ≠ .rep n d a b) :
    s.runDecoded ex w len i = ex i (s.modThr (fun t => { t.startInstr with ir := ⟨w, len, .absent⟩ })) := by
  unfold State.runDecoded
  split
  · exact absurd rfl (h _ _ _ _)
  · rfl

/-- A decoded REP brings the word after it (R22, R103). -/
theorem runDecoded_rep {n d a b inner} {s4 : State} (h : s.fetchInner ((s.thr.pc.toNat + 2) % 2 ^ 64) = (inner, s4)) :
    s.runDecoded ex w len (.rep n d a b) =
      State.afterRep ex (ex (.rep n d a b) { s4 with thr := { s4.thr with ir := ⟨w, len, inner⟩ } }) := by
  unfold State.runDecoded
  simp only [h]
  rfl

end

/-- Settles O55: the cycle leads to the issue of the thread, which ends by what stands at its PC. -/
theorem stepRunsDecoded : Obligations.StepRunsDecoded := by
  intro s s1 s2 c i rest hc ha s0 hp hs hr hm hx u h1 h2 h3 hl v
  have key : step s = State.endStep true (s2.issueNext exec) := by
    rw [step_cycle hc ha hp hs, issue_next hr hm hx h1 h2 h3 hl]
  rw [key]
  refine ⟨fun w len s3 t hrep hf hn => ⟨fun hi => ?_, fun ins hi hd hne => ?_, fun n d a b inner s4 hi hd hin => ?_,
    fun e hi hd => ?_⟩, fun x s3 t hrep hf => ?_, fun r base ins hrep hn hb hi => ?_⟩
  · rw [issueNext_match hrep hf hn hi]
  · rw [issueNext_ok hrep hf hn hi hd, runDecoded_plain hne]; rfl
  · rw [issueNext_ok hrep hf hn hi hd, runDecoded_rep hin]
  · rw [issueNext_illegal hrep hf hn hi hd]
  · rw [issueNext_fetchTrap hrep hf]
  · rw [issueNext_repeat hrep hn hb hi]

end Sys2Proof.Machine
end

section
/-! PROOFS. What the engines do to threads and to memory (R17, R45, R139, R143, R160, R205, R230, R231, R316, R356, R360, R370, R373). -/

namespace Sys2Proof.Claims
open Sys2Proof Sys2Proof.Machine

section
variable {s s1 : State} {t : Thread} {c i k : Nat}

/-! ## Threads -/

/-- A window that awaits no answer completes (R17). -/
theorem longLatencyCompletion_done {e : InFlight} (ht : s.threadAt c i = some t) (he : t.inflight[k]? = some e)
    (ha : e.awaits = .nothing) :
    exec (.longLatencyCompletion c i k) s = .next ((s.landOne t e).1.putThread c i (s.landOne t e).2) := by
  change execLongLatencyCompletion c i k s = _
  rw [execLongLatencyCompletion, ht]
  simp only [he, InFlight.awaiting, ha, ne_eq, not_true_eq_false, decide_false, Bool.false_eq_true, if_false]

theorem repackOperation_empty (h : (s.core c).repackq = []) : exec (.repackOperation c) s = .next s := by
  change Host.Outcome.next (s.repackOne c) = _
  rw [State.repackOne, h]

theorem repackOperation_place {rest : List RepackOp} {j : Nat} (h : (s.core c).repackq = .place j :: rest) :
    exec (.repackOperation c) s = .next ((s.setCore c { s.core c with repackq := rest }).placeSpan c j []) := by
  change Host.Outcome.next (s.repackOne c) = _
  rw [State.repackOne, h]

/-- A spill is done if its thread still stands in the slot and may be spilled (R46). -/
theorem repackOperation_spill {rest : List RepackOp} {j ctx r : Nat} {u : Thread}
    (h : (s.core c).repackq = .spill j ctx r :: rest) (hu : s.threadAt c j = some u) :
    exec (.repackOperation c) s = .next (if u.ctx = ctx ∧ u.recIx = r ∧ s.spillable c u = true ∧ u.quiet = true
      then (s.setCore c { s.core c with repackq := rest }).spillSlot c j .die
      else s.setCore c { s.core c with repackq := rest }) := by
  change Host.Outcome.next (s.repackOne c) = _
  rw [State.repackOne, h]
  simp only [hu]

/-- A core takes the record whose turn it is (R141, R143). -/
theorem recordPlacement_takes {x r j : Nat} {own : Bool} (hc : s.dev.isCore c = true) (hn : s.nextTake c = some (x, own, r, j))
    (ho : own = true ∨ s.dieTaker x (s.dev.dieOf c) = some c) :
    exec (.recordPlacement c) s = .next (s.takeReady c j x own r) := by
  change execRecordPlacement c s = _
  rw [execRecordPlacement, if_pos hc, hn]
  exact if_pos (by rcases ho with h | h <;> simp [h])

/-- The spill of the thread that parked earliest is queued (R139). -/
theorem parkedThreadSpill_queues {j : Nat} {u : Thread} (hw : s.readyWaits c = true) (hf : s.freeSlotOf c = none)
    (he : s.earliestParked c = some (j, u)) (hq : u.quiet = true) (hn : RepackOp.spill j u.ctx u.recIx ∉ (s.core c).repackq) :
    exec (.parkedThreadSpill c) s =
      .next (s.setCore c { s.core c with repackq := (s.core c).repackq ++ [.spill j u.ctx u.recIx] }) := by
  change execParkedThreadSpill c s = _
  rw [execParkedThreadSpill, if_pos (by simp [hw, hf]), he]
  exact if_pos (by simp [hq, hn])

/-- A thread at its runnels (R160). -/
theorem runnelTransfer_wait {rs ws : List Name} (ht : s.threadAt c i = some t) (hw : t.wait = some (.runnel rs ws)) :
    exec (.runnelTransfer c i) s =
      (let v := (s.seenFrom c i t).clearForeign rs
      let s1 : State := { v with cur := s.cur, thr := s.thr }
      if v.runnelsReady rs ws then .next ((s1.putThread c i { t with wait := none }).unparkOrder c i) else .next s1) := by
  change execRunnelTransfer c i s = _
  rw [execRunnelTransfer, ht]
  simp only [hw]

/-- A held error is taken as a trap, its thread withdrawn first from its wait (R316). -/
theorem asyncErrorDelivery_takes {x : Trap} (ht : s.threadAt c i = some t) (hx : t.asyncErr = some x)
    (hd : t.deliverable = true) (hr : s.ctxRuns t.ctx = true) :
    let w := if t.wait.isSome then s.withdrawSlot c i t else (s, t)
    let p := ((w.1.landSlotStores c i).vectorDone c i).landAll { w.2 with asyncErr := none }
    let q := p.1.trapEntry c i p.2 (p.2.held { x with fetch := true })
    exec (.asyncErrorDelivery c i) s = .next (q.1.putThread c i q.2) := by
  intro w p q
  change execAsyncErrorDelivery c i s = _
  rw [execAsyncErrorDelivery, ht]
  simp only [hx]
  exact if_pos (by simp [hd, hr])

/-- The wait for a time ends once it has come (R373). -/
theorem waittWake_ends {target : Nat} {d : Name} (ht : s.threadAt c i = some t) (hw : t.wait = some (.time target d))
    (hn : target ≤ s.dev.timebase.toNat) :
    exec (.waittWake c i) s = .next ((s.pushReceived (.slot c i) d (fun _ => s.dev.timebase.toNat)).completeParty (.slot c i) none
      (Thread.receive d s.dev.timebase.toNat false)) := by
  change execWaittWake c i s = _
  rw [execWaittWake, ht]
  simp only [hw]
  exact if_pos hn

/-- A RINVW whose limit has passed traps (R370). -/
theorem rinvwRetry_expired {d : Name} {r : Retry} (ht : s.threadAt c i = some t) (hw : t.wait = some (.retry d))
    (hr : t.retry = some r) :
    exec (.rinvwRetry c i true) s = .next (s.wakeParty (.slot c i) none
      (fun t => { t with retry := none, pendTrap := some (rinvwExpired r) })) := by
  change execRinvwRetry c i true s = _
  rw [execRinvwRetry, ht]
  simp only [hw, hr, if_true]

/-- A RINVW sends again after its pause (R370). -/
theorem rinvwRetry_sends {d : Name} {r : Retry} (ht : s.threadAt c i = some t) (hw : t.wait = some (.retry d))
    (hr : t.retry = some r) (hu : s.dev.unreachable (packetDev r.packet) = false) :
    let s1 : State := { s with serial := s.serial + 1, offtakes := s.offtakes ++ [⟨s.serial, .slot c i, packetDev r.packet, r.packet⟩] }
    exec (.rinvwRetry c i false) s = .next (s1.modThread c i (fun t =>
      { t with wait := some (.offtake s.serial d), retry := some { r with attempts := r.attempts + 1 } })) := by
  change execRinvwRetry c i false s = _
  rw [execRinvwRetry, ht]
  simp only [hw, hr, hu, Bool.false_eq_true, if_false]
  rfl

/-- The status of an offtake completes the instruction that waits for it (R360, R369). -/
theorem answerOfftake_completes {o : Offtake} {d : Name} {code : Nat} (ho : s.offtakes.find? (fun o => decide (o.id = k)) = some o)
    (hwho : o.who = .slot c i) (ht : s.threadAt c i = some t) (hw : t.wait = some (.offtake k d)) (hr : t.retry = none) :
    s.answerOfftake k code = ((({ s with offtakes := s.offtakes.filter (fun o => decide (o.id ≠ k)) } : State).pushReceived
      (.slot c i) d (fun _ => code)).completeParty (.slot c i) none (Thread.receive d code true)) := by
  have ht1 : ({ s with offtakes := s.offtakes.filter (fun o => decide (o.id ≠ k)) } : State).threadAt c i = some t := ht
  rw [State.answerOfftake, ho]
  simp only [hwho]
  rw [ht1]
  simp only [hw, if_true, State.statusAt, hr]

/-- The limit of a waiting transfer passes: the transfer is withdrawn, or its flume is corrupt (R231). -/
theorem flumeWaitExpiry_found {fcb : Nat} {w : FlumeWaiter}
    (hk : (s.flumeWaits.filter (fun w => decide (w.fcb = fcb) && w.limited))[k]? = some w) :
    exec (.flumeWaitExpiry fcb k) s = .next (s.flumeExpire w) := by
  change execFlumeWaitExpiry fcb k s = _
  rw [execFlumeWaitExpiry, hk]

end

/-- Settles O49: each event by the thread, the queue or the wait that it finds. -/
theorem threadEvents : Obligations.ThreadEvents := by
  intro c i k s t ht who
  refine ⟨fun e he ha => longLatencyCompletion_done ht he ha, repackOperation_empty, fun op rest hq => ?_,
    fun x own r j hc hn ho => recordPlacement_takes hc hn ho, fun j u hw hf he hq hn => parkedThreadSpill_queues hw hf he hq hn,
    fun rs ws hw => ?_, fun x hx hd hr => asyncErrorDelivery_takes ht hx hd hr, fun target d hw hn => waittWake_ends ht hw hn,
    fun d r hw hr => ⟨rinvwRetry_expired ht hw hr, fun hu => rinvwRetry_sends ht hw hr hu⟩, rfl, fun o d ho hwho hw hr => ?_,
    fun fcb w s1 x hk hx => ?_⟩
  · refine ⟨fun j hop => ?_, fun j ctx r u hop hu => ?_⟩
    · exact repackOperation_place (hop ▸ hq)
    · rw [repackOperation_spill (hop ▸ hq) hu]
      exact ⟨fun h => congrArg Host.Outcome.next (if_pos h), fun h => congrArg Host.Outcome.next (if_neg h)⟩
  · rw [runnelTransfer_wait ht hw]
    exact ⟨fun h => if_pos h, fun h => if_neg (Bool.eq_false_iff.1 h)⟩
  · exact congrArg Host.Outcome.next (answerOfftake_completes ho hwho ht hw hr)
  · rw [flumeWaitExpiry_found hk, State.flumeExpire, hx]
    exact ⟨fun h tl e => by rw [e], fun e => by rw [e]⟩


/-! ## Requests at the ports (R323, R355) -/

section
variable {s s1 s2 : State} {p addr n ctx fcb : Nat} {wr : Bool} {req : HeldReq} {k : State → State}

/-- A request that a window of an open port takes is performed (R355). -/
theorem atPort_taken (hu : s.dev.portUp p = true) (hf : s.dev.fabnum ≠ 4095) (hz : s.frozenMaster (.aqueduct p) = none)
    (ht : s.dev.portTakes p addr n ctx wr = true) : s.atPort p addr n ctx wr req k = k s := by
  rw [State.atPort, if_neg (by simp [hu, hf]), hz]
  exact if_pos ht

/-- A request that no window takes freezes its port (R355). -/
theorem atPort_freezes (hu : s.dev.portUp p = true) (hf : s.dev.fabnum ≠ 4095) (hz : s.frozenMaster (.aqueduct p) = none)
    (ht : s.dev.portTakes p addr n ctx wr = false) :
    s.atPort p addr n ctx wr req k = s.freezeMaster (.aqueduct p) (portMaster p) req ctx addr 5 0 := by
  rw [State.atPort, if_neg (by simp [hu, hf]), hz]
  exact if_neg (Bool.eq_false_iff.1 ht)

/-- A request at a frozen port is held (R323). -/
theorem atPort_held (hu : s.dev.portUp p = true) (hf : s.dev.fabnum ≠ 4095) (hz : s.frozenMaster (.aqueduct p) ≠ none) :
    s.atPort p addr n ctx wr req k = s.holdRequest (.aqueduct p) req := by
  rw [State.atPort, if_neg (by simp [hu, hf]), if_pos (Option.isSome_iff_ne_none.2 hz)]

variable {r : FlumeReq} {f : Fcb} {o : FlumeOut} {enq : Bool}

/-- Another party's transfer at an open control block: done, left undone, or left waiting (R356). -/
theorem outsideFlume_open (hl : s.localFcb fcb = true) (hw : r.form ≠ .withdraw)
    (hs : enq = true → sizeCode r.elem.length = some r.size)
    (ho : s.fcbOpen outsideDie fcb r.rctx (some r.size) = (.ok f, s1))
    (he : (if enq then s1.flumeEnq outsideDie fcb f r.elem else s1.flumeDeq outsideDie fcb f) = (o, s2)) :
    ((o ≠ .wait ∨ r.form = .nowait) → s.outsideFlume fcb enq r = s2) ∧
    (o = .wait → r.form ≠ .nowait → s.outsideFlume fcb enq r = s2.flumeWait f (flumeWaiter r f fcb enq)) := by
  rw [State.outsideFlume, if_neg (by simp [hl]), if_neg hw, if_neg (by intro h; simp at h; exact h.2 (hs h.1)), ho]
  dsimp only
  rw [he]
  refine ⟨fun h => ?_, fun h hn => by subst h; exact if_neg hn⟩
  cases o with
  | wait => exact if_pos (h.resolve_left (not_not.2 rfl))
  | done e => rfl
  | full => rfl

/-- Another party withdraws its waiting transfer (R328). -/
theorem outsideFlume_withdraws {w : FlumeWaiter} (hl : s.localFcb fcb = true) (hw : r.form = .withdraw)
    (hf : s.flumeWaits.find? (fun w => decide (w.fcb = fcb ∧ w.enq = enq ∧ w.who = .remote r.who ∧ w.rctx = r.rctx)) = some w) :
    s.outsideFlume fcb enq r = (s.flumeWithdraw w).2 := by
  rw [State.outsideFlume, if_neg (by simp [hl]), if_pos hw, hf]
  rfl

end

/-! ## The invalidate command (R200, R385) -/

/-- A device register holds the 64 bits that were stored. -/
theorem reg_setReg (s : State) (off v : Nat) : (s.setReg off v).dev.reg off = v % 2 ^ 64 := by
  show (getK _ off (setK off (BitVec.ofNat 64 v) s.dev.regs) : Word).toNat = _
  rw [getK_setK, if_pos rfl, BitVec.toNat_ofNat]

theorem startInvalidate_idle {s : State} (h : s.dev.tlbBusy = false) (cmd : Nat) : s.startInvalidate cmd =
    s.modDev (fun d => { d with tlbBusy := true, tlbCmd := BitVec.ofNat 64 cmd, tlbPage := d.reg 0x28 }) :=
  if_neg (Bool.eq_false_iff.1 h)

theorem pageBits_lt (va : Nat) : pageBits va < 2 ^ 64 := by
  have : bits va 16 41 < 2 ^ 41 := Nat.mod_lt _ (by decide)
  unfold pageBits; omega

/-- Settles O50: each event by the port, the control block or the table that it finds. -/
theorem memoryEvents : Obligations.MemoryEvents := by
  intro s s1 s2 c line die block fcb ctx va p h req f o
  refine ⟨rfl, fun x hx hb => ?_, rfl, fun hp hu hf hz ht => ?_, fun hp hu hf hz ht => ?_, fun hb => ⟨?_, ?_, ?_⟩, fun hb => ?_⟩
  · change execL2SectorEviction die block s = _
    rw [execL2SectorEviction, hx]
    simp only [hb, List.isEmpty_nil, if_true]
  · have key (enq : Bool) : s.flumeRequest fcb enq req = s.outsideFlume fcb enq req := by
      rw [State.flumeRequest, hp]
      exact atPort_taken hu hf hz ht
    have henq : exec (.flumeEnqueueOperation fcb req) s = .next (s.outsideFlume fcb true req) := congrArg _ (key true)
    have hdeq : exec (.flumeDequeueOperation fcb req) s = .next (s.outsideFlume fcb false req) := congrArg _ (key false)
    refine ⟨fun hs hl hw ho he => ?_, fun hl hw ho he => ?_, fun enq w hl hw hfind => ?_⟩
    · obtain ⟨h1, h2⟩ := outsideFlume_open (enq := true) hl hw (fun _ => hs) ho he
      rw [henq]
      exact ⟨fun h => congrArg _ (h1 h), fun h hn => congrArg _ (h2 h hn)⟩
    · obtain ⟨h1, h2⟩ := outsideFlume_open (enq := false) hl hw (fun h => Bool.noConfusion h) ho he
      rw [hdeq]
      exact ⟨fun h => congrArg _ (h1 h), fun h hn => congrArg _ (h2 h hn)⟩
    · cases enq with
      | true => exact henq.trans (congrArg _ (outsideFlume_withdraws hl hw hfind))
      | false => exact hdeq.trans (congrArg _ (outsideFlume_withdraws hl hw hfind))
  · have key (enq : Bool) : s.flumeRequest fcb enq req =
        s.freezeMaster (.aqueduct p) (portMaster p) (.flume fcb enq req) req.rctx fcb 5 0 := by
      rw [State.flumeRequest, hp]
      exact atPort_freezes hu hf hz ht
    exact ⟨congrArg _ (key true), congrArg _ (key false)⟩
  · exact congrArg _ (startInvalidate_idle hb 0)
  · exact congrArg _ (startInvalidate_idle hb _)
  · refine ⟨_, congrArg Host.Outcome.next (startInvalidate_idle (s := s.setReg 0x28 (pageBits va)) hb _), rfl, rfl, rfl, ?_⟩
    exact (reg_setReg s 0x28 (pageBits va)).trans (Nat.mod_eq_of_lt (pageBits_lt va))
  · exact ⟨_, if_pos hb, rfl, rfl, rfl⟩

end Sys2Proof.Claims
end

section
/-! PROOFS. Steps of the copy engines and of collectives (R258, R261 to R268, R323, R363 to R365). -/

namespace Sys2Proof.Claims
open Sys2Proof Sys2Proof.Machine

section
variable {s : State} {p : Packet} {id : Nat}

theorem copyPacketDequeue_next {base entry fcb : Nat} {coll : Bool} (he : entry < 256) (hb : base ∈ s.dev.stacksUp)
    (hn : s.nextEntry base = some entry) (hc : s.cftEntry base entry = some (fcb, coll)) :
    exec (.copyPacketDequeue base entry) s = .next { s.dequeuePacket base entry fcb coll with
      copyPtr := setK base ((entry + 1) % 256) (s.dequeuePacket base entry fcb coll).copyPtr } := by
  change execCopyPacketDequeue base entry s = _
  rw [execCopyPacketDequeue, if_pos ⟨he, hb, hn⟩, hc]

theorem copyPacketNotBefore_due (hl : s.livePacket id = some p) (hp : p.phase = .held)
    (hn : s.dev.nbReached (PktEnd.ofNat p.data.toNat).nb = true) :
    exec (.copyPacketNotBefore id) s = .next (s.setPacket { p with phase := .dequeued }) := by
  change execCopyPacketNotBefore id s = _
  rw [execCopyPacketNotBefore, hl]
  exact if_pos (by simp [hp, hn])

/-- A packet fails its checks, is carried out, or is held aside for its time (R261 to R263). -/
theorem copyPacketExecute_dequeued (hl : s.livePacket id = some p) (hp : p.phase = .dequeued) (hc : p.collective = false) :
    (∀ e, (CopyPkt.ofNat p.data.toNat).fault = some e →
      exec (.copyPacketExecute id) s = .next (s.setPacket { p with phase := .executed, err := e })) ∧
    ((CopyPkt.ofNat p.data.toNat).fault = none →
      exec (.copyPacketExecute id) s = .next (if s.dev.nbReached (PktEnd.ofNat p.data.toNat).nb
        then s.runPacket p (CopyPkt.ofNat p.data.toNat) else s.setPacket { p with phase := .held })) := by
  change (∀ e, _ → execCopyPacketExecute id s = _) ∧ (_ → execCopyPacketExecute id s = _)
  rw [execCopyPacketExecute, hl]
  dsimp only
  rw [if_pos (by simp [hp, hc])]
  refine ⟨fun e he => ?_, fun he => ?_⟩
  · simp only [he]
  · simp only [he]
    split <;> rfl

/-- The first held update whose turn has come (R267). -/
theorem heldSeqUpdate_first {u : HeldUpdate} {e : Nat} {s1 : State} (hl : s.livePacket id = some p)
    (hu : p.updates.find? (fun u => !s.seqBlocked p.fcb p.pos p.ctx (CopyPkt.ofNat p.data.toNat).op u.addr.toNat u.bytes.length)
      = some u)
    (hc : s.copyUpdate (headworksMaster p.core) p.ctx (CopyPkt.ofNat p.data.toNat).op u.addr.toNat u.bytes = (e, s1)) :
    exec (.heldSeqUpdate id) s = .next (s1.setPacket (if e = 0 then { p with updates := p.updates.erase u }
      else { p with updates := [], err := if p.err = 0 then e else p.err })) := by
  change execHeldSeqUpdate id s = _
  rw [execHeldSeqUpdate, hl]
  simp only [hu, hc]

theorem srcEvent_executed (hl : s.livePacket id = some p) (hp : p.phase = .executed) :
    exec (.srcEvent id) s = .next ((s.setPacket { p with phase := .srcDone }).tokenEvent p 1 2) := by
  change execSrcEvent id s = _
  rw [execSrcEvent, hl]
  exact if_pos hp

theorem visEvent_srcDone (hl : s.livePacket id = some p) (hp : p.phase = .srcDone) (hu : p.updates = []) :
    exec (.visEvent id) s = .next (s.finishPacket p) := by
  change execVisEvent id s = _
  rw [execVisEvent, hl]
  exact if_pos ⟨hp, hu⟩

/-- A malformed packet of a collective fails by itself (R365). -/
theorem collectiveExecute_malformed {tag e : Nat} (hp : s.collPackets tag = [p]) (he : (CollPkt.ofNat p.data.toNat).fault = some e) :
    exec (.collectiveExecute tag []) s = .next (s.setPacket { p with phase := .executed, err := e }) := by
  change execCollectiveExecute tag [] s = _
  rw [execCollectiveExecute, hp]
  simp only [List.filterMap_cons, List.filterMap_nil, he, Option.map_some]
  rfl

/-- A collective whose packets stand, agree and have their routes, and of which every rank is there, is carried out (R365). -/
theorem collectiveExecute_formed {tag : Nat} {s1 s2 : State} {rest : List Packet} {remote : List RemoteRank} {rtab : List Nat}
    {ins : List (Packet × Except Nat (List Nat))} (hps : s.collPackets tag = p :: rest)
    (hq : ∀ q ∈ p :: rest, (CollPkt.ofNat q.data.toNat).fault = none ∧
      s.dev.nbReached (PktEnd.ofNat q.data.toNat).nb = true ∧
      (CollPkt.ofNat p.data.toNat).agrees (CollPkt.ofNat q.data.toNat) = true)
    (hr : ∀ r ∈ remote, r.agrees = true) (ht : s.collTables (p :: rest) = ((p :: rest).map (fun _ => .ok rtab), s1))
    (hroute : ∀ n ∈ rtab, n = s1.dev.fabnum ∨ (s1.dev.route n).isSome = true)
    (hf : s1.collFormed rtab ((p :: rest).map (fun q => (CollPkt.ofNat q.data.toNat).rank)) (remote.map (fun r => r.rank)) = true)
    (hi : s1.collInputs (p :: rest) = (ins, s2)) (hok : ∀ x ∈ ins, ∃ l, x.2 = .ok l) :
    exec (.collectiveExecute tag remote) s = .next (s2.collFinish (CollPkt.ofNat p.data.toNat)
      (collResult (CollPkt.ofNat p.data.toNat) (collInput (CollPkt.ofNat p.data.toNat) ins remote)) (p :: rest)) := by
  have hbad : (p :: rest).filterMap (fun p => ((CollPkt.ofNat p.data.toNat).fault).map (fun e => (p, e))) = [] :=
    List.filterMap_eq_nil_iff.2 (fun q h => by rw [(hq q h).1]; rfl)
  have hnb : (p :: rest).all (fun p => s.dev.nbReached (PktEnd.ofNat p.data.toNat).nb) = true :=
    List.all_eq_true.2 (fun q h => (hq q h).2.1)
  have hag : ((p :: rest).map (fun p => CollPkt.ofNat p.data.toNat)).all (CollPkt.ofNat p.data.toNat).agrees = true :=
    List.all_eq_true.2 (fun x h => by obtain ⟨q, hm, rfl⟩ := List.mem_map.1 h; exact (hq q hm).2.2)
  have hra : remote.all (fun r => r.agrees) = true := List.all_eq_true.2 hr
  have hro : rtab.any (fun n => decide (n ≠ s1.dev.fabnum) && (s1.dev.route n).isNone) = false :=
    List.any_eq_false.2 (fun n h => by rcases hroute n h with e | e <;> simp [e, Option.isSome_iff_ne_none.1])
  have herr : collErrors ins = [] := List.filterMap_eq_nil_iff.2 (fun x h => by obtain ⟨l, e⟩ := hok x h; rw [e])
  change execCollectiveExecute tag remote s = _
  rw [execCollectiveExecute, hps]
  dsimp only
  rw [hbad, if_neg (by decide), if_neg (by simp [hnb]), ht]
  rw [List.head?_map, List.head?_cons]
  dsimp only [Option.map_some]
  rw [if_neg, if_pos (by rw [List.map_map]; exact hf), State.collRun, hi]
  · simp only [herr, List.isEmpty_nil, if_true]
  · rw [hag, hra, hro]; simp

end

/-- Settles O51: each step by the phase of its packet, a collective by the checks of its packets. -/
theorem copyEvents : Obligations.CopyEvents := by
  refine ⟨fun id base entry tag s p hl => ⟨fun fcb coll he hb hn hc => copyPacketDequeue_next he hb hn hc,
    fun hp hn => copyPacketNotBefore_due hl hp hn, fun hp hc => copyPacketExecute_dequeued hl hp hc, fun u e s1 => ?_,
    fun hp => srcEvent_executed hl hp, fun hp hu => visEvent_srcDone hl hp hu, rfl,
    fun hp _ e he => collectiveExecute_malformed hp he⟩,
    fun tag s s1 s2 p rest remote rtab ins => fun hps hq hr ht hroute hf hi hok =>
      collectiveExecute_formed hps hq hr ht hroute hf hi hok⟩
  intro op hu hc
  rw [heldSeqUpdate_first hl hu hc]
  exact ⟨fun h => by rw [if_pos h], fun h => by rw [if_neg h]⟩

end Sys2Proof.Claims
end

section
/-! PROOFS. Steps of the noria and the vector unit (R153 to R156, R280 to R295). -/

namespace Sys2Proof.Claims
open Sys2Proof Sys2Proof.Machine

section
variable {s : State} {q k : Nat}

/-- With no release under way the noria takes the first head that can start (R289). -/
theorem noriaTurn_noReleases (h : (s.quad q).releases = []) : s.noriaTurn q = s.noriaTake q (rotation (s.quad q).lastNoria) := by
  rw [State.noriaTurn, h]; rfl

/-- The oldest row step is written (R287). -/
theorem rowWritten_oldest {r : RowStep} {rest : List RowStep} (h : (s.quad q).rowsIn = r :: rest) :
    let buf := if (s.quad q).abuf = some r.entry.id then none else (s.quad q).abuf
    exec (.rowWritten q) s = .next (((s.setQuad q { s.quad q with rowsIn := rest, abuf := buf }).writeRow q r.core r.entry
      r.slot).endChecks q rest.length) := by
  intro buf
  change execRowWritten q s = _
  rw [execRowWritten]
  simp only [h, buf]

/-- A slot is filled by its load (R290). -/
theorem slotLoaded_first {l : LoadStep} {rest : List LoadStep} {d : BDesc} (h : (s.quad q).loads = l :: rest)
    (hd : l.entry.op.loadDesc = some d) (hk : d.slot = k) :
    exec (.slotLoaded q k) s = .next ((s.setQuad q { s.quad q with loads := rest }).finishLoad q l) := by
  change execSlotLoaded q k s = _
  rw [execSlotLoaded]
  dsimp only
  rw [h, List.find?_cons_of_pos (by simp only [hd, hk, decide_true])]
  dsimp only
  rw [List.erase_cons_head]

/-- A row that nothing holds back is drained (R291). -/
theorem rowDrain_drains {d : DrainStep} {tile first count : Nat} {cookie : Word} (hk : (s.quad q).drains[k]? = some d)
    (hop : d.entry.op = .drain tile first count cookie) (hf : (s.quad q).rowInFlight tile (first + d.next) = false)
    (hd : ((s.quad q).tile tile).draining (first + d.next) = false)
    (hr : drainsReach ((s.quad q).drains.take k) tile (first + d.next) = false) :
    let r := ((s.quad q).tile tile).row (first + d.next)
    let out : DrainedRow := ⟨d.core, d.entry.ctx, d.entry.recIx, tile, first + d.next, r.status, r.vals, cookie⟩
    let left := if count ≤ d.next + 1 then (s.quad q).drains.eraseIdx k
      else (s.quad q).drains.set k { d with next := d.next + 1 }
    let s1 := s.setQuad q ({ s.quad q with drains := left, drained := (s.quad q).drained ++ [out] }.modTile tile
      (fun t => t.setRow { r with draining := true }))
    exec (.rowDrain q k) s = .next (if count ≤ d.next + 1 then s1.answer d.entry.ctx d.entry.recIx (.drained d.entry.id)
      else s1) := by
  intro r out left s1
  change execRowDrain q k s = _
  rw [execRowDrain]
  dsimp only
  rw [hk]
  dsimp only
  rw [hop]
  dsimp only
  rw [if_neg (by simp [hf, hd, hr])]
  by_cases hc : count ≤ d.next + 1
  · simp only [s1, left, out, r, hc, decide_true, if_true]
  · simp only [s1, left, out, r, hc, decide_false, Bool.false_eq_true, if_false]

/-- A drained row's handler is dispatched (R293). -/
theorem handlerDispatch_starts {r : DrainedRow} {h : HandlerReg} {i j : Nat} (hh : (s.core q).handler = some h)
    (hr : (s.quad (q / 4)).drained.find? (fun r => decide (r.core = q ∧ r.ctx = h.ctx)) = some r)
    (hc : s.ctxOn h.ctx q = true) (hi : h.slots.find? (fun i => decide (((s.core q).slot i).occ = .free)) = some i)
    (hj : s.idleRecord h = some j) :
    exec (.handlerDispatch q) s = .next ((s.setQuad (q / 4)
      { s.quad (q / 4) with drained := (s.quad (q / 4)).drained.erase r }).startHandler q i j h r) := by
  change execHandlerDispatch q s = _
  rw [execHandlerDispatch]
  dsimp only
  rw [hh]
  dsimp only
  rw [if_neg (by simp [hc]), hr, hi, hj]

end

/-- Settles O52: each step by the head of its queue. -/
theorem noriaEvents : Obligations.NoriaEvents := by
  intro q k s
  exact ⟨rfl, fun h => congrArg Host.Outcome.next (noriaTurn_noReleases h), rfl, fun r rest h => rowWritten_oldest h,
    fun l rest h ⟨d, hd, hk⟩ => slotLoaded_first h hd hk,
    fun d tile first count cookie hk hop hf hd hr => rowDrain_drains hk hop hf hd hr,
    fun r h i j hh hr hc hi hj => handlerDispatch_starts hh hr hc hi hj⟩

end Sys2Proof.Claims
end

section
/-! PROOFS. Steps of the schedulers and of the ports (R276, R278, R335, R352 to R366). -/

namespace Sys2Proof.Claims
open Sys2Proof Sys2Proof.Machine

section
variable {s s1 : State} {p k die ctx j : Nat}

/-! ## Schedulers -/

/-- A decrement reaches its record while the record's scheduler lives (R276). -/
theorem launchDecrement_arrives {d : Decrement} (hd : s.decrements[k]? = some d) (hs : s.dev.recordDie d.j ∉ s.dev.deadSched) :
    exec (.launchDecrement k) s = .next (({ s with decrements := s.decrements.eraseIdx k }).decrementAll d.ctx decrementBound
      [⟨d.j, ⟨d.basin.toNat, d.sys, d.master⟩⟩]) := by
  change execLaunchDecrement k s = _
  rw [execLaunchDecrement, hd]
  exact if_neg hs

/-- The head of a die's pending launches is taken once the records that it needs are free (R278). -/
theorem launchTake_takes {p : PendLaunch} (hs : die ∉ s.dev.deadSched) (hp : s.launchHead die = some p)
    (hf : s.poolFits p.ctx (s.launchSize p.ctx p.j) = true) : exec (.launchTake die) s = .next (s.takeLaunch p) := by
  change execLaunchTake die s = _
  rw [execLaunchTake, if_neg hs, hp]
  exact congrArg Host.Outcome.next (if_pos hf)

theorem launchEvents : LaunchEvents := by
  intro k die ctx j s
  refine ⟨fun d hd hs => launchDecrement_arrives hd hs, fun h1 h2 h3 h4 h5 => if_pos ⟨h1, h2, h3, h4, h5⟩,
    fun p hs hp hf => launchTake_takes hs hp hf, fun h1 h2 => ?_, fun h => if_pos h⟩
  change execSchedulerTakeOver die s = _
  rw [execSchedulerTakeOver, if_pos ⟨h1, h2⟩]

/-! ## Ports -/

/-- A request at the host port that a window takes is performed as that window's context, another freezes the port (R323). -/
theorem hostRequest_open {r : BusReq} (hz : s.frozenMaster .hostPort = none) (ht : ptrTag r.addr < 2) :
    (∀ c, s.dev.hostCtx r.addr (busLength r) (busWrites r.op) = some c →
      s.hostRequest r = s.busPerform { r with rctx := c } true) ∧
    (s.dev.hostCtx r.addr (busLength r) (busWrites r.op) = none →
      s.hostRequest r = s.freezeMaster .hostPort 2 (.bus r) 0 r.addr 4 0) := by
  rw [State.hostRequest]
  dsimp only
  rw [hz, if_neg (by decide), if_neg (Nat.not_le.2 ht)]
  exact ⟨fun c hc => by rw [hc], fun hc => by rw [hc]⟩

/-- An offtake of this device arrives, and its status returns at once (R360). -/
theorem offtakeArrival_own {a : Arrival} {o : Offtake} (hp : a.port = none) (ho : s.ownOfftake a.who = some o) :
    exec (.offtakeArrival a) s =
      .next ((s.checkOfftake o.packet).2.2.answerOfftake o.id (s.checkOfftake o.packet).1) := by
  change execOfftakeArrival a s = _
  rw [execOfftakeArrival, hp]
  dsimp only
  rw [ho]

/-- An only head that may be taken is the one that the dispatcher takes (R361). -/
theorem offtakeDispatch_single {h : Head} (hs : 0 ∉ s.dev.deadSched) (hh : (List.range 4).filterMap s.invocationHead = [h])
    (hr : s.packetRecord h.packet = some (ctx, j)) (he : s.eligible h = true) :
    (s.takeHead h = (true, s1) → exec .offtakeDispatch s = .next (s1.fireOfftake h.packet ctx j)) ∧
    (s.takeHead h = (false, s1) → exec .offtakeDispatch s = .next s1) := by
  have hf : [h].find? (fun h => (s.packetRecord h.packet).isNone) = none := by simp [hr]
  have hb : [h].filter s.eligible = [h] := by simp [he]
  change (_ → execOfftakeDispatch s = _) ∧ (_ → execOfftakeDispatch s = _)
  rw [execOfftakeDispatch, if_neg hs]
  dsimp only
  rw [hh, hf, hb]
  dsimp only [List.foldl_cons, List.foldl_nil]
  rw [hr]
  exact ⟨fun ht => by dsimp only; rw [ht], fun ht => by dsimp only; rw [ht]⟩

/-- A follower takes the time of a flit's sender (R366). -/
theorem timeSyncFlit_follows {time : Nat} {st : Bool} (hm : bit1 (s.dev.reg 0x60) 0 = false) (hn : s.dev.minimal = false) :
    ∃ t, exec (.timeSyncFlit time st) s = .next t ∧
      t.dev.follower = true ∧ t.dev.timebase = (if st then BitVec.ofNat 64 time else s.dev.timebase) ∧
      t.dev.timeOffset = (s.dev.timebase.toNat : Int) - (time % 2 ^ 64 : Nat) := by
  have e := choose_form s 400001
  refine ⟨_, if_neg (by simp [hm, hn]), rfl, ?_, rfl⟩
  show (if st then BitVec.ofNat 64 time else (s.choose 400001).2.dev.timebase) = _
  rw [e]

theorem fabricEvents : FabricEvents := by
  intro p time st r a s s1
  refine ⟨rfl, rfl, fun hu hf => ⟨fun hz => congrArg Host.Outcome.next (atPort_held hu hf hz), fun hz =>
      ⟨fun ht => congrArg Host.Outcome.next (atPort_taken hu hf hz ht), fun ht => congrArg Host.Outcome.next (atPort_freezes hu hf hz ht)⟩⟩,
    fun hz ht => ?_, fun hp => ?_, fun o hp ho => offtakeArrival_own hp ho,
    fun h ctx j hs hh hr he => offtakeDispatch_single hs hh hr he, fun h => if_pos h, rfl, rfl,
    fun hm hn => timeSyncFlit_follows hm hn, rfl⟩
  · obtain ⟨h1, h2⟩ := hostRequest_open hz ht
    exact ⟨fun c hc => congrArg Host.Outcome.next (h1 c hc), fun hc => congrArg Host.Outcome.next (h2 hc)⟩
  · change execOfftakeArrival a s = _
    rw [execOfftakeArrival, hp]

end

/-- Settles O53: each step by the die, the port or the flume that it finds. -/
theorem launchAndFabricEvents : Obligations.LaunchAndFabricEvents := ⟨launchEvents, fabricEvents⟩

end Sys2Proof.Claims
end

section
/-! PROOFS. Steps of the context controller, of code checks, of bring-up, of clocks and of device registers (R328, R330, R334,
R339, R375 to R386). -/

namespace Sys2Proof.Claims
open Sys2Proof Sys2Proof.Machine

section
variable {s s1 : State} {ctx k page object : Nat} {x : Ctx}

/-! ## Contexts and pages of code -/

/-- A drained context is saved (R328). -/
theorem contextDrained_saves (hx : s.ctxOf ctx = some x) (hr : x.rstate = 2) (he : s.enginesDone ctx = true)
    (ht : (s.residents ctx).all (fun p => p.2.2.drainable) = true) :
    exec (.contextDrained ctx) s = .next (s.finishDrain x) := by
  change execContextDrained ctx s = _
  rw [execContextDrained, hx]
  exact if_pos (by simp [hr, he, ht])

/-- A section that waits comes back (R330). -/
theorem quadStateRestore_returns {sec : SavedSec} (hx : s.ctxOf ctx = some x) (hk : x.sections[k]? = some sec) (hr : x.rstate = 1)
    (hs : s.restoreSection x sec = some s1) : exec (.quadStateRestore ctx k) s =
      .next (s1.modCtx ctx (fun y => { y with sections := y.sections.eraseIdx k })) := by
  change execQuadStateRestore ctx k s = _
  rw [execQuadStateRestore, hx]
  dsimp only
  rw [hk]
  dsimp only
  rw [if_pos hr, hs]

/-- The first check of a page of code (R334). -/
theorem codePageCheck_first {good : Bool} (hp : page % 65536 = 0) (hn : ∀ y ∈ s.dev.poisonedObjects, y.1 ≠ page) :
    exec (.codePageCheck page object good) s = .next (s.pageChecked page object good) := by
  change execCodePageCheck page object good s = _
  rw [execCodePageCheck, if_neg]
  rintro (h | h)
  · exact h hp
  · obtain ⟨y, hy, e⟩ := List.any_eq_true.1 h
    exact hn y hy (of_decide_eq_true e)

theorem contextEvents : ContextEvents := by
  intro ctx k q page object c s s1 x sec
  refine ⟨fun hx hr he ht => contextDrained_saves hx hr he ht, fun hx hk hr hs => quadStateRestore_returns hx hk hr hs,
    fun h => if_pos h, fun h => if_neg h, fun hp hn => ⟨codePageCheck_first hp hn, codePageCheck_first hp hn⟩,
    fun test hq hf => if_pos (by simp [hq, hf]), rfl⟩

end

/-! ## Starts -/

section
variable {s : State} {rep : BootReport}

/-- Counting the columns that failed changes the counters alone (R383). -/
theorem countColumns_form (d : Device) (fails : List (Nat × Nat)) :
    d.countColumns fails = { d with weakQuads := (d.countColumns fails).weakQuads } := by
  unfold Device.countColumns
  induction fails generalizing d with
  | nil => rfl
  | cons p rest ih =>
    rw [List.foldl_cons]
    refine (ih _).trans ?_
    split <;> rfl

/-- A start that may begin counts itself, then runs its stages (R375, R377). -/
theorem bootStart_begins (h0 : s.dev.bootState = 0) (h1 : s.dev.bootStage = 0) (hc : s.ctxs = []) :
    let min' := s.dev.bootMin || decide (3 ≤ s.dev.bootFails)
    let d1 := { s.dev with bootFails := min 255 (s.dev.bootFails + 1), bootMin := min', minimal := min', bootStage := 1 }
    (∀ e, ImageReport.reason rep.stage1 = some e → exec (.bootStart rep) s = .next { s with dev := d1.failStart e }) ∧
    (ImageReport.reason rep.stage1 = none →
      exec (.bootStart rep) s = .next { s with dev := Device.stage2 { d1 with bootStage := 2 } rep }) := by
  intro min' d1
  change (∀ e, _ → execBootStart rep s = _) ∧ (_ → execBootStart rep s = _)
  rw [execBootStart, if_neg (by simp [h0, h1, hc])]
  refine ⟨fun e he => ?_, fun he => ?_⟩ <;> simp only [State.modDev, he, d1, min']

/-- Stage 2 of a full start whose dies and stacks all report (R375). -/
theorem stage2_full {d : Device} (hi : rep.stage2.findSome? ImageReport.reason = none) (hm : d.minimal = false)
    (hd : rep.deadDies = []) (hs : rep.deadStacks = []) :
    ∃ w q, d.stage2 rep = { d with
      weakQuads := w, removedQuads := q, expansions := rep.expansions.filter (fun x => decide (x < 32))
      stacksUp := ((List.range 12).filter (fun i => decide (i ∉ rep.deadStacks))).filter (fun i => decide (i ∉ rep.deadBaseDies)) } := by
  rw [Device.stage2, hi]
  dsimp only
  rw [countColumns_form d rep.columnFails]
  dsimp only
  rw [hm, if_neg (by decide), hd, hs, if_neg (by decide), if_neg (by decide)]
  exact ⟨_, _, rfl⟩

/-- Stage 2 of a minimal start: one die and one stack (R379). -/
theorem stage2_minimal {d : Device} {i j : Nat} (hi : rep.stage2.findSome? ImageReport.reason = none) (hm : d.minimal = true)
    (hd : ((List.range 16).filter (fun i => decide (i ∉ rep.deadDies))).head? = some i)
    (hs : ((List.range 12).filter (fun i => decide (i ∉ rep.deadStacks))).head? = some j) :
    ∃ w q, d.stage2 rep = { d with
      weakQuads := w, removedQuads := q, expansions := rep.expansions.filter (fun x => decide (x < 32)), diesUp := [i]
      stacksUp := (((List.range 12).filter (fun i => decide (i ∉ rep.deadStacks))).filter (fun i =>
        decide (i ∉ rep.deadBaseDies))).filter (fun x => decide (x = j)) } := by
  rw [Device.stage2, hi]
  dsimp only
  rw [countColumns_form d rep.columnFails]
  dsimp only
  rw [hm, if_pos rfl, hd, hs]
  exact ⟨_, _, rfl⟩

/-- An image older than its minimum is rejected with reason 4 (R376). -/
theorem reason_old {r : ImageReport} (h : r = ⟨true, true, true, r.version, r.minimum⟩) (hv : r.version < r.minimum) :
    ImageReport.reason r = some 4 := by
  rw [h, ImageReport.reason]
  exact if_pos hv

/-- A start that power loss or a reset cuts off has failed with reason 10 (R378). -/
theorem cutStart_restart (h0 : s.dev.bootState = 0) (h1 : 1 ≤ s.dev.bootStage) :
    (s.modDev Device.cutStart).restart.dev.bootLast = 10 ∧ (s.modDev Device.cutStart).restart.dev.bootFails = s.dev.bootFails ∧
      (s.modDev Device.cutStart).restart.dev.bootState = 0 := by
  have e : s.dev.cutStart = { s.dev with bootLast := 0x0A } := if_pos ⟨h0, h1⟩
  refine ⟨?_, ?_, rfl⟩
  · show s.dev.cutStart.bootLast = 10
    rw [e]
  · show s.dev.cutStart.bootFails = s.dev.bootFails
    rw [e]

/-! ## Clocks and registers -/

theorem stepsUp_of {die : Nat} (hd : die ∈ s.dev.diesUp)
    (h : (5200 < s.dev.power ∧ die ∈ s.dev.powerDies) ∨
      ∃ t, s.dev.dieTemp die = some t ∧ 1680 ≤ t ∧ ∀ x ∈ s.dev.sensors, x.max.toInt ≤ t) : s.dev.stepsUp die = true := by
  rw [Device.stepsUp, decide_eq_true hd, Bool.true_and, Bool.or_eq_true]
  refine h.imp (fun ⟨h1, h2⟩ => by rw [decide_eq_true h1, decide_eq_true h2]; rfl) (fun ⟨t, ht, h1, h2⟩ => ?_)
  rw [ht, Option.any_some, decide_eq_true h1, Bool.true_and]
  exact List.all_eq_true.2 (fun x hx => decide_eq_true (h2 x hx))

theorem stepsDown_of {die : Nat} (hd : die ∈ s.dev.diesUp) (hp : s.dev.power < 5000) (ht : ∀ x ∈ s.dev.sensorTemps, x < 1600) :
    s.dev.stepsDown die = true := by
  rw [Device.stepsDown, decide_eq_true hd, decide_eq_true hp]
  exact List.all_eq_true.2 (fun x hx => decide_eq_true (ht x hx))

theorem shutsDown_of {b : Bool} (h1 : b = true → s.dev.rails ≠ []) (h0 : b = false → ∃ x ∈ s.dev.sensorTemps, 1920 ≤ x) :
    s.dev.shutsDown b = true := by
  cases b with
  | true => simp [Device.shutsDown, h1 rfl]
  | false =>
    obtain ⟨x, hx, h⟩ := h0 rfl
    exact List.any_eq_true.2 ⟨x, hx, decide_eq_true h⟩

/-- An RW* register takes no write while a context is resident; another register stores its value (R385). -/
theorem registerWrite_some {off o x : Nat} {v : Word} {star : Bool} (h : regWrite off v.toNat = some (o, x, star)) :
    s.registerWrite off v = if star && !s.ctxs.isEmpty then s else (s.setReg o x).regEffect o x := by
  rw [State.registerWrite, h]

/-- The host and the management interface reach every register (R323). -/
theorem agentWrite_outside {agent : Agent} {off : Nat} {v : BitVec 64} (h : agent = .host ∨ agent = .management) :
    exec (.deviceRegisterWrite ⟨agent, off⟩ v) s = .next (s.registerWrite off v) := by
  rcases h with rfl | rfl <;> rfl

theorem deviceEvents : DeviceEvents := by
  intro die off i j n v b rep agent s dies ups ready exps
  refine ⟨fun h0 h1 hc => ⟨fun hr hv => ?_, fun hr hi => ⟨fun hm hf hd hs => ?_, fun hm hd hs => ?_⟩⟩, fun hc => ?_,
    fun h0 h1 h2 => if_pos ⟨h0, h1, h2⟩, fun h0 h1 => ⟨if_pos ⟨h0, h1⟩, ⟨_, rfl, cutStart_restart h0 h1⟩, ⟨_, rfl, cutStart_restart h0 h1⟩⟩,
    rfl, fun hd h => if_pos (stepsUp_of hd h), fun h => if_neg (Bool.eq_false_iff.1 h),
    fun hd hp ht => if_pos (stepsDown_of hd hp ht), fun h => if_neg (Bool.eq_false_iff.1 h),
    fun h1 h0 => ⟨_, if_pos (shutsDown_of h1 h0), rfl, rfl, rfl⟩, fun h => if_neg (Bool.eq_false_iff.1 h), rfl,
    fun ha => ⟨fun o x hw hc => ?_, fun o x star hw hc => ?_⟩, fun hn hf => ⟨fun hm => ?_, fun hm => ?_⟩⟩
  · exact ⟨_, (bootStart_begins h0 h1 hc).1 4 (reason_old hr hv), rfl, rfl, rfl⟩
  · have hmin : (s.dev.bootMin || decide (3 ≤ s.dev.bootFails)) = false := by simp [hm]; omega
    obtain ⟨w, q, e⟩ := stage2_full (d := { s.dev with
      bootFails := min 255 (s.dev.bootFails + 1), bootMin := s.dev.bootMin || decide (3 ≤ s.dev.bootFails)
      minimal := s.dev.bootMin || decide (3 ≤ s.dev.bootFails), bootStage := 2 }) hi hmin hd hs
    refine ⟨_, (bootStart_begins h0 h1 hc).2 hr, ?_⟩
    dsimp only
    rw [e]
    exact ⟨h0, rfl, by show min 255 (s.dev.bootFails + 1) = _; omega, hmin, rfl, rfl, rfl, rfl⟩
  · have hmin : (s.dev.bootMin || decide (3 ≤ s.dev.bootFails)) = true := by simpa using hm
    obtain ⟨w, q, e⟩ := stage2_minimal (d := { s.dev with
      bootFails := min 255 (s.dev.bootFails + 1), bootMin := s.dev.bootMin || decide (3 ≤ s.dev.bootFails)
      minimal := s.dev.bootMin || decide (3 ≤ s.dev.bootFails), bootStage := 2 }) hi hmin hd hs
    refine ⟨_, (bootStart_begins h0 h1 hc).2 hr, ?_⟩
    dsimp only
    rw [e]
    exact ⟨h0, rfl, hmin, hmin, rfl, rfl, rfl, rfl⟩
  · exact if_pos (Or.inr (Or.inr (by simp [hc])))
  · refine (agentWrite_outside ha).trans (congrArg Host.Outcome.next ((registerWrite_some hw).trans (if_pos ?_)))
    simp [hc]
  · refine (agentWrite_outside ha).trans (congrArg Host.Outcome.next ((registerWrite_some hw).trans (if_neg ?_)))
    rcases hc with h | h <;> simp [h]
  · exact congrArg Host.Outcome.next ((if_neg (not_or.2 ⟨by omega, by rw [hf]; decide⟩)).trans (if_pos hm))
  · exact congrArg Host.Outcome.next ((if_neg (not_or.2 ⟨by omega, by rw [hf]; decide⟩)).trans (if_neg (Bool.eq_false_iff.1 hm)))

end

/-- Settles O54: each step by the start, the sensor, the register or the context that it finds. -/
theorem contextAndDeviceEvents : Obligations.ContextAndDeviceEvents := ⟨contextEvents, deviceEvents⟩

end Sys2Proof.Claims
end

section
/-! PROOFS. Memory keeps its one form through pointers, translation and the named operations (log 4). -/

namespace Sys2Proof.Machine
open Sys2Proof

theorem foldl_wf {β : Type} (f : State → β → State) (l : List β) (s : State)
    (h : ∀ t b, t.mem.wf = true → (f t b).mem.wf = true) (w : s.mem.wf = true) : (l.foldl f s).mem.wf = true := by
  induction l generalizing s with
  | nil => exact w
  | cons b l ih => exact ih _ (h _ _ w)

theorem foldl_fst_wf {α β : Type} (f : State × α → β → State × α) (l : List β) (p : State × α)
    (h : ∀ q b, q.1.mem.wf = true → (f q b).1.mem.wf = true) (w : p.1.mem.wf = true) : (l.foldl f p).1.mem.wf = true := by
  induction l generalizing p with
  | nil => exact w
  | cons b l ih => exact ih _ (h _ _ w)

theorem foldl_snd_wf {α β : Type} (f : α × State → β → α × State) (l : List β) (p : α × State)
    (h : ∀ q b, q.2.mem.wf = true → (f q b).2.mem.wf = true) (w : p.2.mem.wf = true) : (l.foldl f p).2.mem.wf = true := by
  induction l generalizing p with
  | nil => exact w
  | cons b l ih => exact ih _ (h _ _ w)

theorem foldl_thd_wf {α γ β : Type} (f : α × γ × State → β → α × γ × State) (l : List β) (p : α × γ × State)
    (h : ∀ q b, q.2.2.mem.wf = true → (f q b).2.2.mem.wf = true) (w : p.2.2.mem.wf = true) :
    (l.foldl f p).2.2.mem.wf = true := by
  induction l generalizing p with
  | nil => exact w
  | cons b l ih => exact ih _ (h _ _ w)

theorem foldl_wf_mem {β : Type} (f : State → β → State) (l : List β) (s : State)
    (h : ∀ t, ∀ b ∈ l, t.mem.wf = true → (f t b).mem.wf = true) (w : s.mem.wf = true) : (l.foldl f s).mem.wf = true := by
  induction l generalizing s with
  | nil => exact w
  | cons b l ih => exact ih _ (fun t x hx => h t x (List.mem_cons_of_mem _ hx)) (h _ b List.mem_cons_self w)

theorem Mem.foldl_wf {β : Type} (f : Mem → β → Mem) (l : List β) (m : Mem) (h : ∀ n b, n.wf = true → (f n b).wf = true)
    (w : m.wf = true) : (l.foldl f m).wf = true := by
  induction l generalizing m with
  | nil => exact w
  | cons b l ih => exact ih _ (h _ _ w)

theorem State.setCore_wf (s : State) (c : Nat) (v : CoreSt) (hw : s.mem.wf = true) : (s.setCore c v).mem.wf = true := hw

theorem State.putThread_wf (s : State) (c i : Nat) (t : Thread) (hw : s.mem.wf = true) : (s.putThread c i t).mem.wf = true := by
  unfold State.putThread
  grind -ring -linarith [State.setCore_wf]

theorem State.modThread_wf (s : State) (c i : Nat) (f : Thread → Thread) (hw : s.mem.wf = true) :
    (s.modThread c i f).mem.wf = true := by
  unfold State.modThread
  grind -ring -linarith [State.putThread_wf]

theorem State.setOcc_wf (s : State) (c i : Nat) (o : Occ) (hw : s.mem.wf = true) : (s.setOcc c i o).mem.wf = true := hw

theorem State.modThr_wf (s : State) (f : Thread → Thread) (hw : s.mem.wf = true) : (s.modThr f).mem.wf = true := hw

theorem State.setQuad_wf (s : State) (q : Nat) (v : QuadSt) (hw : s.mem.wf = true) : (s.setQuad q v).mem.wf = true := hw

theorem State.setCtx_wf (s : State) (x : Ctx) (hw : s.mem.wf = true) : (s.setCtx x).mem.wf = true := hw

theorem State.modCtx_wf (s : State) (c : Nat) (f : Ctx → Ctx) (hw : s.mem.wf = true) : (s.modCtx c f).mem.wf = true := hw

theorem State.modDev_wf (s : State) (f : Device → Device) (hw : s.mem.wf = true) : (s.modDev f).mem.wf = true := hw

theorem State.fresh_wf (s : State) (hw : s.mem.wf = true) : (s.fresh).2.mem.wf = true := hw

theorem State.choose_wf (s : State) (k : Nat) (hw : s.mem.wf = true) : (s.choose k).2.mem.wf = true := by
  unfold State.choose
  grind -ring -linarith

theorem State.setRunnel_wf (s : State) (src dir : Nat) (es : List RunEntry) (hw : s.mem.wf = true) :
    (s.setRunnel src dir es).mem.wf = true := hw

theorem State.modSlotParty_wf (s : State) (p : Party) (f : Thread → Thread) (hw : s.mem.wf = true) :
    (s.modSlotParty p f).mem.wf = true := by
  unfold State.modSlotParty
  grind -ring -linarith [State.modThread_wf]

theorem State.externalRead_wf (s : State) (pa n : Nat) (hw : s.mem.wf = true) : (s.externalRead pa n).2.mem.wf = true := hw

theorem State.l2Bytes_wf (s : State) (die pa n : Nat) (col : Bool) (hw : s.mem.wf = true) :
    (s.l2Bytes die pa n col).2.mem.wf = true := by
  unfold State.l2Bytes
  grind -ring -linarith [Mem.l2Read_wf, State.externalRead_wf]

theorem Mem.holdAlone_wf (m : Mem) (die block : Nat) (hw : m.wf = true) : (m.holdAlone die block).wf = true := by
  unfold Mem.holdAlone
  grind -ring -linarith [Mem.fill_wf, Mem.dropOthers_wf]

theorem State.landSlotStores_wf (s : State) (core slot : Nat) (hw : s.mem.wf = true) :
    (s.landSlotStores core slot).mem.wf = true := by
  unfold State.landSlotStores
  grind -ring -linarith [State.landStores_wf]

theorem Mem.hold_wf (m : Mem) (e : TlbEntry) (hw : m.wf = true) : (m.hold e).wf = true := hw

theorem State.lookup_wf (s : State) (die : Nat) (core : Option Nat) (ctx va : Nat) (hw : s.mem.wf = true) :
    (s.lookup die core ctx va).2.mem.wf = true := by
  unfold State.lookup
  grind -ring -linarith [State.choose_wf, State.modMem_mem, Mem.hold_wf, foldl_wf, Mem.foldl_wf, foldl_snd_wf]

theorem State.translate_wf (s : State) (die : Nat) (core : Option Nat) (ctx : Nat) (user : Bool) (k : AccKind) (prv : Bool)
    (va addr : Nat) (hw : s.mem.wf = true) :
    (s.translate die core ctx user k prv va addr).2.mem.wf = true := by
  unfold State.translate
  grind -ring -linarith [State.lookup_wf]

theorem State.mapRun_wf (s : State) (die : Nat) (core : Option Nat) (ctx : Nat) (user : Bool) (k : AccKind) (prv : Bool)
    (p : Nat) (l : List (Nat × Nat × Nat)) (hw : s.mem.wf = true) :
    (s.mapRun die core ctx user k prv p l).2.mem.wf = true := by
  induction l generalizing s with
  | nil => exact hw
  | cons x xs ih =>
    unfold State.mapRun
    grind -ring -linarith [State.translate_wf]

theorem State.access_wf (s : State) (t : Thread) (core : Nat) (k : AccKind) (p n al : Nat) (hw : s.mem.wf = true) :
    (s.access t core k p n al).2.mem.wf = true := by
  unfold State.access
  grind -ring -linarith [State.mapRun_wf]

theorem State.loadPiece_wf (s : State) (core : Nat) (x : Piece)
    (hw : s.mem.wf = true) : (s.loadPiece core x).2.mem.wf = true := by
  unfold State.loadPiece
  grind -ring -linarith [State.load_wf]

theorem State.loadPieces_wf (s : State) (core : Nat) (l : List Piece) (hw : s.mem.wf = true) :
    (s.loadPieces core l).2.mem.wf = true := by
  induction l generalizing s with
  | nil => exact hw
  | cons x xs ih =>
    unfold State.loadPieces
    grind -ring -linarith [State.loadPiece_wf]

theorem State.storePieces_wf (s : State) (core : Nat) (l : List Piece) (e1 : List Byte) (hw : s.mem.wf = true) :
    (s.storePieces core l e1).mem.wf = true := by
  induction l generalizing s e1 with
  | nil => exact hw
  | cons x xs ih =>
    unfold State.storePieces
    grind -ring -linarith [State.storePiece_wf]

theorem State.storeWords_wf (s : State) (core : Nat) (ps : List Piece) (bs : List Byte) (hw : s.mem.wf = true) :
    (s.storeWords core ps bs).mem.wf = true := by
  unfold State.storeWords
  grind -ring -linarith [State.storePieces_wf, State.storePiece_wf, foldl_wf]

theorem State.engineVa_wf (s : State) (die ctx : Nat) (user : Bool) (k : AccKind) (p n : Nat) (hw : s.mem.wf = true) :
    (s.engineVa die ctx user k p n).2.mem.wf = true := by
  unfold State.engineVa
  grind -ring -linarith [State.mapRun_wf]

theorem State.engineAccess_wf (s : State) (die ctx : Nat) (user : Bool) (k : AccKind) (p n : Nat) (hw : s.mem.wf = true) :
    (s.engineAccess die ctx user k p n).2.mem.wf = true := by
  unfold State.engineAccess
  grind -ring -linarith [State.engineVa_wf]

theorem State.homePieces_wf (s : State) (l : List Piece) (hw : s.mem.wf = true) : (s.homePieces l).2.mem.wf = true := by
  induction l generalizing s with
  | nil => exact hw
  | cons x xs ih =>
    unfold State.homePieces
    grind -ring -linarith [State.levelRead_wf]

theorem State.homeStorePieces_wf (s : State) (l : List Piece) (e1 : List Byte) (hw : s.mem.wf = true) :
    (s.homeStorePieces l e1).mem.wf = true := by
  induction l generalizing s e1 with
  | nil => exact hw
  | cons x xs ih =>
    unfold State.homeStorePieces
    grind -ring -linarith [State.levelStore_wf, State.modMem_mem, Mem.sramWrite_wf]

end Sys2Proof.Machine
end

section
/-! PROOFS. Memory keeps its one form through the named operations and through what is kept of records and threads (log 4). -/

namespace Sys2Proof.Machine
open Sys2Proof

theorem State.errRecord_wf (s : State) (r : ErrRec) (hw : s.mem.wf = true) : (s.errRecord r).mem.wf = true := by
  unfold State.errRecord
  grind -ring -linarith [State.modDev_wf, State.levelWrite_wf]

theorem State.discardForeign_wf (s : State) (core ctx src dir : Nat) (fuel : Nat) (hw : s.mem.wf = true) :
    (s.discardForeign core ctx src dir fuel).mem.wf = true := by
  induction fuel generalizing s with
  | zero => exact hw
  | succ fuel ih =>
    unfold State.discardForeign
    grind -ring -linarith [State.setRunnel_wf, State.errRecord_wf]

theorem State.putEntry_wf (s : State) (src dir : Nat) (e : RunEntry) (hw : s.mem.wf = true) :
    (s.putEntry src dir e).mem.wf = true := hw

theorem State.fillEntry_wf (s : State) (src dir id : Nat) (w : Word) (hw : s.mem.wf = true) :
    (s.fillEntry src dir id w).mem.wf = true := by
  unfold State.fillEntry
  grind -ring -linarith [State.setRunnel_wf]

theorem State.dropEntry_wf (s : State) (src dir id : Nat) (hw : s.mem.wf = true) : (s.dropEntry src dir id).mem.wf = true := hw

theorem State.dropPushes_wf (s : State) (t : Thread) (hw : s.mem.wf = true) : (s.dropPushes t).mem.wf = true := by
  unfold State.dropPushes
  grind -ring -linarith [State.dropEntry_wf, foldl_wf]

theorem State.popRunnels_wf (s : State) (ps : List (Nat × Nat)) (hw : s.mem.wf = true) : (s.popRunnels ps).mem.wf = true := by
  unfold State.popRunnels
  grind -ring -linarith [State.setRunnel_wf, foldl_wf]

theorem State.writeName_wf (s : State) (n : Name) (p : Word) (hw : s.mem.wf = true) : (s.writeName n p).mem.wf = true := by
  unfold State.writeName
  grind -ring -linarith [State.putEntry_wf, State.modThr_wf]

theorem State.consume_wf (s : State) (ns : List Name) (hw : s.mem.wf = true) : (s.consume ns).mem.wf = true := by
  unfold State.consume
  grind -ring -linarith [State.popRunnels_wf, State.modThr_wf]

theorem State.apply_wf (s : State) (r : Pending) (hw : s.mem.wf = true) : (s.apply r).mem.wf = true := by
  unfold State.apply
  grind -ring -linarith [State.writeName_wf, State.modThr_wf, foldl_wf]

theorem State.landPushes_wf (s : State) (e : InFlight) (hw : s.mem.wf = true) : (s.landPushes e).mem.wf = true := by
  unfold State.landPushes
  grind -ring -linarith [State.fillEntry_wf, foldl_wf]

theorem State.landOne_wf (s : State) (t : Thread) (e : InFlight) (hw : s.mem.wf = true) : (s.landOne t e).1.mem.wf = true := by
  unfold State.landOne
  grind -ring -linarith [State.landPushes_wf]

theorem State.landAll_wf (s : State) (t : Thread) (hw : s.mem.wf = true) : (s.landAll t).1.mem.wf = true := by
  unfold State.landAll
  grind -ring -linarith [State.landOne_wf, foldl_wf, foldl_fst_wf]

theorem State.settleWindows_wf (s : State) (hw : s.mem.wf = true) : (s.settleWindows).mem.wf = true := by
  unfold State.settleWindows
  grind -ring -linarith [State.landAll_wf]

theorem State.retire_wf (s : State) (hw : s.mem.wf = true) : (s.retire).mem.wf = true := hw

theorem State.openWindow_wf (s : State) (look : Nat) (r : Pending) (aw : Await) (hw : s.mem.wf = true) :
    (s.openWindow look r aw).mem.wf = true := by
  unfold State.openWindow
  grind -ring -linarith [State.fresh_wf, State.putEntry_wf, State.modThr_wf, foldl_wf, foldl_snd_wf]

theorem State.writeTrapRecord_wf (s : State) (core slot : Nat) (t : Thread) (h : HeldTrap)
    (hw : s.mem.wf = true) {u : State} (he : s.writeTrapRecord core slot t h = some u) :
    u.mem.wf = true := by
  unfold State.writeTrapRecord at he
  grind -ring -linarith [State.access_wf, State.storePieces_wf]

theorem State.freeze_wf (s : State) (core slot : Nat) (t : Thread) (h : HeldTrap) (cause addr : Nat) (hw : s.mem.wf = true) :
    (s.freeze core slot t h cause addr).1.mem.wf = true := by
  unfold State.freeze
  grind -ring -linarith [State.errRecord_wf]

theorem State.noteCode_wf (s : State) (t : Thread) (h : HeldTrap) (hw : s.mem.wf = true) : (s.noteCode t h).mem.wf = true := by
  unfold State.noteCode
  grind -ring -linarith

theorem State.trapEntry_wf (s : State) (core slot : Nat) (t : Thread) (h : HeldTrap) (hw : s.mem.wf = true) :
    (s.trapEntry core slot t h).1.mem.wf = true := by
  unfold State.trapEntry
  grind -ring -linarith [State.noteCode_wf, State.freeze_wf, State.writeTrapRecord_wf]

theorem State.noteUncorrectable_wf (s : State) (core slot : Nat) (t : Thread) (pa x0 pc : Nat) (hw : s.mem.wf = true) :
    (s.noteUncorrectable core slot t pa x0 pc).mem.wf = true := by
  unfold State.noteUncorrectable
  grind -ring -linarith [State.errRecord_wf]

theorem State.handOver_wf (s : State) (core slot id : Nat)
    (hw : s.mem.wf = true) : (s.handOver core slot id).mem.wf = true := by
  unfold State.handOver
  grind -ring -linarith [State.setCore_wf, State.modThread_wf]

theorem State.vectorServe_wf (s : State) (core : Nat) (e : VqEntry) (hw : s.mem.wf = true) :
    (s.vectorServe core e).mem.wf = true := by
  cases e with
  | op o => exact hw
  | handoff slot id => exact s.handOver_wf core slot id hw

theorem State.vectorTake_wf (s : State) (q : Nat) (l : List Nat) (hw : s.mem.wf = true) : (s.vectorTake q l).mem.wf = true := by
  induction l generalizing s with
  | nil => exact hw
  | cons x xs ih =>
    unfold State.vectorTake
    grind -ring -linarith [State.setCore_wf, State.setQuad_wf, State.vectorServe_wf]

theorem State.vectorDrain_wf (s : State) (core slot : Nat) (fuel : Nat) (hw : s.mem.wf = true) :
    (s.vectorDrain core slot fuel).mem.wf = true := by
  induction fuel generalizing s with
  | zero => exact hw
  | succ fuel ih =>
    unfold State.vectorDrain
    grind -ring -linarith [State.vectorTake_wf]

theorem State.vectorDone_wf (s : State) (core slot : Nat) (hw : s.mem.wf = true) : (s.vectorDone core slot).mem.wf = true := by
  unfold State.vectorDone
  grind -ring -linarith [State.vectorDrain_wf]

theorem State.takeTrap_wf (s : State) (x : Trap) (hw : s.mem.wf = true) : (s.takeTrap x).mem.wf = true := by
  unfold State.takeTrap
  grind -ring -linarith [State.settleWindows_wf, State.vectorDone_wf, State.trapEntry_wf, State.modThr_wf]

theorem State.reservePushes_wf (s : State) (l : List Name) (hw : s.mem.wf = true) : (s.reservePushes l).mem.wf = true := by
  induction l generalizing s with
  | nil => exact hw
  | cons x xs ih =>
    unfold State.reservePushes
    grind -ring -linarith [State.fresh_wf, State.putEntry_wf, State.modThr_wf]

theorem State.parkBare_wf (s : State) (w : Wait) (hw : s.mem.wf = true) : (s.parkBare w).mem.wf = true := by
  unfold State.parkBare
  grind -ring -linarith [State.modThr_wf]

theorem State.park_wf (s : State) (reads : List Name) (w : Wait) (hw : s.mem.wf = true) : (s.park reads w).mem.wf = true := by
  unfold State.park
  grind -ring -linarith [State.parkBare_wf, State.modThr_wf, State.reservePushes_wf]

theorem State.unparkOrder_wf (s : State) (c i : Nat) (hw : s.mem.wf = true) : (s.unparkOrder c i).mem.wf = true := hw

theorem State.loadBytes_wf (s : State) (ps : List Piece) (hw : s.mem.wf = true) : (s.loadBytes ps).2.mem.wf = true := by
  unfold State.loadBytes
  grind -ring -linarith [State.noteUncorrectable_wf, State.loadPieces_wf]

theorem State.threadLoad_wf (s : State) (ptr n al : Nat) (hw : s.mem.wf = true) : (s.threadLoad ptr n al).2.mem.wf = true := by
  unfold State.threadLoad
  grind -ring -linarith [State.access_wf, State.loadBytes_wf]

theorem State.threadStore_wf (s : State) (ptr al : Nat) (bs : List Byte) (hw : s.mem.wf = true) :
    (s.threadStore ptr al bs).2.mem.wf = true := by
  unfold State.threadStore
  grind -ring -linarith [State.access_wf, State.storePieces_wf]

theorem State.pageChecked_wf (s : State) (page object : Nat) (good : Bool) (hw : s.mem.wf = true) :
    (s.pageChecked page object good).mem.wf = true := by
  unfold State.pageChecked
  grind -ring -linarith [State.modDev_wf, State.errRecord_wf]

theorem State.checkPage_wf (s : State) (page : Nat) (hw : s.mem.wf = true) : (s.checkPage page).mem.wf = true := by
  unfold State.checkPage
  grind -ring -linarith [State.choose_wf, State.pageChecked_wf]

theorem State.oneOf_wf (s : State) (l : List Nat) (hw : s.mem.wf = true) : (s.oneOf l).2.mem.wf = true := by
  unfold State.oneOf
  grind -ring -linarith [State.choose_wf]

theorem State.fetch16_wf (s : State) (t : Thread) (core pc : Nat) (hw : s.mem.wf = true) :
    (s.fetch16 t core pc).2.1.mem.wf = true := by
  unfold State.fetch16
  grind -ring -linarith [State.access_wf, State.checkPage_wf, State.noteUncorrectable_wf, State.oneOf_wf]

theorem State.fetchWord_wf (s : State) (t : Thread) (core pc : Nat) (hw : s.mem.wf = true) :
    (s.fetchWord t core pc).2.1.mem.wf = true := by
  unfold State.fetchWord
  grind -ring -linarith [State.fetch16_wf]

theorem State.skipLength_wf (s : State) (t : Thread) (core ilen : Nat) (hw : s.mem.wf = true) :
    (s.skipLength t core ilen).2.mem.wf = true := by
  unfold State.skipLength
  grind -ring -linarith [State.fetchWord_wf]

theorem State.sysWrite_wf (s : State) (ctx va : Nat) (bs : List Byte) (hw : s.mem.wf = true) :
    (s.sysWrite ctx va bs).mem.wf = true := by
  unfold State.sysWrite
  grind -ring -linarith [State.homeStorePieces_wf]

theorem State.sysPut_wf (s : State) (ctx va w : Nat) (hw : s.mem.wf = true) : (s.sysPut ctx va w).mem.wf = true := by
  unfold State.sysPut
  grind -ring -linarith [State.sysWrite_wf]

theorem State.setRecInfo_wf (s : State) (ctx : Nat) (r : RecInfo)
    (hw : s.mem.wf = true) : (s.setRecInfo ctx r).mem.wf = true := hw

theorem State.writeRecord_wf (s : State) (t : Thread) (die : Nat)
    (hw : s.mem.wf = true) : (s.writeRecord t die).mem.wf = true := by
  unfold State.writeRecord
  grind -ring -linarith [State.sysWrite_wf, State.setRecInfo_wf]

theorem State.writeFresh_wf (s : State) (t : Thread) (args : List Nat) (die : Nat) (hw : s.mem.wf = true) :
    (s.writeFresh t args die).mem.wf = true := by
  unfold State.writeFresh
  grind -ring -linarith [State.sysWrite_wf, State.setRecInfo_wf]

theorem State.takeRecord_wf (s : State) (ctx : Nat) (hw : s.mem.wf = true) : (s.takeRecord ctx).2.mem.wf = true := by
  unfold State.takeRecord
  grind -ring -linarith [State.choose_wf]

theorem State.returnRecord_wf (s : State) (ctx k : Nat) (toks : BitVec 16) (hw : s.mem.wf = true) :
    (s.returnRecord ctx k toks).mem.wf = true := by
  unfold State.returnRecord
  grind -ring -linarith [State.setRecInfo_wf, State.modCtx_wf]

theorem State.enqueueReady_wf (s : State) (ctx : Nat) (core : Option Nat) (die k : Nat) (hw : s.mem.wf = true) :
    (s.enqueueReady ctx core die k).mem.wf = true := by
  unfold State.enqueueReady
  grind -ring -linarith

theorem State.popReady_wf (s : State) (ctx : Nat) (core : Option Nat) (die : Nat) (hw : s.mem.wf = true) :
    (s.popReady ctx core die).mem.wf = true := hw

theorem State.packSpans_wf (s : State) (c : Nat) (l : List (Nat × Nat × Nat)) (e1 : Nat) (hw : s.mem.wf = true) :
    (s.packSpans c l e1).2.mem.wf = true := by
  induction l generalizing s e1 with
  | nil => exact hw
  | cons x xs ih =>
    unfold State.packSpans
    grind -ring -linarith [State.modThread_wf]

theorem State.placeSpan_wf (s : State) (c i : Nat) (old : List (Nat × Nat × Nat)) (hw : s.mem.wf = true) :
    (s.placeSpan c i old).mem.wf = true := by
  unfold State.placeSpan
  grind -ring -linarith [State.modThread_wf, State.packSpans_wf]

theorem State.resizeSpan_wf (s : State) (c i old : Nat) (hw : s.mem.wf = true) : (s.resizeSpan c i old).mem.wf = true := by
  unfold State.resizeSpan
  grind -ring -linarith [State.placeSpan_wf]

theorem State.mapPieces_wf (s : State) (t : Thread) (core slot addr : Nat) (hw : s.mem.wf = true) :
    (s.mapPieces t core slot addr).2.mem.wf = true := by
  unfold State.mapPieces
  grind -ring -linarith [State.access_wf, State.noteUncorrectable_wf]

theorem State.readMap_wf (s : State) (t : Thread) (core slot : Nat) (hw : s.mem.wf = true) :
    (s.readMap t core slot).2.mem.wf = true := by
  unfold State.readMap
  grind -ring -linarith [State.mapPieces_wf, State.loadPieces_wf]

theorem State.readImageMap_wf (s : State) (t : Thread) (core slot addr : Nat) (img : List Byte) (hw : s.mem.wf = true) :
    (s.readImageMap t core slot addr img).2.mem.wf = true := by
  unfold State.readImageMap
  grind -ring -linarith [State.mapPieces_wf]

theorem State.placeRecord_wf (s : State) (core slot ctx k : Nat) (sc : Scope) (hw : s.mem.wf = true) :
    (s.placeRecord core slot ctx k sc).mem.wf = true := by
  unfold State.placeRecord
  grind -ring -linarith [State.fresh_wf, State.acquire_wf, State.readMap_wf, State.readImageMap_wf, State.setOcc_wf,
    State.setRecInfo_wf, State.setCore_wf]

theorem State.wakeParty_wf (s : State) (p : Party) (acq : Option Scope) (f : Thread → Thread) (hw : s.mem.wf = true) :
    (s.wakeParty p acq f).mem.wf = true := by
  unfold State.wakeParty
  grind -ring -linarith [State.dropPushes_wf, State.modThread_wf, State.unparkOrder_wf, State.writeRecord_wf,
    State.enqueueReady_wf]

theorem State.completeParty_wf (s : State) (p : Party) (acq : Option Scope) (f : Thread → Thread) (hw : s.mem.wf = true) :
    (s.completeParty p acq f).mem.wf = true := by
  unfold State.completeParty
  grind -ring -linarith [State.wakeParty_wf, State.popRunnels_wf]

theorem State.renameParty_wf (s : State) (p q : Party) (hw : s.mem.wf = true) : (s.renameParty p q).mem.wf = true := hw

theorem State.fillPush_wf (s : State) (t : Thread) (d : Name) (p : Word) (hw : s.mem.wf = true) :
    (s.fillPush t d p).mem.wf = true := by
  unfold State.fillPush
  grind -ring -linarith [State.fillEntry_wf]

theorem State.pushReceived_wf (s : State) (p : Party) (d : Name) (x : Thread → Int) (hw : s.mem.wf = true) :
    (s.pushReceived p d x).mem.wf = true := by
  unfold State.pushReceived
  grind -ring -linarith [State.fillPush_wf]

theorem State.deliverWord_wf (s : State) (p : Party) (acq : Option Scope) (d : Name) (w : Nat) (perf : Bool)
    (hw : s.mem.wf = true) :
    (s.deliverWord p acq d w perf).mem.wf = true := by
  unfold State.deliverWord
  grind -ring -linarith [State.pushReceived_wf, State.completeParty_wf]

theorem State.freeSlot_wf (s : State) (c i : Nat) (hw : s.mem.wf = true) : (s.freeSlot c i).mem.wf = true := hw

theorem State.spillSlot_wf (s : State) (c i : Nat) (sc : Scope)
    (hw : s.mem.wf = true) : (s.spillSlot c i sc).mem.wf = true := by
  unfold State.spillSlot
  grind -ring -linarith [State.landSlotStores_wf, State.landAll_wf, State.release_wf, State.writeRecord_wf,
    State.renameParty_wf, State.freeSlot_wf]

theorem State.repackOne_wf (s : State) (c : Nat) (hw : s.mem.wf = true) : (s.repackOne c).mem.wf = true := by
  unfold State.repackOne
  grind -ring -linarith [State.setCore_wf, State.placeSpan_wf, State.spillSlot_wf]

theorem State.repackAll_wf (s : State) (c : Nat) (fuel : Nat) (hw : s.mem.wf = true) : (s.repackAll c fuel).mem.wf = true := by
  induction fuel generalizing s with
  | zero => unfold State.repackAll; grind -ring -linarith
  | succ fuel ih =>
    unfold State.repackAll
    grind -ring -linarith [State.repackOne_wf]

theorem State.spillNow_wf (s : State) (c i : Nat) (sc : Scope) (hw : s.mem.wf = true) : (s.spillNow c i sc).mem.wf = true := by
  unfold State.spillNow
  grind -ring -linarith [State.repackAll_wf, State.spillSlot_wf]

theorem State.setThreadTok_wf (s : State) (ctx k tok v : Nat) (hw : s.mem.wf = true) :
    (s.setThreadTok ctx k tok v).mem.wf = true := by
  unfold State.setThreadTok
  grind -ring -linarith [State.modThread_wf, State.unparkOrder_wf, State.returnRecord_wf, State.sysPut_wf]

end Sys2Proof.Machine
end

section
/-! PROOFS. Memory keeps its one form through atomics, full/empty words, reservations, groups and flumes (log 4). -/

namespace Sys2Proof.Machine
open Sys2Proof

theorem State.atomicAt_wf (s : State) (core : Nat) (sc : Scope) (x : Piece) (f : Nat → Option Nat) (hw : s.mem.wf = true) :
    (s.atomicAt core sc x f).2.mem.wf = true := by
  unfold State.atomicAt
  grind -ring -linarith [State.modMem_mem, Mem.sramWrite_wf, State.settle_wf, State.load_wf, State.store_wf,
    State.flushLine_wf, State.levelRead_wf, State.levelWrite_wf]

theorem State.setFull_wf (s : State) (w : WordLoc) (full : Bool) (hw : s.mem.wf = true) : (s.setFull w full).mem.wf = true := by
  unfold State.setFull
  grind -ring -linarith [State.modMem_mem, Mem.sram_wf, Mem.putSram_wf, Mem.wf]

theorem State.homeWord_wf (s : State) (w : WordLoc) (hw : s.mem.wf = true) : (s.homeWord w).2.mem.wf = true := by
  unfold State.homeWord
  grind -ring -linarith [State.levelRead_wf]

theorem State.putHomeWord_wf (s : State) (w : WordLoc) (v : Nat)
    (hw : s.mem.wf = true) : (s.putHomeWord w v).mem.wf = true := by
  unfold State.putHomeWord
  grind -ring -linarith [State.levelStore_wf, State.modMem_mem, Mem.sramWrite_wf]

theorem State.partyPoison_wf (s : State) (p : Party) (va : Word) (addr : Nat) (hw : s.mem.wf = true) :
    (s.partyPoison p va addr).mem.wf = true := by
  unfold State.partyPoison
  grind -ring -linarith [State.noteUncorrectable_wf, State.wakeParty_wf, State.choose_wf]

theorem State.completeFe_wf (s : State) (x : FeWaiter) (hw : s.mem.wf = true) : (s.completeFe x).mem.wf = true := by
  unfold State.completeFe
  grind -ring -linarith [State.homeWord_wf, State.setFull_wf, State.deliverWord_wf, State.partyPoison_wf,
    State.putHomeWord_wf, State.completeParty_wf, State.retire_wf]

theorem State.serveFe_wf (s : State) (w : WordLoc) (fuel : Nat) (hw : s.mem.wf = true) : (s.serveFe w fuel).mem.wf = true := by
  induction fuel generalizing s with
  | zero => exact hw
  | succ fuel ih =>
    unfold State.serveFe
    grind -ring -linarith [State.completeFe_wf]

theorem State.changeFull_wf (s : State) (w : WordLoc) (full : Bool)
    (hw : s.mem.wf = true) : (s.changeFull w full).mem.wf = true := by
  unfold State.changeFull
  grind -ring -linarith [State.setFull_wf, State.serveFe_wf]

theorem State.resWord_wf (s : State) (h : ResHome) (w : WordLoc) (hw : s.mem.wf = true) : (s.resWord h w).2.mem.wf = true := by
  unfold State.resWord
  grind -ring -linarith [State.levelRead_wf]

theorem State.deliverReserved_wf (s : State) (e : ResEntry) (v : Nat) (hw : s.mem.wf = true) :
    (s.deliverReserved e v).mem.wf = true := by
  unfold State.deliverReserved
  grind -ring -linarith [State.pushReceived_wf, State.completeParty_wf, State.retire_wf]

theorem State.grantFrom_wf (s : State) (h : ResHome) (w : WordLoc) (fuel : Nat) (hw : s.mem.wf = true) :
    (s.grantFrom h w fuel).mem.wf = true := by
  induction fuel generalizing s with
  | zero => exact hw
  | succ fuel ih =>
    unfold State.grantFrom
    grind -ring -linarith [State.partyPoison_wf, State.resWord_wf, State.deliverReserved_wf]

theorem State.grantNext_wf (s : State) (h : ResHome) (w : WordLoc)
    (hw : s.mem.wf = true) : (s.grantNext h w).mem.wf = true := by
  unfold State.grantNext
  grind -ring -linarith [State.grantFrom_wf]

theorem State.handOn_wf (s : State) (e : ResEntry) (hw : s.mem.wf = true) : (s.handOn e).mem.wf = true := by
  unfold State.handOn
  grind -ring -linarith [State.grantNext_wf]

theorem State.admitNext_wf (s : State) (h : ResHome) (hw : s.mem.wf = true) : (s.admitNext h).mem.wf = true := by
  unfold State.admitNext
  grind -ring -linarith [State.grantNext_wf]

theorem State.wakeGroup_wf (s : State) (key phase : Nat) (hw : s.mem.wf = true) : (s.wakeGroup key phase).mem.wf = true := by
  unfold State.wakeGroup
  grind -ring -linarith [State.completeParty_wf, State.retire_wf, foldl_wf]

theorem State.groupPiece_wf (s : State) (t : Thread) (core : Nat) (addr : Nat) (hw : s.mem.wf = true) :
    (s.groupPiece t core addr).2.mem.wf = true := by
  unfold State.groupPiece
  grind -ring -linarith [State.access_wf, State.rmw_wf]

theorem State.groupRead_wf (s : State) (core : Nat) (x : Piece)
    (hw : s.mem.wf = true) : (s.groupRead core x).2.mem.wf = true := by
  unfold State.groupRead
  grind -ring -linarith [State.atomicAt_wf]

theorem State.leaveWord_wf (s : State) (core : Nat) (x : Piece) (sc : Scope) (hw : s.mem.wf = true) :
    (s.leaveWord core x sc).mem.wf = true := by
  unfold State.leaveWord
  grind -ring -linarith [State.release_wf, State.atomicAt_wf, State.wakeGroup_wf]

theorem State.quitLeave_wf (s : State) (core : Nat) (t : Thread) (addr : Nat) (hw : s.mem.wf = true) :
    (s.quitLeave core t addr).mem.wf = true := by
  unfold State.quitLeave
  grind -ring -linarith [State.groupPiece_wf, State.groupRead_wf, State.leaveWord_wf]

theorem State.handAllOn_wf (s : State) (core ctx k : Nat) (hw : s.mem.wf = true) : (s.handAllOn core ctx k).mem.wf = true := by
  unfold State.handAllOn
  grind -ring -linarith [State.release_wf, State.handOn_wf, foldl_wf]

theorem State.quitSteps_wf (s : State) (core : Nat) (t : Thread)
    (hw : s.mem.wf = true) : (s.quitSteps core t).mem.wf = true := by
  unfold State.quitSteps
  grind -ring -linarith [State.quitLeave_wf, State.handAllOn_wf, foldl_wf]

theorem State.fcbWrite_wf (s : State) (pa : Nat) (f : Fcb) (hw : s.mem.wf = true) : (s.fcbWrite pa f).mem.wf = true := by
  unfold State.fcbWrite
  grind -ring -linarith [State.levelWrite_wf]

theorem State.wakeBroken_wf (s : State) (pa ctl code : Nat)
    (hw : s.mem.wf = true) : (s.wakeBroken pa ctl code).mem.wf = true := by
  unfold State.wakeBroken
  grind -ring -linarith [State.wakeParty_wf, foldl_wf]

theorem State.fcbCheck_wf (s : State) (die pa : Nat) (hw : s.mem.wf = true) : (s.fcbCheck die pa).2.mem.wf = true := by
  unfold State.fcbCheck
  grind -ring -linarith [State.fcbWrite_wf, State.wakeBroken_wf]

theorem State.fcbOpen_wf (s : State) (die pa ctx : Nat) (esz : Option Nat) (hw : s.mem.wf = true) :
    (s.fcbOpen die pa ctx esz).2.mem.wf = true := by
  unfold State.fcbOpen
  grind -ring -linarith [State.fcbCheck_wf]

theorem State.putElem_wf (s : State) (f : Fcb) (i : Nat) (e : List Word) (hw : s.mem.wf = true) :
    (s.putElem f i e).mem.wf = true := by
  unfold State.putElem
  grind -ring -linarith [State.sysWrite_wf]

theorem State.pushParts_wf (s : State) (p : Party) (ps : Thread → List (Name × Word)) (hw : s.mem.wf = true) :
    (s.pushParts p ps).mem.wf = true := by
  unfold State.pushParts
  grind -ring -linarith [State.fillPush_wf, foldl_wf]

theorem State.completeDeq_wf (s : State) (w : FlumeWaiter) (sc : Scope) (e : List Word) (hw : s.mem.wf = true) :
    (s.completeDeq w sc e).mem.wf = true := by
  unfold State.completeDeq
  grind -ring -linarith [State.wakeParty_wf, State.pushParts_wf, State.completeParty_wf, State.retire_wf, foldl_wf]

theorem State.completeEnq_wf (s : State) (w : FlumeWaiter) (hw : s.mem.wf = true) : (s.completeEnq w).mem.wf = true := by
  unfold State.completeEnq
  grind -ring -linarith [State.completeParty_wf, State.retire_wf]

theorem State.handElem_wf (s : State) (pa : Nat) (f : Fcb) (ctl : Nat) (e : List Word) (hw : s.mem.wf = true) :
    (s.handElem pa f ctl e).mem.wf = true := by
  unfold State.handElem
  grind -ring -linarith [State.completeDeq_wf]

theorem State.takeElem_wf (s : State) (pa : Nat) (f : Fcb) (ctl : Nat) (hw : s.mem.wf = true) :
    (s.takeElem pa f ctl).mem.wf = true := by
  unfold State.takeElem
  grind -ring -linarith [State.putElem_wf, State.completeEnq_wf]

theorem State.flumeEnq_wf (s : State) (die pa : Nat) (f : Fcb) (e : List Word) (hw : s.mem.wf = true) :
    (s.flumeEnq die pa f e).2.mem.wf = true := by
  unfold State.flumeEnq
  grind -ring -linarith [State.fcbWrite_wf, State.handElem_wf, State.putElem_wf]

theorem State.flumeDeq_wf (s : State) (die pa : Nat) (f : Fcb)
    (hw : s.mem.wf = true) : (s.flumeDeq die pa f).2.mem.wf = true := by
  unfold State.flumeDeq
  grind -ring -linarith [State.fcbWrite_wf, State.takeElem_wf]

theorem State.flumeWait_wf (s : State) (f : Fcb) (w : FlumeWaiter)
    (hw : s.mem.wf = true) : (s.flumeWait f w).mem.wf = true := by
  unfold State.flumeWait
  grind -ring -linarith [State.fcbWrite_wf]

theorem State.flumeWithdraw_wf (s : State) (w : FlumeWaiter) (hw : s.mem.wf = true) : (s.flumeWithdraw w).2.mem.wf = true := by
  unfold State.flumeWithdraw
  grind -ring -linarith [State.fcbCheck_wf, State.fcbWrite_wf, State.wakeParty_wf]

theorem State.flumeExpire_wf (s : State) (w : FlumeWaiter) (hw : s.mem.wf = true) : (s.flumeExpire w).mem.wf = true := by
  unfold State.flumeExpire
  grind -ring -linarith [State.flumeWithdraw_wf, State.wakeParty_wf]

theorem State.handleCheck_wf (s : State) (t : Thread) (core : Nat) (h : Nat) (hw : s.mem.wf = true) :
    (s.handleCheck t core h).2.mem.wf = true := by
  unfold State.handleCheck
  grind -ring -linarith [State.rmw_wf, State.access_wf]

theorem State.remoteNow_wf (s : State) (hw : s.mem.wf = true) : (s.remoteNow).2.mem.wf = true := by
  unfold State.remoteNow
  grind -ring -linarith [State.choose_wf]

theorem State.remoteWait_wf (s : State) (op : RemoteOp) (va : Nat) (limited : Bool) (tok : Option (Nat × Nat))
    (hw : s.mem.wf = true) :
    (s.remoteWait op va limited tok).mem.wf = true := hw

theorem State.remoteElem_wf (s : State) (pa n : Nat) (hw : s.mem.wf = true) : (s.remoteElem pa n).2.mem.wf = true := hw

theorem State.clearForeign_wf (s : State) (ns : List Name) (hw : s.mem.wf = true) : (s.clearForeign ns).mem.wf = true := by
  unfold State.clearForeign
  grind -ring -linarith [State.discardForeign_wf, foldl_wf]

theorem State.stepNames_wf (s : State) (vs : List (Name × Word)) (hw : s.mem.wf = true) : (s.stepNames vs).mem.wf = true := hw

theorem State.quieted_wf (s : State) (hw : s.mem.wf = true) {u : State} (he : s.quieted = some u) : u.mem.wf = true := by
  unfold State.quieted at he
  grind -ring -linarith [State.settleWindows_wf]

end Sys2Proof.Machine
end

section
/-! PROOFS. Memory keeps its one form through the operations of single instruction groups, of launches, of the noria and of threads
(log 4). -/

namespace Sys2Proof.Machine
open Sys2Proof

theorem State.shedLines_wf (s : State) (core newSps : Nat) (all : Bool) (hw : s.mem.wf = true) :
    (s.shedLines core newSps all).mem.wf = true := by
  unfold State.shedLines
  grind -ring -linarith [State.choose_wf, State.evictLine_wf, foldl_wf, foldl_snd_wf]

theorem State.expelSram_wf (s : State) (core : Nat) (hw : s.mem.wf = true) : (s.expelSram core).mem.wf = true := by
  unfold State.expelSram
  grind -ring -linarith [State.wakeParty_wf, foldl_wf]

theorem State.setSplit_wf (s : State) (core sps own : Nat)
    (hw : s.mem.wf = true) : (s.setSplit core sps own).mem.wf = true := by
  unfold State.setSplit
  grind -ring -linarith [State.landStores_wf, State.shedLines_wf, State.setCore_wf, State.modMem_mem, Mem.clearUnits_wf,
    State.expelSram_wf]

theorem State.writeSplitc_wf (s : State) (v : Nat) (hw : s.mem.wf = true) : (s.writeSplitc v).mem.wf = true := by
  unfold State.writeSplitc
  grind -ring -linarith [State.setSplit_wf]

theorem State.csrWrite_wf (s : State) (c : Csr) (v : Nat) (hw : s.mem.wf = true) : (s.csrWrite c v).mem.wf = true := by
  unfold State.csrWrite
  grind -ring -linarith [State.modThr_wf, State.setCore_wf, State.writeSplitc_wf, State.modDev_wf]

theorem State.liveWord_wf (s : State) (hw : s.mem.wf = true) : (s.liveWord).2.mem.wf = true := by
  unfold State.liveWord
  grind -ring -linarith [State.modThr_wf]

theorem State.noiseIndex_wf (s : State) (hw : s.mem.wf = true) : (s.noiseIndex).2.mem.wf = true := by
  unfold State.noiseIndex
  grind -ring -linarith [State.threadLoad_wf]

theorem State.drawLog_wf (s : State) (hw : s.mem.wf = true) : (s.drawLog).2.mem.wf = true := by
  unfold State.drawLog
  grind -ring -linarith [State.noiseIndex_wf, State.liveWord_wf, State.modThr_wf, State.threadStore_wf]

theorem State.drawReplay_wf (s : State) (hw : s.mem.wf = true) : (s.drawReplay).2.mem.wf = true := by
  unfold State.drawReplay
  grind -ring -linarith [State.noiseIndex_wf, State.modThr_wf, State.threadLoad_wf, State.threadStore_wf]

theorem State.draw_wf (s : State) (hw : s.mem.wf = true) : (s.draw).2.mem.wf = true := by
  unfold State.draw
  grind -ring -linarith [State.drawLog_wf, State.drawReplay_wf, State.liveWord_wf]

theorem State.draws_wf (s : State) (fuel : Nat) (hw : s.mem.wf = true) : (s.draws fuel).2.mem.wf = true := by
  induction fuel generalizing s with
  | zero => exact hw
  | succ fuel ih =>
    unfold State.draws
    grind -ring -linarith [State.draw_wf]

theorem State.notePoison_wf (s : State) (x : Trap) (hw : s.mem.wf = true) : (s.notePoison x).mem.wf = true := by
  unfold State.notePoison
  grind -ring -linarith [State.noteUncorrectable_wf]

theorem State.checkBytes_wf (s : State) (k : AccKind) (p : Nat) (fuel : Nat) (e1 : Option Fail) (e2 : List Piece)
    (hw : s.mem.wf = true) :
    (s.checkBytes k p fuel e1 e2).2.mem.wf = true := by
  induction fuel generalizing s e1 e2 with
  | zero => exact hw
  | succ fuel ih =>
    unfold State.checkBytes
    grind -ring -linarith [State.access_wf]

theorem State.moveBytes_wf (s : State) (fill : Byte) (l : List Piece) (e1 : List Piece) (hw : s.mem.wf = true) :
    (s.moveBytes fill l e1).mem.wf = true := by
  induction l generalizing s e1 with
  | nil => exact hw
  | cons x xs ih =>
    unfold State.moveBytes
    grind -ring -linarith [State.loadPiece_wf, State.storePiece_wf, Mem.fill_wf]

theorem State.blockStep_wf (s : State) (mov : Bool) (dst src n : Nat) (fill : Byte) (hw : s.mem.wf = true) {u : State}
    (he : s.blockStep mov dst src n fill = .ok u) : u.mem.wf = true := by
  unfold State.blockStep at he
  grind -ring -linarith [State.checkBytes_wf, State.moveBytes_wf]

theorem State.blockNext_wf (s : State) (mov : Bool) (d a b : Name) (n : Nat) (hw : s.mem.wf = true) :
    (s.blockNext mov d a b n).mem.wf = true := hw

theorem State.vqPush_wf (s : State) (hw : s.mem.wf = true) : (s.vqPush).mem.wf = true := hw

theorem State.accessAll_wf (s : State) (k : AccKind) (l : List (Nat × Nat × Nat)) (hw : s.mem.wf = true) :
    (s.accessAll k l).2.mem.wf = true := by
  induction l generalizing s with
  | nil => exact hw
  | cons x xs ih =>
    unfold State.accessAll
    grind -ring -linarith [State.access_wf]

theorem State.accessLanes_wf (s : State) (k : AccKind) (l : List (Nat × Nat × Nat)) (hw : s.mem.wf = true) :
    (s.accessLanes k l).2.mem.wf = true := by
  induction l generalizing s with
  | nil => exact hw
  | cons x xs ih =>
    unfold State.accessLanes
    grind -ring -linarith [State.access_wf]

theorem State.resPrepare_wf (s : State) (core : Nat) (x : Piece)
    (hw : s.mem.wf = true) : (s.resPrepare core x).mem.wf = true := by
  unfold State.resPrepare
  grind -ring -linarith [State.settle_wf, State.flushLine_wf]

theorem State.fePrepare_wf (s : State) (x : Piece) (hw : s.mem.wf = true) : (s.fePrepare x).mem.wf = true := by
  unfold State.fePrepare
  grind -ring -linarith [State.resPrepare_wf, State.modMem_mem, Mem.holdAlone_wf]

theorem State.feLoad_wf (s : State) (x : Piece) (hw : s.mem.wf = true) : (s.feLoad x).2.mem.wf = true := by
  unfold State.feLoad
  grind -ring -linarith [State.fePrepare_wf, State.atomicAt_wf]

theorem State.feHolds_wf (s : State) (x : Piece) (full : Bool) (hw : s.mem.wf = true) : (s.feHolds x full).2.mem.wf = true := by
  unfold State.feHolds
  grind -ring -linarith [State.choose_wf]

theorem State.feStore_wf (s : State) (x : Piece) (v : Nat) (hw : s.mem.wf = true) : (s.feStore x v).mem.wf = true := by
  unfold State.feStore
  grind -ring -linarith [State.fePrepare_wf, State.levelStore_wf, State.modMem_mem, Mem.sramWrite_wf, State.changeFull_wf]

theorem State.readFull_wf (s : State) (x : Piece) (hw : s.mem.wf = true) : (s.readFull x).2.mem.wf = true := by
  unfold State.readFull
  grind -ring -linarith [State.choose_wf]

theorem State.addPartial_wf (s : State) (core pa owner : Nat) (op : RedOp) (sc : Scope) (v : Word) (hw : s.mem.wf = true) :
    (s.addPartial core pa owner op sc v).mem.wf = true := by
  unfold State.addPartial
  grind -ring -linarith [State.modMem_mem, State.settle_wf, State.makeRoom_wf, State.writeBackLine_wf, Mem.putLine_wf, Mem.wf]

theorem State.reduceAt_wf (s : State) (core : Nat) (x : Piece) (op : RedOp) (sc : Scope) (v : Word) (hw : s.mem.wf = true) :
    (s.reduceAt core x op sc v).mem.wf = true := by
  unfold State.reduceAt
  grind -ring -linarith [State.atomicAt_wf, State.addPartial_wf]

theorem State.addRf_wf (s : State) (core pa pol : Nat) (sc : Scope) (v : FVal) (hw : s.mem.wf = true) :
    (s.addRf core pa pol sc v).mem.wf = true := by
  unfold State.addRf
  grind -ring -linarith [State.modMem_mem, State.settle_wf, State.makeRoom_wf, State.flushLine_wf, State.pushRf_wf, Mem.wf]

theorem State.wakeBasin_wf (s : State) (pa : Nat) (hw : s.mem.wf = true) : (s.wakeBasin pa).mem.wf = true := by
  unfold State.wakeBasin
  grind -ring -linarith [State.pushReceived_wf, State.completeParty_wf, foldl_wf]

theorem State.putBasin_wf (s : State) (pa : Nat) (old new : Basin) (hw : s.mem.wf = true) :
    (s.putBasin pa old new).mem.wf = true := by
  unfold State.putBasin
  grind -ring -linarith [State.levelWrite_wf, State.wakeBasin_wf]

theorem State.basinUpdate_wf (s : State) (ctx va c err : Nat) (user : Bool) (master : Nat) (hw : s.mem.wf = true) :
    (s.basinUpdate ctx va c err user master).mem.wf = true := by
  unfold State.basinUpdate
  grind -ring -linarith [State.errRecord_wf, State.engineVa_wf, State.rmw_wf, State.levelRead_wf, State.putBasin_wf]

theorem State.putLaunch_wf (s : State) (ctx j off w : Nat)
    (hw : s.mem.wf = true) : (s.putLaunch ctx j off w).mem.wf = true := by
  unfold State.putLaunch
  grind -ring -linarith [State.sysPut_wf]

theorem State.setLaunch_wf (s : State) (ctx j off lo n v : Nat) (hw : s.mem.wf = true) :
    (s.setLaunch ctx j off lo n v).mem.wf = true := by
  unfold State.setLaunch
  grind -ring -linarith [State.putLaunch_wf]

theorem State.setLaunchState_wf (s : State) (ctx j v : Nat)
    (hw : s.mem.wf = true) : (s.setLaunchState ctx j v).mem.wf = true := by
  unfold State.setLaunchState
  grind -ring -linarith [State.setLaunch_wf]

theorem State.launchBasin_wf (s : State) (ctx j c err : Nat)
    (hw : s.mem.wf = true) : (s.launchBasin ctx j c err).mem.wf = true := by
  unfold State.launchBasin
  grind -ring -linarith [State.basinUpdate_wf]

theorem State.idleLaunch_wf (s : State) (ctx j : Nat) (hw : s.mem.wf = true) : (s.idleLaunch ctx j).mem.wf = true := by
  unfold State.idleLaunch
  grind -ring -linarith [State.setLaunchState_wf, State.setLaunch_wf]

theorem State.completeLaunch_wf (s : State) (ctx j status : Nat) (hw : s.mem.wf = true) :
    (s.completeLaunch ctx j status).2.mem.wf = true := by
  unfold State.completeLaunch
  grind -ring -linarith [State.setLaunch_wf, State.idleLaunch_wf, State.launchBasin_wf]

theorem State.gateRead_wf (s : State) (ctx va : Nat) (hw : s.mem.wf = true) : (s.gateRead ctx va).2.mem.wf = true := by
  unfold State.gateRead
  grind -ring -linarith [State.engineVa_wf, Mem.recall_wf, State.levelRead_wf]

theorem State.launchMoment_wf (s : State) (ctx j : Nat) (hw : s.mem.wf = true) : (s.launchMoment ctx j).2.mem.wf = true := by
  unfold State.launchMoment
  grind -ring -linarith [State.gateRead_wf, State.completeLaunch_wf, State.setLaunchState_wf]

theorem State.launchTrigger_wf (s : State) (ctx j : Nat) (hw : s.mem.wf = true) : (s.launchTrigger ctx j).2.mem.wf = true := by
  unfold State.launchTrigger
  grind -ring -linarith [State.setLaunchState_wf, State.launchMoment_wf]

theorem State.decrement_wf (s : State) (ctx : Nat) (d : Decr) (hw : s.mem.wf = true) : (s.decrement ctx d).2.mem.wf = true := by
  unfold State.decrement
  grind -ring -linarith [State.setLaunch_wf, State.basinUpdate_wf, State.launchTrigger_wf]

theorem State.decrementAll_wf (s : State) (ctx : Nat) (fuel : Nat) (e1 : List Decr) (hw : s.mem.wf = true) :
    (s.decrementAll ctx fuel e1).mem.wf = true := by
  induction fuel generalizing s e1 with
  | zero => exact hw
  | succ fuel ih =>
    unfold State.decrementAll
    grind -ring -linarith [State.decrement_wf]

theorem State.settleLaunch_wf (p : List Decr × State) (ctx : Nat) (hw : p.2.mem.wf = true) :
    (State.settleLaunch p ctx).mem.wf = true := by
  unfold State.settleLaunch
  grind -ring -linarith [State.decrementAll_wf]

theorem State.threadGone_wf (s : State) (ctx j : Nat) (hw : s.mem.wf = true) : (s.threadGone ctx j).mem.wf = true := by
  unfold State.threadGone
  grind -ring -linarith [State.setLaunch_wf, State.settleLaunch_wf, State.completeLaunch_wf]

theorem State.launchRecord_wf (s : State) (ctx j n i k : Nat) (sc : Scope) (hw : s.mem.wf = true) :
    (s.launchRecord ctx j n i k sc).2.2.mem.wf = true := by
  unfold State.launchRecord
  grind -ring -linarith [State.writeFresh_wf, State.setRecInfo_wf]

theorem State.launchThreads_wf (s : State) (ctx j n : Nat) (sc : Scope) (fuel : Nat) (e1 : Nat) (hw : s.mem.wf = true) :
    (s.launchThreads ctx j n sc fuel e1).mem.wf = true := by
  induction fuel generalizing s e1 with
  | zero => exact hw
  | succ fuel ih =>
    unfold State.launchThreads
    grind -ring -linarith [State.takeRecord_wf, State.launchRecord_wf, State.enqueueReady_wf]

theorem State.takeLaunch_wf (s : State) (p : PendLaunch) (hw : s.mem.wf = true) : (s.takeLaunch p).mem.wf = true := by
  unfold State.takeLaunch
  grind -ring -linarith [State.setLaunchState_wf, State.setLaunch_wf, State.launchThreads_wf]

theorem State.asyncError_wf (s : State) (ctx k : Nat) (x : Trap)
    (hw : s.mem.wf = true) : (s.asyncError ctx k x).mem.wf = true := by
  unfold State.asyncError
  grind -ring -linarith [State.errRecord_wf, State.putThread_wf, State.setRecInfo_wf]

theorem State.nqPush_wf (s : State) (op : NoriaOp) (hw : s.mem.wf = true) : (s.nqPush op).2.mem.wf = true := hw

theorem State.release'_wf (s : State) (core ctx k : Nat) (ts ss : List Nat)
    (hw : s.mem.wf = true) {u : State} (he : s.release' core ctx k ts ss = some u) :
    u.mem.wf = true := by
  unfold State.release' at he
  grind -ring -linarith [State.acquire_wf, State.setQuad_wf]

theorem State.runPieces_wf (s : State) (l : List (Nat × Nat)) (hw : s.mem.wf = true) : (s.runPieces l).2.mem.wf = true := by
  induction l generalizing s with
  | nil => exact hw
  | cons x xs ih =>
    unfold State.runPieces
    grind -ring -linarith [State.engineAccess_wf]

theorem State.loadRead_wf (s : State) (core : Nat) (col : Bool) (x : Piece) (hw : s.mem.wf = true) :
    (s.loadRead core col x).2.2.mem.wf = true := by
  unfold State.loadRead
  grind -ring -linarith [State.settle_wf, State.writeBackLine_wf, State.l2Bytes_wf]

theorem State.loadReads_wf (s : State) (core : Nat) (col : Bool) (l : List Piece) (hw : s.mem.wf = true) :
    (s.loadReads core col l).2.2.mem.wf = true := by
  induction l generalizing s with
  | nil => exact hw
  | cons x xs ih =>
    unfold State.loadReads
    grind -ring -linarith [State.loadRead_wf]

theorem State.readRuns_wf (s : State) (col : Bool) (l : List (List Piece)) (hw : s.mem.wf = true) :
    (s.readRuns col l).2.2.mem.wf = true := by
  induction l generalizing s with
  | nil => exact hw
  | cons x xs ih =>
    unfold State.readRuns
    grind -ring -linarith [State.loadReads_wf]

theorem State.rowBytes_wf (s : State) (p : Nat) (hw : s.mem.wf = true) : (s.rowBytes p).2.mem.wf = true := by
  unfold State.rowBytes
  grind -ring -linarith [State.access_wf, State.loadBytes_wf]

theorem State.mrunStep_wf (s : State) (p h : Nat) (hw : s.mem.wf = true) {u : State} (he : s.mrunStep p h = .ok u) :
    u.mem.wf = true := by
  unfold State.mrunStep at he
  grind -ring -linarith [State.rowBytes_wf, State.nqPush_wf]

theorem State.mrunStep_error_wf (s : State) (p h : Nat) (hw : s.mem.wf = true) {x : Trap} {u : State}
    (he : s.mrunStep p h = .error (x, u)) : u.mem.wf = true := by
  unfold State.mrunStep at he
  grind -ring -linarith [State.rowBytes_wf, State.nqPush_wf]

theorem State.readEntry_wf (s : State) (h : Nat) (hw : s.mem.wf = true) : (s.readEntry h).2.mem.wf = true := by
  unfold State.readEntry
  grind -ring -linarith [State.threadLoad_wf]

theorem State.takeRecords_wf (s : State) (ctx : Nat) (fuel : Nat) (hw : s.mem.wf = true) :
    (s.takeRecords ctx fuel).2.mem.wf = true := by
  induction fuel generalizing s with
  | zero => exact hw
  | succ fuel ih =>
    unfold State.takeRecords
    grind -ring -linarith [State.takeRecord_wf, State.setRecInfo_wf]

theorem State.reserve_wf (s : State) (core : Nat) (slots : List Nat) (on : Bool) (hw : s.mem.wf = true) :
    (s.reserve core slots on).mem.wf = true := by
  unfold State.reserve
  grind -ring -linarith [State.setCore_wf, foldl_wf]

theorem State.unregister_wf (s : State) (core : Nat) (hw : s.mem.wf = true) : (s.unregister core).mem.wf = true := by
  unfold State.unregister
  grind -ring -linarith [State.setCore_wf, State.reserve_wf, State.modCtx_wf]

theorem State.registerHandler_wf (s : State) (core : Nat) (t : Thread) (h : Nat) (handle pc maph : Word)
    (hw : s.mem.wf = true) :
    (s.registerHandler core t h handle pc maph).mem.wf = true := by
  unfold State.registerHandler
  grind -ring -linarith [State.takeRecords_wf, State.reserve_wf, State.setCore_wf]

theorem State.rowDone_wf (s : State) (core : Nat) (h : HandlerId)
    (hw : s.mem.wf = true) : (s.rowDone core h).mem.wf = true := by
  unfold State.rowDone
  grind -ring -linarith [State.release_wf, State.setQuad_wf]

theorem State.noriaAnswer_wf (s : State) (core : Nat) (e : NqEntry) (f : Thread → Thread) (hw : s.mem.wf = true) :
    (s.noriaAnswer core e f).mem.wf = true := by
  unfold State.noriaAnswer
  grind -ring -linarith [State.completeParty_wf]

theorem State.noriaZ_wf (s : State) (core : Nat) (e : NqEntry) (z : Bool) (hw : s.mem.wf = true) :
    (s.noriaZ core e z).mem.wf = true := by
  unfold State.noriaZ
  grind -ring -linarith [State.noriaAnswer_wf, State.retire_wf]

theorem State.acquireAt_wf (s : State) (core : Nat) (e : NqEntry) (tiles slots : List Nat) (hw : s.mem.wf = true) :
    (s.acquireAt core e tiles slots).mem.wf = true := by
  unfold State.acquireAt
  grind -ring -linarith [State.noriaZ_wf, State.setQuad_wf]

theorem State.tryRelease_wf (s : State) (q : Nat) (l : LoadStep) (hw : s.mem.wf = true) : (s.tryRelease q l).mem.wf = true := by
  unfold State.tryRelease
  grind -ring -linarith [State.release_wf, State.release'_wf, State.setQuad_wf, State.noriaAnswer_wf, State.retire_wf]

theorem State.registerAt_wf (s : State) (core : Nat) (e : NqEntry) (h : Nat) (handle pc maph : Word) (hw : s.mem.wf = true) :
    (s.registerAt core e h handle pc maph).mem.wf = true := by
  unfold State.registerAt
  grind -ring -linarith [State.noriaZ_wf, State.unregister_wf, State.registerHandler_wf]

theorem State.checkAt_wf (s : State) (core : Nat) (e : NqEntry) (tile : Nat) (on : Bool) (hw : s.mem.wf = true) :
    (s.checkAt core e tile on).mem.wf = true := by
  unfold State.checkAt
  grind -ring -linarith [State.setQuad_wf, State.pushReceived_wf, State.completeParty_wf, State.modThread_wf]

theorem State.takeEntry_wf (s : State) (core : Nat) (e : NqEntry)
    (hw : s.mem.wf = true) : (s.takeEntry core e).mem.wf = true := by
  unfold State.takeEntry
  grind -ring -linarith [State.setQuad_wf, State.load_wf, State.acquire_wf, State.acquireAt_wf, State.release_wf,
    State.tryRelease_wf, State.registerAt_wf, State.checkAt_wf]

theorem State.noriaTake_wf (s : State) (q : Nat) (l : List Nat) (hw : s.mem.wf = true) : (s.noriaTake q l).mem.wf = true := by
  induction l generalizing s with
  | nil => exact hw
  | cons x xs ih =>
    unfold State.noriaTake
    grind -ring -linarith [State.setCore_wf, State.takeEntry_wf]

theorem State.noriaTurn_wf (s : State) (q : Nat) (hw : s.mem.wf = true) : (s.noriaTurn q).mem.wf = true := by
  unfold State.noriaTurn
  grind -ring -linarith [State.tryRelease_wf, State.noriaTake_wf, foldl_wf]

theorem State.askNoria_wf (s : State) (op : NoriaOp) (f : Nat → State → State) (hw : s.mem.wf = true)
    (hf : ∀ id t, t.mem.wf = true → (f id t).mem.wf = true) : (s.askNoria op f).mem.wf = true := by
  unfold State.askNoria
  grind -ring -linarith [State.nqPush_wf, State.noriaTurn_wf]

theorem State.freeRow_wf (s : State) (nb : Nat) (vals : List (BitVec 32)) (hw : s.mem.wf = true) :
    (s.freeRow nb vals).2.mem.wf = true := hw

theorem State.mismatch_wf (s : State) (q core : Nat) (e : NqEntry) (slot tok x1 : Nat) (hw : s.mem.wf = true) :
    (s.mismatch q core e slot tok x1).mem.wf = true := by
  unfold State.mismatch
  grind -ring -linarith [State.setQuad_wf, State.modDev_wf, State.errRecord_wf, State.asyncError_wf]

theorem State.writeRow_wf (s : State) (q core : Nat) (e : NqEntry) (b : BSlot) (hw : s.mem.wf = true) :
    (s.writeRow q core e b).mem.wf = true := by
  unfold State.writeRow
  grind -ring -linarith [State.freeRow_wf, State.setQuad_wf, State.mismatch_wf, State.setThreadTok_wf]

theorem State.endChecks_wf (s : State) (quad : Nat) (fuel : Nat)
    (hw : s.mem.wf = true) : (s.endChecks quad fuel).mem.wf = true := by
  induction fuel generalizing s with
  | zero => exact hw
  | succ fuel ih =>
    unfold State.endChecks
    grind -ring -linarith [State.setQuad_wf, State.checkAt_wf]

theorem State.answer_wf (s : State) (ctx k : Nat) (aw : Await) (hw : s.mem.wf = true) : (s.answer ctx k aw).mem.wf = true := by
  unfold State.answer
  grind -ring -linarith [State.modThread_wf]

theorem State.finishLoad_wf (s : State) (q : Nat) (l : LoadStep) (hw : s.mem.wf = true) : (s.finishLoad q l).mem.wf = true := by
  unfold State.finishLoad
  grind -ring -linarith [State.load_wf, State.setQuad_wf, State.errRecord_wf, State.asyncError_wf, State.answer_wf]

theorem State.startHandler_wf (s : State) (core slot k : Nat) (h : HandlerReg) (r : DrainedRow) (hw : s.mem.wf = true) :
    (s.startHandler core slot k h r).mem.wf = true := by
  unfold State.startHandler
  grind -ring -linarith [State.writeFresh_wf, State.placeRecord_wf, State.modThread_wf, foldl_wf]

theorem State.quitNoria_wf (s : State) (core : Nat) (t : Thread)
    (hw : s.mem.wf = true) : (s.quitNoria core t).2.mem.wf = true := by
  unfold State.quitNoria
  grind -ring -linarith [State.rowDone_wf, State.release'_wf, State.unregister_wf]

theorem State.sendRecord_wf (s : State) (ctx k : Nat) (aff : Option Nat) (hw : s.mem.wf = true) :
    (s.sendRecord ctx k aff).mem.wf = true := by
  unfold State.sendRecord
  grind -ring -linarith [State.enqueueReady_wf, State.placeRecord_wf]

theorem State.spawnRecord_wf (s : State) (k : Nat) (pc maph : Word) (args : List Nat) (aff : Option Nat)
    (hw : s.mem.wf = true) :
    (s.spawnRecord k pc maph args aff).mem.wf = true := by
  unfold State.spawnRecord
  grind -ring -linarith [State.writeFresh_wf, State.setRecInfo_wf, State.release_wf, State.sendRecord_wf]

theorem State.endThread_wf (s : State) (core slot : Nat) (t : Thread) (hw : s.mem.wf = true) :
    (s.endThread core slot t).mem.wf = true := by
  unfold State.endThread
  grind -ring -linarith [State.quitSteps_wf, State.freeSlot_wf, State.returnRecord_wf, State.threadGone_wf]

theorem State.takeReady_wf (s : State) (core slot ctx : Nat) (own : Bool) (k : Nat) (hw : s.mem.wf = true) :
    (s.takeReady core slot ctx own k).mem.wf = true := by
  unfold State.takeReady
  grind -ring -linarith [State.popReady_wf, State.setCore_wf, State.placeRecord_wf]

end Sys2Proof.Machine
end

section
/-! PROOFS. Memory keeps its one form through copies, launches, the fabric, contexts, bring-up and the other engines (log 4). -/

namespace Sys2Proof.Machine
open Sys2Proof

theorem State.packetPoison_wf (s : State) (master ctx addr : Nat) (hw : s.mem.wf = true) :
    (s.packetPoison master ctx addr).mem.wf = true := by
  unfold State.packetPoison
  grind -ring -linarith [State.errRecord_wf]

theorem State.copyUpdate_wf (s : State) (master ctx op a : Nat) (x : List Byte) (hw : s.mem.wf = true) :
    (s.copyUpdate master ctx op a x).2.mem.wf = true := by
  unfold State.copyUpdate
  grind -ring -linarith [State.engineAccess_wf, State.rmw_wf, State.homeStorePieces_wf, State.packetPoison_wf,
    State.homePieces_wf]

theorem State.oneElem_wf (s : State) (first : SrcElem) (others : List SrcElem) (hw : s.mem.wf = true) :
    (s.oneElem first others).2.mem.wf = true := by
  unfold State.oneElem
  grind -ring -linarith [State.choose_wf]

theorem State.globalElem_wf (s : State) (core pa e : Nat)
    (hw : s.mem.wf = true) : (s.globalElem core pa e).2.mem.wf = true := by
  unfold State.globalElem
  grind -ring -linarith [State.levelRead_wf]

theorem Mem.putBuf_wf (m : Mem) (y : BufLine) (hw : m.wf = true) : (m.putBuf y).wf = true := hw

theorem Mem.clearBuf_wf (m : Mem) (core : Nat) (hw : m.wf = true) : (m.clearBuf core).wf = true := hw

theorem CopyRun.take_wf (r : CopyRun) (ctx : Nat) (x : SrcElem × State) (hw : x.2.mem.wf = true) :
    (r.take ctx x).2.s.mem.wf = true := by
  have h1 : (x.1.line.elim x.2 (fun y => x.2.modMem (fun m => m.putBuf y))).mem.wf = true := by
    cases x.1.line with
    | none => exact hw
    | some y => exact Mem.putBuf_wf _ _ hw
  unfold CopyRun.take
  dsimp only
  cases x.1.bad with
  | none => exact h1
  | some a => exact State.packetPoison_wf _ _ _ _ h1

theorem CopyRun.read_wf (r : CopyRun) (ctx a e : Nat) (hw : r.s.mem.wf = true) : (r.read ctx a e).2.s.mem.wf = true := by
  unfold CopyRun.read
  grind -ring -linarith [State.engineAccess_wf, State.externalRead_wf, State.globalElem_wf, CopyRun.take_wf, State.oneElem_wf]

theorem CopyRun.write_wf (r : CopyRun) (ctx op a : Nat) (x : List Byte) (hw : r.s.mem.wf = true) :
    (r.write ctx op a x).s.mem.wf = true := by
  unfold CopyRun.write
  grind -ring -linarith [State.engineAccess_wf, State.rmw_wf, State.copyUpdate_wf]

theorem CopyRun.elem_wf (r : CopyRun) (p : CopyPkt) (ctx : Nat) (i : Nat) (hw : r.s.mem.wf = true) :
    (r.elem p ctx i).s.mem.wf = true := by
  unfold CopyRun.elem
  grind -ring -linarith [CopyRun.read_wf, CopyRun.write_wf, Mem.fill_wf, CopyRun.take_wf]

theorem CopyRun.go_wf (p : CopyPkt) (ctx fuel i : Nat) (r : CopyRun) (hw : r.s.mem.wf = true) :
    (CopyRun.go p ctx fuel i r).s.mem.wf = true := by
  induction fuel generalizing i r with
  | zero => exact hw
  | succ fuel ih => exact ih _ _ (r.elem_wf p ctx i hw)

theorem State.setPacket_wf (s : State) (p : Packet) (hw : s.mem.wf = true) : (s.setPacket p).mem.wf = true := hw

theorem State.freezeMaster_wf (s : State) (m : Master) (id : Nat) (req : HeldReq) (ctx addr cause x1 : Nat)
    (hw : s.mem.wf = true) :
    (s.freezeMaster m id req ctx addr cause x1).mem.wf = true := by
  unfold State.freezeMaster
  grind -ring -linarith [State.errRecord_wf]

theorem State.dequeuePacket_wf (s : State) (base entry fcb : Nat) (coll : Bool) (hw : s.mem.wf = true) :
    (s.dequeuePacket base entry fcb coll).mem.wf = true := by
  unfold State.dequeuePacket
  grind -ring -linarith [State.freezeMaster_wf, State.fcbOpen_wf, State.flumeDeq_wf, State.fresh_wf]

theorem State.runPacket_wf (s : State) (p : Packet) (c : CopyPkt) (hw : s.mem.wf = true) : (s.runPacket p c).mem.wf = true := by
  unfold State.runPacket
  refine State.setPacket_wf _ _ (CopyRun.go_wf _ _ _ _ _ ?_)
  dsimp only
  split
  · exact Mem.clearBuf_wf _ _ hw
  · exact hw

theorem State.tokenEvent_wf (s : State) (p : Packet) (was v : Nat)
    (hw : s.mem.wf = true) : (s.tokenEvent p was v).mem.wf = true := by
  unfold State.tokenEvent
  grind -ring -linarith [State.setThreadTok_wf]

theorem State.finishPacket_wf (s : State) (p : Packet) (hw : s.mem.wf = true) : (s.finishPacket p).mem.wf = true := by
  unfold State.finishPacket
  grind -ring -linarith [State.tokenEvent_wf, State.basinUpdate_wf]

theorem State.patched_wf (s : State) (ctx j item : Nat) (b : Name)
    (hw : s.mem.wf = true) {u : State} (he : s.patched ctx j item b = some u) :
    u.mem.wf = true := by
  unfold State.patched at he
  grind -ring -linarith [State.putLaunch_wf, State.setLaunch_wf, foldl_wf]

theorem State.releaseOfftake_wf (s : State) (p : List Word) (hw : s.mem.wf = true) : (s.releaseOfftake p).mem.wf = true := by
  unfold State.releaseOfftake
  grind -ring -linarith [State.release_wf]

theorem State.sendOfftake_wf (s : State) (who : Party) (p : List Word) (hw : s.mem.wf = true) :
    (s.sendOfftake who p).2.mem.wf = true := hw

theorem State.statusAt_wf (s : State) (who : Party) (t : Thread) (d : Name) (code : Nat) (hw : s.mem.wf = true) :
    (s.statusAt who t d code).mem.wf = true := by
  unfold State.statusAt
  grind -ring -linarith [State.wakeParty_wf, State.modSlotParty_wf, State.pushReceived_wf, State.completeParty_wf]

theorem State.answerOfftake_wf (s : State) (id code : Nat)
    (hw : s.mem.wf = true) : (s.answerOfftake id code).mem.wf = true := by
  unfold State.answerOfftake
  split
  · exact hw
  · dsimp only
    split
    · split
      · split
        · split
          · exact State.statusAt_wf _ _ _ _ _ hw
          · exact State.modThread_wf _ _ _ _ hw
        · exact State.modThread_wf _ _ _ _ hw
      · exact hw
    · exact hw

theorem State.countRefused_wf (s : State) (hw : s.mem.wf = true) : (s.countRefused).mem.wf = true := hw

theorem State.checkOfftake_wf (s : State) (p : List Word) (hw : s.mem.wf = true) : (s.checkOfftake p).2.2.mem.wf = true := by
  unfold State.checkOfftake
  grind -ring -linarith [State.countRefused_wf, State.fcbOpen_wf, State.flumeEnq_wf, State.modDev_wf]

theorem State.holdRequest_wf (s : State) (m : Master) (r : HeldReq)
    (hw : s.mem.wf = true) : (s.holdRequest m r).mem.wf = true := hw

theorem State.portOfftake_wf (s : State) (p : Nat) (a : Arrival)
    (hw : s.mem.wf = true) : (s.portOfftake p a).mem.wf = true := by
  unfold State.portOfftake
  grind -ring -linarith [State.holdRequest_wf, State.checkOfftake_wf, State.freezeMaster_wf]

theorem State.takeHead_wf (s : State) (h : Head) (hw : s.mem.wf = true) : (s.takeHead h).2.mem.wf = true := by
  unfold State.takeHead
  grind -ring -linarith [State.fcbOpen_wf, State.flumeDeq_wf]

theorem State.fireOfftake_wf (s : State) (p : List Word) (ctx j : Nat) (hw : s.mem.wf = true) :
    (s.fireOfftake p ctx j).mem.wf = true := by
  unfold State.fireOfftake
  grind -ring -linarith [State.putLaunch_wf, State.settleLaunch_wf, State.setLaunch_wf, State.launchTrigger_wf, foldl_wf]

theorem State.busWrite_wf (s : State) (pa : Nat) (bs : List Byte) (ctx : Nat) (host : Bool) (hw : s.mem.wf = true) :
    (s.busWrite pa bs ctx host).mem.wf = true := by
  unfold State.busWrite
  grind -ring -linarith [State.modMem_mem, Mem.homeStore_wf, State.homeStorePieces_wf, foldl_wf, Mem.foldl_wf]

theorem State.busRead_wf (s : State) (pa : Nat) (bs : List Byte) (hw : s.mem.wf = true) : (s.busRead pa bs).mem.wf = true := by
  unfold State.busRead
  grind -ring -linarith [State.levelRead_wf, foldl_wf]

theorem State.homeUpdate_wf (s : State) (pa n ctx : Nat) (f : Nat → Nat) (hw : s.mem.wf = true) :
    (s.homeUpdate pa n ctx f).2.mem.wf = true := by
  unfold State.homeUpdate
  grind -ring -linarith [State.levelRead_wf, State.levelWrite_wf]

theorem State.busGroup_wf (s : State) (r : BusReq) (f : GroupWord → GroupWord) (wait : Bool) (hw : s.mem.wf = true) :
    (s.busGroup r f wait).mem.wf = true := by
  unfold State.busGroup
  grind -ring -linarith [State.homeUpdate_wf, State.wakeGroup_wf]

theorem State.busBasin_wf (s : State) (r : BusReq) (f : Basin → State → State)
    (hf : ∀ b t, t.mem.wf = true → (f b t).mem.wf = true) (hw : s.mem.wf = true) : (s.busBasin r f).mem.wf = true := by
  unfold State.busBasin
  grind -ring -linarith [State.levelRead_wf]

theorem State.busWord_wf (s : State) (r : BusReq) (op : FeOp) (always : Bool) (hw : s.mem.wf = true) :
    (s.busWord r op always).mem.wf = true := by
  unfold State.busWord
  grind -ring -linarith [State.completeFe_wf, State.serveFe_wf]

theorem State.busReserve_wf (s : State) (r : BusReq) (hw : s.mem.wf = true) : (s.busReserve r).mem.wf = true := by
  unfold State.busReserve
  grind -ring -linarith

theorem State.busRelease_wf (s : State) (r : BusReq) (store : Bool) (hw : s.mem.wf = true) :
    (s.busRelease r store).mem.wf = true := by
  unfold State.busRelease
  grind -ring -linarith [State.store_wf, State.handOn_wf, State.levelStore_wf]

theorem State.busWithdraw_wf (s : State) (r : BusReq) (hw : s.mem.wf = true) : (s.busWithdraw r).mem.wf = true := by
  unfold State.busWithdraw
  grind -ring -linarith [State.homeUpdate_wf]

theorem State.busBarm_wf (s : State) (r : BusReq) (n : Nat) (hw : s.mem.wf = true) :
    (s.busBasin r (fun b t => t.putBasin r.addr b (b.update n 0))).mem.wf = true := by
  unfold State.busBasin
  dsimp only
  split
  · exact State.putBasin_wf _ _ _ _ (s.levelRead_wf _ _ _ _ hw)
  · exact s.levelRead_wf _ _ _ _ hw

theorem State.busPerform_wf (s : State) (r : BusReq) (host : Bool) (hw : s.mem.wf = true) :
    (s.busPerform r host).mem.wf = true := by
  unfold State.busPerform
  generalize leNat r.bytes % 2 ^ 64 = x
  dsimp only
  generalize lowBits 32 (-(x : Int)) = y
  split
  · exact State.busRead_wf _ _ _ hw
  · exact State.busWrite_wf _ _ _ _ _ hw
  · split
    · exact hw
    · split
      · split
        · exact hw
        · exact State.pushRf_wf _ _ hw
      · split
        · exact hw
        · exact State.busGroup_wf _ _ _ _ hw
      · split
        · exact hw
        · exact State.busGroup_wf _ _ _ _ hw
      · split
        · exact hw
        · exact State.busGroup_wf _ _ _ _ hw
      · exact s.busBarm_wf r y hw
      · refine State.busBasin_wf _ _ _ (fun b t ht => ?_) hw
        exact t.putBasin_wf _ _ _ ht
      · refine State.busBasin_wf _ _ _ (fun b t ht => ?_) hw
        split
        · exact ht
        · exact ht
      · exact State.busWord_wf _ _ _ _ hw
      · exact State.busWord_wf _ _ _ _ hw
      · exact State.busWord_wf _ _ _ _ hw
      · exact State.busWord_wf _ _ _ _ hw
      · exact State.changeFull_wf _ _ _ hw
      · exact State.changeFull_wf _ _ _ hw
      · exact State.busReserve_wf _ _ hw
      · exact State.busRelease_wf _ _ _ hw
      · exact State.busRelease_wf _ _ _ hw
      · exact State.busWithdraw_wf _ _ hw
      · split
        · exact State.homeUpdate_wf _ _ _ _ _ hw
        · exact hw

theorem State.outsideFlume_wf (s : State) (fcb : Nat) (enq : Bool) (r : FlumeReq) (hw : s.mem.wf = true) :
    (s.outsideFlume fcb enq r).mem.wf = true := by
  unfold State.outsideFlume
  split
  · exact hw
  · split
    · cases List.find? _ s.flumeWaits with
      | none => exact hw
      | some w => exact s.flumeWithdraw_wf w hw
    · grind -ring -linarith [State.fcbOpen_wf, State.flumeEnq_wf, State.flumeDeq_wf, State.flumeWait_wf]

theorem State.atPort_wf (s : State) (p addr n rctx : Nat) (writes : Bool) (req : HeldReq) (k : State → State)
    (hk : ∀ t, t.mem.wf = true → (k t).mem.wf = true)
      (hw : s.mem.wf = true) : (s.atPort p addr n rctx writes req k).mem.wf = true := by
  unfold State.atPort
  grind -ring -linarith [State.holdRequest_wf, State.freezeMaster_wf]

theorem State.portRequest_wf (s : State) (p : Nat) (r : BusReq) (hw : s.mem.wf = true) : (s.portRequest p r).mem.wf = true := by
  unfold State.portRequest
  grind -ring -linarith [State.atPort_wf, State.busPerform_wf]

theorem State.hostSram_wf (s : State) (r : BusReq) (hw : s.mem.wf = true) {u : State} (he : s.hostSram r = some u) :
    u.mem.wf = true := by
  unfold State.hostSram at he
  grind -ring -linarith [State.engineAccess_wf, State.homeStorePieces_wf]

theorem State.hostRequest_wf (s : State) (r : BusReq) (hw : s.mem.wf = true) : (s.hostRequest r).mem.wf = true := by
  unfold State.hostRequest
  dsimp only
  split
  · exact State.holdRequest_wf _ _ _ hw
  · split
    · cases h : s.hostSram r with
      | none => exact State.freezeMaster_wf _ _ _ _ _ _ _ _ hw
      | some t => exact s.hostSram_wf r hw h
    · split
      · exact State.busPerform_wf _ _ _ hw
      · exact State.freezeMaster_wf _ _ _ _ _ _ _ _ hw

theorem State.flumeRequest_wf (s : State) (fcb : Nat) (enq : Bool) (r : FlumeReq) (hw : s.mem.wf = true) :
    (s.flumeRequest fcb enq r).mem.wf = true := by
  unfold State.flumeRequest
  grind -ring -linarith [State.atPort_wf, State.outsideFlume_wf, State.holdRequest_wf, State.freezeMaster_wf]

theorem State.remoteDone_wf (s : State) (w : RemoteWait) (ws : List Word) (hw : s.mem.wf = true) :
    (s.remoteDone w ws).mem.wf = true := by
  unfold State.remoteDone
  grind -ring -linarith [State.completeParty_wf, State.retire_wf, State.completeDeq_wf, State.pushReceived_wf,
    State.deliverWord_wf, State.reserve_wf, State.deliverReserved_wf]

theorem State.remoteReply_wf (s : State) (k : Nat) (r : Reply) (hw : s.mem.wf = true) : (s.remoteReply k r).mem.wf = true := by
  unfold State.remoteReply
  grind -ring -linarith [State.remoteDone_wf, State.wakeParty_wf]

theorem State.hops_wf (s : State) (v : Int) (hw : s.mem.wf = true) : (s.hops v).2.mem.wf = true := by
  unfold State.hops
  grind -ring -linarith [State.choose_wf]

theorem State.rstat_wf (s : State) (a : Name) (item : Nat) (hw : s.mem.wf = true) : (s.rstat a item).2.mem.wf = true := by
  unfold State.rstat
  grind -ring -linarith [State.hops_wf]

theorem State.elemPieces_wf (s : State) (e : Nat) (l : List Piece)
    (hw : s.mem.wf = true) : (s.elemPieces e l).2.mem.wf = true := by
  induction l generalizing s with
  | nil => exact hw
  | cons x xs ih =>
    unfold State.elemPieces
    grind -ring -linarith [State.homePieces_wf, State.levelRead_wf]

theorem State.collRead_wf (s : State) (ctx p n e : Nat) (hw : s.mem.wf = true) : (s.collRead ctx p n e).2.mem.wf = true := by
  unfold State.collRead
  grind -ring -linarith [State.engineAccess_wf, State.elemPieces_wf]

theorem State.collWrite_wf (s : State) (ctx e p : Nat) (l : List Nat) (hw : s.mem.wf = true) :
    (s.collWrite ctx e p l).2.mem.wf = true := by
  induction l generalizing s p with
  | nil => unfold State.collWrite; exact hw
  | cons x xs ih =>
    unfold State.collWrite
    grind -ring -linarith [State.copyUpdate_wf]

theorem State.collFail_wf (s : State) (ps : List Packet) (err : Nat)
    (hw : s.mem.wf = true) : (s.collFail ps err).mem.wf = true := by
  unfold State.collFail
  grind -ring -linarith [State.setPacket_wf, foldl_wf]

theorem State.collInputs_wf (s : State) (l : List Packet) (hw : s.mem.wf = true) : (s.collInputs l).2.mem.wf = true := by
  induction l generalizing s with
  | nil => exact hw
  | cons x xs ih => exact ih _ (s.collRead_wf _ _ _ _ hw)

theorem State.collTables_wf (s : State) (l : List Packet) (hw : s.mem.wf = true) : (s.collTables l).2.mem.wf = true := by
  induction l generalizing s with
  | nil => exact hw
  | cons x xs ih =>
    unfold State.collTables
    grind -ring -linarith [State.collRead_wf]

theorem State.collFinish_wf (s : State) (c : CollPkt) (res : List Nat) (ps : List Packet) (hw : s.mem.wf = true) :
    (s.collFinish c res ps).mem.wf = true := by
  unfold State.collFinish
  grind -ring -linarith [State.setPacket_wf, State.collWrite_wf, foldl_wf, foldl_snd_wf]

theorem State.collRun_wf (s : State) (c : CollPkt) (ps : List Packet) (remote : List RemoteRank) (hw : s.mem.wf = true) :
    (s.collRun c ps remote).mem.wf = true := by
  have h1 := s.collInputs_wf ps hw
  unfold State.collRun
  dsimp only
  split
  · exact State.collFinish_wf _ _ _ _ h1
  · exact foldl_wf _ _ _ (fun t b ht => State.setPacket_wf _ _ ht) (State.collFail_wf _ _ _ h1)

theorem State.setReg_wf (s : State) (off v : Nat) (hw : s.mem.wf = true) : (s.setReg off v).mem.wf = true := hw

theorem State.placeMap_wf (s : State) (base : Nat) (hw : s.mem.wf = true) : (s.placeMap base).mem.wf = true := by
  unfold State.placeMap
  grind -ring -linarith [State.levelWrite_wf, foldl_wf]

theorem State.regEffect_wf (s : State) (off v : Nat) (hw : s.mem.wf = true) : (s.regEffect off v).mem.wf = true := by
  unfold State.regEffect
  grind -ring -linarith [State.modDev_wf, State.placeMap_wf]

theorem State.registerWrite_wf (s : State) (off : Nat) (val : Word) (hw : s.mem.wf = true) :
    (s.registerWrite off val).mem.wf = true := by
  unfold State.registerWrite
  grind -ring -linarith [State.setReg_wf, State.regEffect_wf]

theorem State.agentAccess_wf (s : State) (agent : Agent) (off : Nat) (req : HeldReq) (k : State → State)
    (hk : ∀ t, t.mem.wf = true → (k t).mem.wf = true)
      (hw : s.mem.wf = true) : (s.agentAccess agent off req k).mem.wf = true := by
  unfold State.agentAccess
  grind -ring -linarith [State.modDev_wf, State.freezeMaster_wf]

theorem State.agentWrite_wf (s : State) (agent : Agent) (off : Nat) (val : Word) (hw : s.mem.wf = true) :
    (s.agentWrite agent off val).mem.wf = true := by
  unfold State.agentWrite
  grind -ring -linarith [State.agentAccess_wf, State.registerWrite_wf]

theorem State.agentRead_wf (s : State) (agent : Agent) (off : Nat) (hw : s.mem.wf = true) :
    (s.agentRead agent off).mem.wf = true := by
  unfold State.agentRead
  grind -ring -linarith [State.agentAccess_wf, State.modDev_wf, State.answer_wf]

theorem State.setRstate_wf (s : State) (c v : Nat) (hw : s.mem.wf = true) : (s.setRstate c v).mem.wf = true := by
  unfold State.setRstate
  grind -ring -linarith [State.levelWrite_wf, State.modCtx_wf]

theorem State.withdrawFlume_wf (s : State) (w : FlumeWaiter) (hw : s.mem.wf = true) : (s.withdrawFlume w).mem.wf = true := by
  unfold State.withdrawFlume
  grind -ring -linarith [State.fcbCheck_wf, State.fcbWrite_wf]

theorem State.unarrive_wf (s : State) (x : GroupWaiter) (hw : s.mem.wf = true) : (s.unarrive x).mem.wf = true := by
  unfold State.unarrive
  grind -ring -linarith [State.atomicAt_wf]

theorem State.withdrawParty_wf (s : State) (p : Party) (hw : s.mem.wf = true) : (s.withdrawParty p).mem.wf = true := by
  unfold State.withdrawParty
  grind -ring -linarith [State.withdrawFlume_wf, State.unarrive_wf]

theorem State.leaveNoria_wf (s : State) (core : Nat) (t : Thread)
    (hw : s.mem.wf = true) : (s.leaveNoria core t).mem.wf = true := by
  unfold State.leaveNoria
  grind -ring -linarith [State.setCore_wf, State.setQuad_wf]

theorem State.withdrawSlot_wf (s : State) (c i : Nat) (t : Thread) (hw : s.mem.wf = true) :
    (s.withdrawSlot c i t).1.mem.wf = true := by
  unfold State.withdrawSlot
  grind -ring -linarith [State.dropPushes_wf, State.leaveNoria_wf, State.putThread_wf, State.withdrawParty_wf,
    State.unparkOrder_wf]

theorem State.startDrain_wf (s : State) (c : Nat) (hw : s.mem.wf = true) : (s.startDrain c).mem.wf = true := by
  unfold State.startDrain
  grind -ring -linarith [State.setRstate_wf]

theorem State.discardThread_wf (s : State) (ctx k j i : Nat)
    (hw : s.mem.wf = true) : (s.discardThread ctx k j i).mem.wf = true := by
  unfold State.discardThread
  grind -ring -linarith [State.launchRecord_wf]

theorem State.stopSlot_wf (s : State) (c i : Nat) (hw : s.mem.wf = true) : (s.stopSlot c i).mem.wf = true := by
  unfold State.stopSlot
  grind -ring -linarith [State.landSlotStores_wf, State.landAll_wf, State.withdrawSlot_wf, State.quitNoria_wf,
    State.quitSteps_wf, State.freeSlot_wf, State.discardThread_wf]

theorem State.drainSlot_wf (s : State) (c i : Nat) (hw : s.mem.wf = true) : (s.drainSlot c i).mem.wf = true := by
  unfold State.drainSlot
  grind -ring -linarith [State.release_wf, State.writeRecord_wf, State.setRecInfo_wf, State.renameParty_wf, State.freeSlot_wf]

theorem State.drainRecord_wf (s : State) (x : Ctx) (k : Nat) (hw : s.mem.wf = true) : (s.drainRecord x k).mem.wf = true := by
  unfold State.drainRecord
  grind -ring -linarith [State.withdrawParty_wf, State.quitSteps_wf, State.discardThread_wf, State.writeRecord_wf,
    State.setRecInfo_wf]

theorem State.regroupLaunch_wf (s : State) (ctx j : Nat) (hw : s.mem.wf = true) : (s.regroupLaunch ctx j).mem.wf = true := by
  unfold State.regroupLaunch
  grind -ring -linarith [State.modCtx_wf, State.setLaunchState_wf]

theorem State.saveQuads_wf (s : State) (ctx : Nat) (hw : s.mem.wf = true) : (s.saveQuads ctx).2.mem.wf = true := by
  unfold State.saveQuads
  grind -ring -linarith [State.setQuad_wf, foldl_wf]

theorem State.saveHandlers_wf (s : State) (ctx : Nat) (hw : s.mem.wf = true) : (s.saveHandlers ctx).2.mem.wf = true := by
  unfold State.saveHandlers
  grind -ring -linarith [State.setQuad_wf, State.setCore_wf, State.reserve_wf, foldl_wf]

theorem State.takeEntries_wf (s : State) (ctx : Nat) (r : Option (Nat × Nat)) (hw : s.mem.wf = true) :
    (s.takeEntries ctx r).2.mem.wf = true := by
  unfold State.takeEntries
  grind -ring -linarith [State.setRunnel_wf]

theorem State.giveEntries_wf (s : State) (ctx : Nat) (r : Option (Nat × Nat)) (es : List Word) (hw : s.mem.wf = true) :
    (s.giveEntries ctx r es).mem.wf = true := by
  unfold State.giveEntries
  grind -ring -linarith [State.setRunnel_wf]

theorem State.saveRunnels_wf (s : State) (ctx : Nat) (hw : s.mem.wf = true) : (s.saveRunnels ctx).2.mem.wf = true := by
  unfold State.saveRunnels
  grind -ring -linarith [State.takeEntries_wf, foldl_wf, foldl_snd_wf]

theorem State.freeBytes_wf (s : State) (ctx addr n : Nat) (hw : s.mem.wf = true) : (s.freeBytes ctx addr n).mem.wf = true := by
  unfold State.freeBytes
  grind -ring -linarith [State.externalRead_wf, State.sysWrite_wf]

theorem State.writeSection_wf (s : State) (ctx addr : Nat) (sec : SavedSec) (hw : s.mem.wf = true) :
    (s.writeSection ctx addr sec).mem.wf = true := by
  unfold State.writeSection
  grind -ring -linarith [State.freeBytes_wf, State.sysWrite_wf]

theorem State.writeSections_wf (s : State) (ctx addr : Nat) (l : List SavedSec) (hw : s.mem.wf = true) :
    (s.writeSections ctx addr l).mem.wf = true := by
  induction l generalizing s addr with
  | nil => exact hw
  | cons x xs ih => exact ih _ _ (s.writeSection_wf ctx addr x hw)

theorem State.sysMark_wf (s : State) (ctx addr : Nat) (hw : s.mem.wf = true) : (s.sysMark ctx addr).mem.wf = true := by
  unfold State.sysMark
  split
  · split
    · exact Mem.wf_of_cells (Mem.dropOthers_wf _ none _ hw) rfl rfl rfl
    · exact hw
  · exact hw

theorem State.writeUnits_wf (s : State) (ctx addr : Nat) (units : List (List Byte × List Nat)) (hw : s.mem.wf = true) :
    (s.writeUnits ctx addr units).mem.wf = true := by
  unfold State.writeUnits
  grind -ring -linarith [State.sysMark_wf, State.sysWrite_wf, foldl_wf]

theorem State.saveSrams_wf (s : State) (ctx addr : Nat) (hw : s.mem.wf = true) : (s.saveSrams ctx addr).2.2.mem.wf = true := by
  unfold State.saveSrams
  refine foldl_thd_wf _ _ _ (fun q x hq => ?_) hw
  exact State.setSplit_wf _ _ _ _ (Mem.clearUnits_wf _ _ _ _ (State.writeUnits_wf _ _ _ _ (State.writeSection_wf _ _ _ _ hq)))

theorem State.writeBitmap_wf (s : State) (x : Ctx) (ks : List Nat)
    (hw : s.mem.wf = true) : (s.writeBitmap x ks).mem.wf = true := by
  unfold State.writeBitmap
  grind -ring -linarith [State.sysPut_wf, foldl_wf]

theorem State.wakeDrain_wf (s : State) (ctx : Nat) (hw : s.mem.wf = true) : (s.wakeDrain ctx).mem.wf = true := by
  unfold State.wakeDrain
  grind -ring -linarith [State.pushReceived_wf, State.completeParty_wf, foldl_wf]

theorem State.moveSrams_wf (s : State) (ctx addr : Nat) (ks : List (Nat × Nat × List (List Byte × List Nat)))
    (hw : s.mem.wf = true) : (s.moveSrams ctx addr ks).2.mem.wf = true := by
  unfold State.moveSrams
  refine foldl_thd_wf _ _ _ (fun q x hq => ?_) hw
  exact State.writeUnits_wf _ _ _ _ (State.writeSection_wf _ _ _ _ hq)

theorem State.finishDrain_wf (s : State) (x : Ctx) (hw : s.mem.wf = true) : (s.finishDrain x).mem.wf = true := by
  unfold State.finishDrain
  grind -ring -linarith [State.stopSlot_wf, State.drainRecord_wf, State.saveRunnels_wf, State.drainSlot_wf,
    State.regroupLaunch_wf, State.saveQuads_wf, State.saveHandlers_wf, State.writeSections_wf, State.saveSrams_wf,
    State.moveSrams_wf, State.sysPut_wf, State.writeBitmap_wf, State.release_wf, State.modCtx_wf, State.setRstate_wf,
    State.wakeDrain_wf, foldl_wf, foldl_snd_wf]

theorem State.notePoisoned_wf (s : State) (owner ctx2 : Nat) (words : List Nat) (hw : s.mem.wf = true) :
    (s.notePoisoned owner ctx2 words).mem.wf = true := by
  unfold State.notePoisoned
  grind -ring -linarith [State.errRecord_wf, foldl_wf]

theorem State.cleanSector_wf (s : State) (x : Sector) (ctx2 : Nat) (hx : cellsWf x.cells = true) (hw : s.mem.wf = true) :
    (s.cleanSector x ctx2).mem.wf = true := by
  unfold State.cleanSector
  refine State.notePoisoned_wf _ _ _ _ ?_
  exact Mem.wf_of_cells (Mem.putSector_wf _ { x with dirty := [] } (Mem.writeBackSector_wf _ x hw) hx) rfl rfl rfl

theorem State.retireContext_wf (s : State) (x : Ctx) (hw : s.mem.wf = true) : (s.retireContext x).mem.wf = true := by
  have h1 : ((s.mem.l2.filter (fun y => decide (y.owner = x.id ∧ y.dirty ≠ []))).foldl (fun s y => s.cleanSector y 0) s).mem.wf
      = true := by
    refine foldl_wf_mem _ _ _ (fun t y hy ht => State.cleanSector_wf _ _ _ ?_ ht) hw
    exact ((Mem.wf_iff _).1 hw).2.1 y (List.mem_filter.1 hy).1
  unfold State.retireContext
  exact State.setRstate_wf _ _ _ h1

theorem State.restoreRecord_wf (s : State) (x : Ctx) (k : Nat)
    (hw : s.mem.wf = true) : (s.restoreRecord x k).mem.wf = true := by
  unfold State.restoreRecord
  grind -ring -linarith [State.setRecInfo_wf, State.enqueueReady_wf]

theorem State.resume_wf (s : State) (x : Ctx) (hw : s.mem.wf = true) : (s.resume x).mem.wf = true := by
  unfold State.resume
  grind -ring -linarith [State.setCtx_wf, State.restoreRecord_wf, State.setRstate_wf, foldl_wf]

theorem State.loadRefused_wf (s : State) (c addr : Nat) (hw : s.mem.wf = true) : (s.loadRefused c addr).2.mem.wf = true := by
  unfold State.loadRefused
  grind -ring -linarith [State.errRecord_wf]

theorem State.loadContext_wf (s : State) (c : Nat) (hw : s.mem.wf = true) : (s.loadContext c).2.mem.wf = true := by
  unfold State.loadContext
  grind -ring -linarith [State.setCtx_wf, State.resume_wf, State.loadRefused_wf]

theorem State.readUnits_wf (s : State) (ctx core sps addr : Nat) (hw : s.mem.wf = true) :
    (s.readUnits ctx core sps addr).mem.wf = true := by
  unfold State.readUnits
  grind -ring -linarith [State.modMem_mem, Mem.sramWrite_wf, State.setFull_wf, Mem.sram_wf, Mem.putSram_wf, foldl_wf,
    Mem.foldl_wf]

theorem State.restoreSection_wf (s : State) (x : Ctx) (sec : SavedSec)
    (hw : s.mem.wf = true) {u : State} (he : s.restoreSection x sec = some u) :
    u.mem.wf = true := by
  unfold State.restoreSection at he
  grind -ring -linarith [State.setQuad_wf, State.reserve_wf, State.setCore_wf, State.giveEntries_wf, State.setSplit_wf,
    State.readUnits_wf]

theorem State.command_wf (s : State) (cmd : CtxCmd) (own : Option Nat) (a : Int) (hw : s.mem.wf = true) :
    (s.command cmd own a).2.mem.wf = true := by
  unfold State.command
  grind -ring -linarith [State.loadRefused_wf, State.startDrain_wf, State.retireContext_wf, State.loadContext_wf]

theorem State.retryTrap_wf (s : State) (c i : Nat) (t : Thread) (h : HeldTrap) (hw : s.mem.wf = true) :
    (s.retryTrap c i t h).mem.wf = true := by
  unfold State.retryTrap
  grind -ring -linarith [State.writeTrapRecord_wf, State.putThread_wf, State.freeze_wf]

theorem State.unfreezeSlot_wf (s : State) (c i : Nat) (t : Thread) (h : HeldTrap) (action : Nat) (hw : s.mem.wf = true) :
    (s.unfreezeSlot c i t h action).2.mem.wf = true := by
  unfold State.unfreezeSlot
  grind -ring -linarith [State.putThread_wf, State.landAll_wf, State.retryTrap_wf, State.quitNoria_wf, State.modThread_wf,
    State.endThread_wf]

theorem State.removeFlume_wf (s : State) (fcb base entry : Nat) (hw : s.mem.wf = true) :
    (s.removeFlume fcb base entry).mem.wf = true := by
  unfold State.removeFlume
  grind -ring -linarith [State.levelWrite_wf]

theorem State.retryHeld_wf (s : State) (m : Master) (q : HeldReq) (hw : s.mem.wf = true) : (s.retryHeld m q).mem.wf = true := by
  unfold State.retryHeld
  grind -ring -linarith [State.portRequest_wf, State.hostRequest_wf, State.portOfftake_wf, State.flumeRequest_wf,
    State.agentWrite_wf, State.agentRead_wf]

theorem State.failPackets_wf (s : State) (core : Nat) (hw : s.mem.wf = true) : (s.failPackets core).mem.wf = true := hw

theorem State.unfreezeMaster_wf (s : State) (x : FrozenMaster) (action : Nat) (hw : s.mem.wf = true) :
    (s.unfreezeMaster x action).mem.wf = true := by
  unfold State.unfreezeMaster
  grind -ring -linarith [State.retryHeld_wf, State.failPackets_wf, State.removeFlume_wf, foldl_wf]

theorem State.unfreeze_wf (s : State) (x action : Nat) (hw : s.mem.wf = true) : (s.unfreeze x action).2.mem.wf = true := by
  unfold State.unfreeze
  grind -ring -linarith [State.unfreezeSlot_wf, State.unfreezeMaster_wf]

theorem State.headRecord_wf (s : State) (hw : s.mem.wf = true) : (s.headRecord).2.mem.wf = true := by
  unfold State.headRecord
  grind -ring -linarith [State.levelRead_wf]

theorem State.spillThread_wf (s : State) (c i : Nat) (t : Thread)
    (hw : s.mem.wf = true) : (s.spillThread c i t).mem.wf = true := by
  unfold State.spillThread
  grind -ring -linarith [State.spillNow_wf, State.enqueueReady_wf]

theorem State.freeWord_wf (s : State) (hw : s.mem.wf = true) : (s.freeWord).2.mem.wf = true := hw

theorem State.gatherEffect_wf (s : State) (e : Expansion) (kind : Nat) (hw : s.mem.wf = true) :
    (s.gatherEffect e kind).2.mem.wf = true := by
  unfold State.gatherEffect
  grind -ring -linarith [State.freeWord_wf, State.choose_wf]

theorem State.storesAt_wf (s : State) (l : List (Word × List Byte))
    (hw : s.mem.wf = true) : (s.storesAt l).2.mem.wf = true := by
  induction l generalizing s with
  | nil => exact hw
  | cons x xs ih =>
    unfold State.storesAt
    grind -ring -linarith [State.access_wf]

theorem State.seenFrom_wf (s : State) (core slot : Nat) (t : Thread) (hw : s.mem.wf = true) :
    (s.seenFrom core slot t).mem.wf = true := hw

theorem State.setNoise_wf (s : State) (quad : Nat) (failed : Bool) (hw : s.mem.wf = true) :
    (s.setNoise quad failed).mem.wf = true := hw

theorem State.restart_wf (s : State) : s.restart.mem.wf = true := rfl

theorem State.startInvalidate_wf (s : State) (cmd : Nat) (hw : s.mem.wf = true) : (s.startInvalidate cmd).mem.wf = true := by
  unfold State.startInvalidate
  grind -ring -linarith [State.modDev_wf]

theorem State.checkIn_wf (s : State) (hw : s.mem.wf = true) : (s.checkIn).mem.wf = true := by
  unfold State.checkIn
  grind -ring -linarith [State.setOcc_wf]

theorem State.switchTo_wf (s : State) (c i : Nat) (hw : s.mem.wf = true) {u : State} (he : s.switchTo c i = some u) :
    u.mem.wf = true := by
  unfold State.switchTo at he
  grind -ring -linarith [State.checkIn_wf, State.setOcc_wf]

theorem State.landDue_wf (s : State) (hw : s.mem.wf = true) {u : State} (he : s.landDue = some u) : u.mem.wf = true := by
  unfold State.landDue at he
  grind -ring -linarith [State.landOne_wf, foldl_wf, foldl_fst_wf]

theorem State.fetchInner_wf (s : State) (pc : Nat) (hw : s.mem.wf = true) : (s.fetchInner pc).2.mem.wf = true := by
  unfold State.fetchInner
  grind -ring -linarith [State.fetchWord_wf]

theorem State.poisonWord_wf (s : State) (w : WordLoc) (hw : s.mem.wf = true) : (s.poisonWord w).mem.wf = true := by
  unfold State.poisonWord
  grind -ring -linarith [State.modMem_mem, Mem.sram_wf, Mem.putSram_wf, Mem.wf]

theorem State.writeBackWords_wf (s : State) (core line : Nat) (mask : BitVec 8) (hw : s.mem.wf = true) :
    (s.writeBackWords core line mask).mem.wf = true := by
  unfold State.writeBackWords
  grind -ring -linarith [State.writeBackLine_wf, State.modMem_mem, Mem.putLine_wf]

theorem State.input_wf (s : State) (x : Turn) (hw : s.mem.wf = true) : (s.input x).mem.wf = true := by
  cases x with
  | tick ns => exact hw
  | poison w => exact s.poisonWord_wf w hw
  | poisonL1 core line word =>
    unfold State.input
    dsimp only
    split
    · exact Mem.putLine_wf _ _ hw
    · exact hw
  | poisonL2 die word => exact Mem.poisonSector_wf _ _ _ _ hw
  | rowFileError core slot addr =>
    unfold State.input
    dsimp only
    split
    · exact State.asyncError_wf _ _ _ _ (State.noteUncorrectable_wf _ _ _ _ _ _ _ hw)
    · exact hw
  | corrected pa unit syndrome => exact s.errRecord_wf _ hw
  | offtakeStatus id code =>
    unfold State.input
    dsimp only
    split
    · exact s.answerOfftake_wf id code hw
    · exact hw
  | writeBack core line mask => exact s.writeBackWords_wf core line mask hw
  | remoteReply k r => exact s.remoteReply_wf k r hw
  | readRegister agent off => exact s.agentRead_wf agent off hw
  | _ => exact hw

theorem State.cycleEnd_wf (s : State) (core : Nat) (hw : s.mem.wf = true) : (s.cycleEnd core).mem.wf = true := by
  unfold State.cycleEnd
  grind -ring -linarith [State.setCore_wf, State.modThread_wf]

theorem State.firstProgress_wf (s : State) (ex : Exec)
    (hex : ∀ i t u, t.mem.wf = true → ex i t = .next u → u.mem.wf = true) (l : List Instr) (hw : s.mem.wf = true) {u : State}
    (he : s.firstProgress ex l = some u) : u.mem.wf = true := by
  induction l with
  | nil => cases he
  | cons i rest ih =>
    unfold State.firstProgress at he
    grind -ring -linarith

theorem State.engineTurn_wf (s : State) (ex : Exec) (hex : ∀ i t u, t.mem.wf = true → ex i t = .next u → u.mem.wf = true)
    (hw : s.mem.wf = true) : (s.engineTurn ex).mem.wf = true := by
  unfold State.engineTurn
  cases h : s.firstProgress ex _ with
  | none => exact hw
  | some u => exact s.firstProgress_wf ex hex _ hw h

theorem State.noteLost_wf (s : State) (cycle : Bool) (hw : s.mem.wf = true) : (s.noteLost cycle).mem.wf = true := by
  unfold State.noteLost
  grind -ring -linarith [State.choose_wf, State.notePoisoned_wf, State.modMem_mem, foldl_wf, Mem.foldl_wf, foldl_snd_wf, Mem.wf]

end Sys2Proof.Machine
end

section
/-! PROOFS. Operations go on: each answers a next state, in which memory keeps its one form (log 4, R17 to R31). -/

namespace Sys2Proof.Machine
open Sys2Proof

/-- An outcome is a next state, whose memory has its one form if `φ` holds. -/
def GoesOn (φ : Prop) (o : Out) : Prop := ∃ t, o = .next t ∧ (φ → t.mem.wf = true)

variable {φ : Prop}

theorem goesOn_next {t : State} (h : φ → t.mem.wf = true) : GoesOn φ (.next t) := ⟨t, rfl, h⟩

theorem State.again_goesOn (s : State) (hw : φ → s.mem.wf = true) : GoesOn φ (s.again) := by
  unfold State.again
  grind -ring -linarith [goesOn_next, State.modThr_wf]

theorem State.done_goesOn (s : State) (hw : φ → s.mem.wf = true) : GoesOn φ (s.done) := by
  unfold State.done
  grind -ring -linarith [goesOn_next, State.retire_wf]

theorem State.finish_goesOn (s : State) (reads : List Name) (r : Pending) (hw : φ → s.mem.wf = true) :
    GoesOn φ (s.finish reads r) := by
  unfold State.finish
  grind -ring -linarith [State.consume_wf, State.apply_wf, State.done_goesOn]

theorem State.finishLong_goesOn (s : State) (look : Nat) (reads : List Name) (r : Pending) (hw : φ → s.mem.wf = true) :
    GoesOn φ (s.finishLong look reads r) := by
  unfold State.finishLong
  grind -ring -linarith [State.finish_goesOn, State.consume_wf, State.openWindow_wf, State.done_goesOn]

theorem State.trap_goesOn (s : State) (x : Trap) (hw : φ → s.mem.wf = true) : GoesOn φ (s.trap x) := by
  unfold State.trap
  grind -ring -linarith [goesOn_next, State.takeTrap_wf]

theorem State.fail_goesOn (s : State) (f : Fail) (hw : φ → s.mem.wf = true) : GoesOn φ (s.fail f) :=
  State.trap_goesOn _ _ hw

theorem State.narrowInto_goesOn (s : State) (reads : List Name) (d : Name) (x : Int) (g : FlagWrite → FlagWrite)
    (hw : φ → s.mem.wf = true) :
    GoesOn φ (s.narrowInto reads d x g) := by
  unfold State.narrowInto
  grind -ring -linarith [State.trap_goesOn, State.finish_goesOn]

theorem State.narrowAfter_goesOn (s : State) (reads : List Name) (d : Name) (x : Int) (g : FlagWrite → FlagWrite)
    (hw : φ → s.mem.wf = true) :
    GoesOn φ (s.narrowAfter reads d x g) := by
  unfold State.narrowAfter
  grind -ring -linarith [State.trap_goesOn, State.finish_goesOn]

theorem State.narrowLong_goesOn (s : State) (look : Nat) (reads : List Name) (d : Name) (x : Int) (hw : φ → s.mem.wf = true) :
    GoesOn φ (s.narrowLong look reads d x) := by
  unfold State.narrowLong
  grind -ring -linarith [State.trap_goesOn, State.finishLong_goesOn]

theorem State.narrowLongAfter_goesOn (s : State) (look : Nat) (reads : List Name) (d : Name) (x : Int)
    (hw : φ → s.mem.wf = true) :
    GoesOn φ (s.narrowLongAfter look reads d x) := by
  unfold State.narrowLongAfter
  grind -ring -linarith [State.trap_goesOn, State.finishLong_goesOn]

theorem State.putPat_goesOn (s : State) (reads : List Name) (d : Name) (p : Word) (hw : φ → s.mem.wf = true) :
    GoesOn φ (s.putPat reads d p) :=
  State.finish_goesOn _ _ _ hw

theorem State.putFlags_goesOn (s : State) (reads : List Name) (f : FlagWrite) (hw : φ → s.mem.wf = true) :
    GoesOn φ (s.putFlags reads f) :=
  State.finish_goesOn _ _ _ hw

theorem State.returnFromTrap_goesOn (s : State) (hw : φ → s.mem.wf = true) : GoesOn φ (s.returnFromTrap) := by
  unfold State.returnFromTrap
  grind -ring -linarith [goesOn_next, State.access_wf, State.fail_goesOn, State.loadBytes_wf, State.trap_goesOn,
    State.skipLength_wf, State.modThr_wf]

theorem State.flumeRefused_goesOn (s : State) (h : Nat) (e : FlumeErr) (hw : φ → s.mem.wf = true) :
    GoesOn φ (s.flumeRefused h e) := by
  unfold State.flumeRefused
  grind -ring -linarith [goesOn_next, State.trap_goesOn, State.settleWindows_wf, State.vectorDone_wf, State.freeze_wf]

theorem State.endSteps_goesOn (s : State) (reads writes : List Name) (hw : φ → s.mem.wf = true) :
    GoesOn φ (s.endSteps reads writes) := by
  unfold State.endSteps
  grind -ring -linarith [State.writeName_wf, State.consume_wf, State.done_goesOn, foldl_wf]

/-- Bound operands: the instruction stops with an outcome that goes on, or is ready in a state that keeps the form (R160,
  R254). -/
def Gather.goesOn (φ : Prop) : Gather → Prop
  | .ready s => φ → s.mem.wf = true
  | .stop o => GoesOn φ o

theorem State.gatherFlumes_goesOn (s : State) (l : List Name) (hw : φ → s.mem.wf = true) : (s.gatherFlumes l).goesOn φ := by
  induction l generalizing s with
  | nil => exact hw
  | cons n rest ih =>
    unfold State.gatherFlumes
    split
    · next h _ =>
      split
      · next f s1 he =>
        exact s1.fail_goesOn f (fun hp => by simpa [he] using s.handleCheck_wf s.thr s.cur.1 h.toNat (hw hp))
      · next pa s1 he =>
        have hw1 : φ → s1.mem.wf = true := fun hp => by simpa [he] using s.handleCheck_wf s.thr s.cur.1 h.toNat (hw hp)
        clear he hw
        split
        · grind -ring -linarith [Gather.goesOn, State.remoteNow_wf, State.remoteElem_wf, State.acquire_wf, State.modThr_wf,
            State.remoteWait_wf, State.parkBare_wf, State.flumeRefused_goesOn, goesOn_next]
        · grind -ring -linarith [Gather.goesOn, State.acquire_wf, State.modThr_wf, State.parkBare_wf,
            State.flumeRefused_goesOn, State.fcbOpen_wf, State.flumeDeq_wf, State.flumeWait_wf, goesOn_next]
    · exact ih s hw

theorem State.gather_goesOn (s : State) (u : Use) (hw : φ → s.mem.wf = true) : (s.gather u).goesOn φ := by
  unfold State.gather
  split
  · exact hw
  · dsimp only
    split
    · exact State.gatherFlumes_goesOn _ _ (fun h => State.clearForeign_wf _ _ (hw h))
    · exact goesOn_next (fun h => State.parkBare_wf _ _ (State.clearForeign_wf _ _ (hw h)))

/-- An instruction past its checks and its bound operands. -/
theorem State.guarded_goesOn (s : State) (u : Use) (k : State → Out) (hk : ∀ t, (φ → t.mem.wf = true) → GoesOn φ (k t))
    (hw : φ → s.mem.wf = true) : GoesOn φ (s.guarded u k) := by
  have hg := s.gather_goesOn u hw
  unfold State.guarded
  split
  · exact s.trap_goesOn _ hw
  · cases h : s.gather u with
    | stop o => rw [h] at hg; exact hg
    | ready t => rw [h] at hg; exact hk t hg

theorem State.guardedIf_goesOn (s : State) (u : Use) (pre : State → Option Trap) (k : State → Out)
    (hk : ∀ t, (φ → t.mem.wf = true) → GoesOn φ (k t)) (hw : φ → s.mem.wf = true) : GoesOn φ (s.guardedIf u pre k) := by
  have hg := s.gather_goesOn u hw
  unfold State.guardedIf
  split
  · exact s.trap_goesOn _ hw
  · split
    · exact s.trap_goesOn _ hw
    · cases h : s.gather u with
      | stop o => rw [h] at hg; exact hg
      | ready t => rw [h] at hg; exact hk t hg

theorem State.alu_goesOn (s : State) (u : Use) (d : Name) (f : State → Int) (hw : φ → s.mem.wf = true) :
    GoesOn φ (s.alu u d f) := by
  unfold State.alu
  grind -ring -linarith [State.guarded_goesOn, State.narrowInto_goesOn]

theorem State.division_goesOn (s : State) (d a b : Name) (f : State → Int) (hw : φ → s.mem.wf = true) :
    GoesOn φ (s.division d a b f) := by
  unfold State.division
  grind -ring -linarith [State.guarded_goesOn, State.trap_goesOn, State.narrowInto_goesOn]

theorem State.move_goesOn (s : State) (d a : Name) (hw : φ → s.mem.wf = true) : GoesOn φ (s.move d a) := by
  unfold State.move
  grind -ring -linarith [State.guarded_goesOn, State.putPat_goesOn, State.narrowInto_goesOn]

theorem State.branchIf_goesOn (s : State) (reads : List Name) (off : Int) (c : Bool) (hw : φ → s.mem.wf = true) :
    GoesOn φ (s.branchIf reads off c) := by
  unfold State.branchIf
  grind -ring -linarith [goesOn_next, State.consume_wf, State.modThr_wf, State.done_goesOn]

theorem State.branch_goesOn (s : State) (a b : Name) (off : Int) (c : State → Bool) (hw : φ → s.mem.wf = true) :
    GoesOn φ (s.branch a b off c) := by
  unfold State.branch
  grind -ring -linarith [State.guarded_goesOn, State.branchIf_goesOn]

theorem State.withNoise_goesOn (s : State) (mode : RMode) (n : Nat) (k : List Nat → State → Out) (hk : ∀ x t,
    (φ → t.mem.wf = true) → GoesOn φ (k x t)) (hw : φ → s.mem.wf = true) :
    GoesOn φ (s.withNoise mode n k) := by
  unfold State.withNoise
  grind -ring -linarith [State.draws_wf, State.notePoison_wf, State.trap_goesOn]

theorem State.falu_goesOn (s : State) (srcs : List Name) (d : Name) (f : State → FVal) (hw : φ → s.mem.wf = true) :
    GoesOn φ (s.falu srcs d f) := by
  unfold State.falu
  grind -ring -linarith [State.guarded_goesOn, State.putPat_goesOn]

theorem State.fint_goesOn (s : State) (srcs : List Name) (d : Name) (f : State → Int) (hw : φ → s.mem.wf = true) :
    GoesOn φ (s.fint srcs d f) := by
  unfold State.fint
  grind -ring -linarith [State.guarded_goesOn, State.narrowInto_goesOn]

theorem State.fused_goesOn (s : State) (d a b : Name) (look : Look) (f : FVal → FVal → FVal) (hw : φ → s.mem.wf = true) :
    GoesOn φ (s.fused d a b look f) := by
  unfold State.fused
  grind -ring -linarith [State.guarded_goesOn, State.finishLong_goesOn]

end Sys2Proof.Machine
end

section
/-! PROOFS. The shared operations of blocks, vectors, memory words, flumes, the noria, groups, copies and contexts go on. -/

namespace Sys2Proof.Machine
open Sys2Proof

variable {φ : Prop}

theorem State.blockTrap_goesOn (s : State) (x : Trap) (hw : φ → s.mem.wf = true) : GoesOn φ (s.blockTrap x) := by
  unfold State.blockTrap
  grind -ring -linarith [State.noteUncorrectable_wf, State.trap_goesOn]

theorem State.block_goesOn (s : State) (mov : Bool) (d a b : Name) (hw : φ → s.mem.wf = true) :
    GoesOn φ (s.block mov d a b) := by
  unfold State.block
  grind -ring -linarith [State.trap_goesOn, State.guarded_goesOn, Mem.fill_wf, State.consume_wf, State.done_goesOn,
    State.blockStep_wf, State.blockTrap_goesOn, State.blockNext_wf, State.endSteps_goesOn, State.again_goesOn]

theorem State.vissue_goesOn (s : State) (u : Use) (pre : State → Option Trap) (k : State → Out) (hk : ∀ t,
    (φ → t.mem.wf = true) → GoesOn φ (k t)) (hw : φ → s.mem.wf = true) :
    GoesOn φ (s.vissue u pre k) := by
  unfold State.vissue
  grind -ring -linarith [State.guardedIf_goesOn, State.again_goesOn, State.vqPush_wf]

theorem State.vread_goesOn (s : State) (u : Use) (pre : State → Option Trap) (d : Name) (x : State → Int)
    (hw : φ → s.mem.wf = true) :
    GoesOn φ (s.vread u pre d x) := by
  unfold State.vread
  grind -ring -linarith [State.guardedIf_goesOn, State.again_goesOn, State.trap_goesOn, State.vqPush_wf,
    State.narrowInto_goesOn]

theorem State.putVreg_goesOn (s : State) (reads : List Name) (d : VReg) (x : VRegVal) (hw : φ → s.mem.wf = true) :
    GoesOn φ (s.putVreg reads d x) :=
  State.finish_goesOn _ _ _ hw

theorem State.vlane_goesOn (s : State) (d : VReg) (a b : VOp) (acc : List Tag) (f : Tag → Nat → Nat → Nat)
    (hw : φ → s.mem.wf = true) :
    GoesOn φ (s.vlane d a b acc f) := by
  unfold State.vlane
  grind -ring -linarith [State.vissue_goesOn, State.putVreg_goesOn]

theorem State.vshift_goesOn (s : State) (d : VReg) (a b : VOp) (f : Nat → Nat → Nat → Nat) (hw : φ → s.mem.wf = true) :
    GoesOn φ (s.vshift d a b f) := by
  unfold State.vshift
  grind -ring -linarith [State.vissue_goesOn, State.putVreg_goesOn]

theorem State.vcompare_goesOn (s : State) (d : VReg) (a b : VOp) (fi : Int → Int → Bool) (ff : FVal → FVal → Bool)
    (hw : φ → s.mem.wf = true) :
    GoesOn φ (s.vcompare d a b fi ff) := by
  unfold State.vcompare
  grind -ring -linarith [State.vissue_goesOn, State.putVreg_goesOn]

theorem State.vunary_goesOn (s : State) (d a : VReg) (fi : Int → Int) (ff : FVal → FVal) (hw : φ → s.mem.wf = true) :
    GoesOn φ (s.vunary d a fi ff) := by
  unfold State.vunary
  grind -ring -linarith [State.vissue_goesOn, State.putVreg_goesOn]

theorem State.vcopy_goesOn (s : State) (d a : VReg) (hw : φ → s.mem.wf = true) : GoesOn φ (s.vcopy d a) := by
  unfold State.vcopy
  grind -ring -linarith [State.vissue_goesOn, State.putVreg_goesOn]

theorem State.vreduce_goesOn (s : State) (d a : VReg) (fi : Int → Int → Int) (ff : FVal → FVal → FVal)
    (hw : φ → s.mem.wf = true) :
    GoesOn φ (s.vreduce d a fi ff) := by
  unfold State.vreduce
  grind -ring -linarith [State.vissue_goesOn, State.putVreg_goesOn, foldl_wf]

theorem State.vlong_goesOn (s : State) (d : VReg) (a b : VOp) (acc : Bool) (look : Look) (f : FVal → FVal → FVal → FVal)
    (hw : φ → s.mem.wf = true) :
    GoesOn φ (s.vlong d a b acc look f) := by
  unfold State.vlong
  grind -ring -linarith [State.vissue_goesOn, State.finishLong_goesOn]

theorem State.vconvert_goesOn (s : State) (d a : VReg) (D : Tag) (rm : RMode) (acc : List Tag) (exact : Tag → Bool)
    (hw : φ → s.mem.wf = true) :
    GoesOn φ (s.vconvert d a D rm acc exact) := by
  unfold State.vconvert
  grind -ring -linarith [State.guardedIf_goesOn, State.again_goesOn, State.withNoise_goesOn, State.vqPush_wf,
    State.finish_goesOn]

theorem State.loading_goesOn (s : State) (parts : List (Nat × Nat × Nat)) (k : List Byte → State → Out) (hk : ∀ x t,
    (φ → t.mem.wf = true) → GoesOn φ (k x t)) (hw : φ → s.mem.wf = true) :
    GoesOn φ (s.loading parts k) := by
  unfold State.loading
  grind -ring -linarith [State.accessAll_wf, State.fail_goesOn, State.loadBytes_wf, State.trap_goesOn]

theorem State.storing_goesOn (s : State) (parts : List (Nat × Nat × Nat)) (bs : List Byte) (k : State → Out) (hk : ∀ t,
    (φ → t.mem.wf = true) → GoesOn φ (k t)) (hw : φ → s.mem.wf = true) :
    GoesOn φ (s.storing parts bs k) := by
  unfold State.storing
  grind -ring -linarith [State.accessAll_wf, State.fail_goesOn, State.storePieces_wf]

theorem State.vstoring_goesOn (s : State) (parts : List (Nat × Nat × Nat)) (bs : List Byte) (k : State → Out) (hk : ∀ t,
    (φ → t.mem.wf = true) → GoesOn φ (k t)) (hw : φ → s.mem.wf = true) :
    GoesOn φ (s.vstoring parts bs k) := by
  unfold State.vstoring
  grind -ring -linarith [State.accessAll_wf, State.fail_goesOn, State.storeWords_wf]

theorem State.scalarLoad_goesOn (s : State) (d a : Name) (imm : Int) (look : Look) (n : Nat) (ks : List Kind)
    (x : Thread → Nat → Int) (hw : φ → s.mem.wf = true) :
    GoesOn φ (s.scalarLoad d a imm look n ks x) := by
  unfold State.scalarLoad
  grind -ring -linarith [State.guarded_goesOn, State.loading_goesOn, State.finishLong_goesOn, State.narrowLong_goesOn]

theorem State.scalarStore_goesOn (s : State) (d a : Name) (imm : Int) (look : Look) (n : Nat) (ks : List Kind)
    (hw : φ → s.mem.wf = true) :
    GoesOn φ (s.scalarStore d a imm look n ks) := by
  unfold State.scalarStore
  grind -ring -linarith [State.guarded_goesOn, State.storing_goesOn, State.finishLong_goesOn]

theorem State.wordAccess_goesOn (s : State) (k : AccKind) (p : Nat) (f : Piece → State → Out) (hf : ∀ x t,
    (φ → t.mem.wf = true) → GoesOn φ (f x t)) (hw : φ → s.mem.wf = true) :
    GoesOn φ (s.wordAccess k p f) := by
  unfold State.wordAccess
  grind -ring -linarith [State.access_wf, State.fail_goesOn]

theorem State.cleanWord_goesOn (s : State) (lv : Level) (x : Piece) (f : State → Out) (hf : ∀ t,
    (φ → t.mem.wf = true) → GoesOn φ (f t)) (hw : φ → s.mem.wf = true) :
    GoesOn φ (s.cleanWord lv x f) := by
  unfold State.cleanWord
  grind -ring -linarith [State.noteUncorrectable_wf, State.trap_goesOn]

theorem State.feWait_goesOn (s : State) (x : Piece) (op : FeOp) (d : Name) (reads : List Name) (hw : φ → s.mem.wf = true) :
    GoesOn φ (s.feWait x op d reads) := by
  unfold State.feWait
  grind -ring -linarith [goesOn_next, State.fePrepare_wf, State.remoteWait_wf, State.park_wf]

theorem State.takeWord_goesOn (s : State) (reads : List Name) (d : Name) (w : Nat) (perf : Bool) (hw : φ → s.mem.wf = true) :
    GoesOn φ (s.takeWord reads d w perf) := by
  unfold State.takeWord
  grind -ring -linarith [State.putPat_goesOn, State.narrowAfter_goesOn, State.narrowInto_goesOn]

theorem State.feMark_goesOn (s : State) (a : Name) (imm : Int) (look : Look) (full : Bool) (hw : φ → s.mem.wf = true) :
    GoesOn φ (s.feMark a imm look full) := by
  unfold State.feMark
  grind -ring -linarith [State.guarded_goesOn, State.wordAccess_goesOn, State.rmw_wf, State.cleanWord_goesOn,
    State.fePrepare_wf, State.changeFull_wf, State.finishLong_goesOn]

theorem State.atomicOp_goesOn (s : State) (d a b : Name) (sc : Scope) (f : Word → Word → Word) (hw : φ → s.mem.wf = true) :
    GoesOn φ (s.atomicOp d a b sc f) := by
  unfold State.atomicOp
  grind -ring -linarith [State.guarded_goesOn, State.wordAccess_goesOn, State.rmw_wf, State.cleanWord_goesOn,
    State.atomicAt_wf, State.narrowAfter_goesOn]

theorem State.reduction_goesOn (s : State) (a b : Name) (sc : Scope) (op : RedOp) (hw : φ → s.mem.wf = true) :
    GoesOn φ (s.reduction a b sc op) := by
  unfold State.reduction
  grind -ring -linarith [State.guarded_goesOn, State.wordAccess_goesOn, State.rmw_wf, State.reduceAt_wf, State.finish_goesOn,
    State.cleanWord_goesOn]

theorem State.takeReserved_goesOn (s : State) (reads : List Name) (d : Name) (v : Nat) (z : Bool) (hw : φ → s.mem.wf = true) :
    GoesOn φ (s.takeReserved reads d v z) := by
  unfold State.takeReserved
  grind -ring -linarith [State.trap_goesOn, State.finish_goesOn]

theorem State.remoteReserve_goesOn (s : State) (a d : Name) (w : WordLoc) (va : Nat) (sc : Scope) (hw : φ → s.mem.wf = true) :
    GoesOn φ (s.remoteReserve a d w va sc) := by
  unfold State.remoteReserve
  grind -ring -linarith [goesOn_next, State.choose_wf, State.resWord_wf, State.acquire_wf, State.takeReserved_goesOn,
    State.remoteWait_wf, State.reserve_wf, State.park_wf]

theorem State.giveHeld_goesOn (s : State) (reads : List Name) (sc : Scope) (e : ResEntry) (v : Option Nat) (x : Piece)
    (hw : φ → s.mem.wf = true) :
    GoesOn φ (s.giveHeld reads sc e v x) := by
  unfold State.giveHeld
  grind -ring -linarith [State.release_wf, State.resPrepare_wf, State.levelStore_wf, State.modMem_mem, Mem.sramWrite_wf,
    State.handOn_wf, State.putFlags_goesOn]

theorem State.giveUp_goesOn (s : State) (reads : List Name) (a : Name) (sc : Scope) (v : State → Option Nat)
    (hw : φ → s.mem.wf = true) :
    GoesOn φ (s.giveUp reads a sc v) := by
  unfold State.giveUp
  grind -ring -linarith [State.wordAccess_goesOn, State.rmw_wf, State.release_wf, State.resPrepare_wf, State.putFlags_goesOn,
    State.cleanWord_goesOn, State.giveHeld_goesOn]

theorem State.withHandle_goesOn (s : State) (a : Name) (k : State → Out)
    (hk : ∀ t, (φ → t.mem.wf = true) → GoesOn φ (k t))
    (hw : φ → s.mem.wf = true) :
    GoesOn φ (s.withHandle a k) := by
  unfold State.withHandle
  grind -ring -linarith [State.guarded_goesOn]

theorem State.flumeGuard_goesOn (s : State) (a : Name) (others : List (Name × Need)) (writes : List (Name × Need)) (e : Name)
    (send : Bool) (k : List Name → State → Out) (hk : ∀ x t, (φ → t.mem.wf = true) → GoesOn φ (k x t))
    (hw : φ → s.mem.wf = true) :
    GoesOn φ (s.flumeGuard a others writes e send k) := by
  unfold State.flumeGuard
  grind -ring -linarith [State.withHandle_goesOn, State.trap_goesOn, State.guarded_goesOn]

theorem State.flumePark_goesOn (s : State) (f : Fcb) (w : FlumeWaiter) (reads : List Name) (limit : Option Int)
    (hw : φ → s.mem.wf = true) :
    GoesOn φ (s.flumePark f w reads limit) := by
  unfold State.flumePark
  grind -ring -linarith [goesOn_next, State.trap_goesOn, State.flumeWait_wf, State.park_wf]

theorem State.remoteFlume_goesOn (s : State) (h : Nat) (op : RemoteOp) (reads : List Name) (limit : Option Int)
    (k : State → Out) (hk : ∀ t, (φ → t.mem.wf = true) → GoesOn φ (k t)) (hw : φ → s.mem.wf = true) :
    GoesOn φ (s.remoteFlume h op reads limit k) := by
  unfold State.remoteFlume
  grind -ring -linarith [goesOn_next, State.remoteNow_wf, State.done_goesOn, State.flumeRefused_goesOn, State.remoteElem_wf,
    State.trap_goesOn, State.remoteWait_wf, State.park_wf]

theorem State.remoteTry_goesOn (s : State) (h : Nat) (k : Bool → State → Out) (hk : ∀ x t,
    (φ → t.mem.wf = true) → GoesOn φ (k x t)) (hw : φ → s.mem.wf = true) :
    GoesOn φ (s.remoteTry h k) := by
  unfold State.remoteTry
  grind -ring -linarith [State.remoteNow_wf, State.done_goesOn, State.flumeRefused_goesOn]

/-- What a controller answers: an outcome that goes on, or a state that keeps the form (R228). -/
def Answer.goesOn (φ : Prop) : Answer → Prop
  | .out o => GoesOn φ o
  | .ok _ _ s | .remote _ s => φ → s.mem.wf = true

theorem State.flumeOpen_goesOn (s : State) (h : Nat) (esz : Option Nat) (rel : Bool) (hw : φ → s.mem.wf = true) :
    (s.flumeOpen h esz rel).goesOn φ := by
  unfold State.flumeOpen
  grind -ring -linarith [Answer.goesOn, State.handleCheck_wf, State.fail_goesOn, State.release_wf, State.fcbOpen_wf,
    State.flumeRefused_goesOn]

theorem State.enqueue_goesOn (s : State) (a b : Name) (lim : Option Name) (hw : φ → s.mem.wf = true) :
    GoesOn φ (s.enqueue a b lim) := by
  refine State.flumeGuard_goesOn _ _ _ _ _ _ _ (fun es t ht => ?_) hw
  have hf := t.flumeOpen_goesOn (t.ext a) (some (handleSize (t.ext a))) true ht
  dsimp only
  cases h : t.flumeOpen (t.ext a) (some (handleSize (t.ext a))) true with
  | out o => rw [h] at hf; exact hf
  | remote pa s1 =>
    rw [h] at hf
    exact State.remoteFlume_goesOn _ _ _ _ _ _ (fun u hu => u.finish_goesOn _ _ hu) hf
  | ok pa f s1 =>
    rw [h] at hf
    grind -ring -linarith [Answer.goesOn, State.flumeEnq_wf, State.flumePark_goesOn, State.finish_goesOn]

theorem State.dequeue_goesOn (s : State) (d a : Name) (lim : Option Name) (hw : φ → s.mem.wf = true) :
    GoesOn φ (s.dequeue d a lim) := by
  refine State.flumeGuard_goesOn _ _ _ _ _ _ _ (fun es t ht => ?_) hw
  have hf := t.flumeOpen_goesOn (t.ext a) (some (handleSize (t.ext a))) false ht
  dsimp only
  cases h : t.flumeOpen (t.ext a) (some (handleSize (t.ext a))) false with
  | out o => rw [h] at hf; exact hf
  | remote pa s1 =>
    rw [h] at hf
    refine State.remoteFlume_goesOn _ _ _ _ _ _ (fun u hu => ?_) hf
    exact State.finish_goesOn _ _ _ (fun hp => State.acquire_wf _ _ _ (u.remoteElem_wf _ _ (hu hp)))
  | ok pa f s1 =>
    rw [h] at hf
    grind -ring -linarith [Answer.goesOn, State.flumeDeq_wf, State.acquire_wf, State.flumePark_goesOn, State.finish_goesOn]

theorem State.qunbind_goesOn (s : State) (d : Name) (hw : φ → s.mem.wf = true) : GoesOn φ (s.qunbind d) := by
  unfold State.qunbind
  grind -ring -linarith [State.guarded_goesOn, State.modThr_wf, State.putFlags_goesOn]

theorem State.noriaStep_goesOn (s : State) (u : Use) (word : State → Nat) (k : State → Out) (hk : ∀ t,
    (φ → t.mem.wf = true) → GoesOn φ (k t)) (hw : φ → s.mem.wf = true) :
    GoesOn φ (s.noriaStep u word k) := by
  unfold State.noriaStep
  grind -ring -linarith [State.guarded_goesOn, State.trap_goesOn]

theorem State.awaitNoria_goesOn (s : State) (reads : List Name) (d : Name) (op : NoriaOp) (hw : φ → s.mem.wf = true) :
    GoesOn φ (s.awaitNoria reads d op) := by
  unfold State.awaitNoria
  grind -ring -linarith [goesOn_next, State.askNoria_wf, State.park_wf]

theorem State.quit_goesOn (s : State) (hw : φ → s.mem.wf = true) : GoesOn φ (s.quit) := by
  unfold State.quit
  grind -ring -linarith [goesOn_next, State.quieted_wf, State.again_goesOn, State.quitNoria_wf, State.modThr_wf,
    State.endThread_wf]

theorem State.yield_goesOn (s : State) (hw : φ → s.mem.wf = true) : GoesOn φ (s.yield) := by
  unfold State.yield
  grind -ring -linarith [goesOn_next, State.modThr_wf, State.done_goesOn, State.quieted_wf, State.again_goesOn,
    State.retire_wf, State.spillNow_wf, State.enqueueReady_wf, State.takeReady_wf]

theorem State.withGroup_goesOn (s : State) (addr : Nat) (k : Piece → GroupWord → State → Out) (hk : ∀ x y t,
    (φ → t.mem.wf = true) → GoesOn φ (k x y t)) (hw : φ → s.mem.wf = true) :
    GoesOn φ (s.withGroup addr k) := by
  unfold State.withGroup
  grind -ring -linarith [State.groupPiece_wf, State.fail_goesOn, State.cleanWord_goesOn, State.groupRead_wf]

theorem State.arrive_goesOn (s : State) (x : Piece) (sc : Scope) (hw : φ → s.mem.wf = true) : GoesOn φ (s.arrive x sc) := by
  unfold State.arrive
  grind -ring -linarith [goesOn_next, State.release_wf, State.atomicAt_wf, State.wakeGroup_wf, State.acquire_wf,
    State.putFlags_goesOn, State.remoteWait_wf, State.park_wf]

theorem State.appendPacket_goesOn (s : State) (k : Tok) (a : VReg) (b : Name) (coll : Bool) (hw : φ → s.mem.wf = true) :
    GoesOn φ (s.appendPacket k a b coll) := by
  unfold State.appendPacket
  grind -ring -linarith [goesOn_next, State.guarded_goesOn, State.handleCheck_wf, State.fail_goesOn, State.modThr_wf,
    State.trap_goesOn, State.release_wf, State.choose_wf, State.finish_goesOn, State.remoteNow_wf, State.done_goesOn,
    State.flumeRefused_goesOn, State.remoteWait_wf, State.park_wf, State.fcbOpen_wf, State.flumeEnq_wf, State.flumePark_goesOn]

theorem State.withBasin_goesOn (s : State) (k : AccKind) (p : Nat) (f : Nat → Basin → State → Out) (hf : ∀ x y t,
    (φ → t.mem.wf = true) → GoesOn φ (f x y t)) (hw : φ → s.mem.wf = true) :
    GoesOn φ (s.withBasin k p f) := by
  unfold State.withBasin
  grind -ring -linarith [State.fail_goesOn, State.wordAccess_goesOn, State.cleanWord_goesOn, State.resPrepare_wf,
    State.levelRead_wf]

theorem State.atScheduler_goesOn (s : State) (j : Nat) (k : State → Out)
    (hk : ∀ t, (φ → t.mem.wf = true) → GoesOn φ (k t))
    (hw : φ → s.mem.wf = true) :
    GoesOn φ (s.atScheduler j k) := by
  unfold State.atScheduler
  grind -ring -linarith [State.again_goesOn]

theorem State.answerZ_goesOn (s : State) (look : Nat) (reads : List Name) (z : Bool) (hw : φ → s.mem.wf = true) :
    GoesOn φ (s.answerZ look reads z) :=
  State.finishLong_goesOn _ _ _ _ hw

theorem State.armLaunch_goesOn (s : State) (d : Name) (look : Look) (f : State → Nat → List Decr × State) (hf : ∀ t n,
    t.mem.wf = true → (f t n).2.mem.wf = true) (hw : φ → s.mem.wf = true) :
    GoesOn φ (s.armLaunch d look f) := by
  unfold State.armLaunch
  grind -ring -linarith [State.guarded_goesOn, State.answerZ_goesOn, State.atScheduler_goesOn, State.release_wf,
    State.settleLaunch_wf]

theorem State.contextCommand_goesOn (s : State) (cmd : CtxCmd) (d a : Name) (wait : Bool) (hw : φ → s.mem.wf = true) :
    GoesOn φ (s.contextCommand cmd d a wait) := by
  unfold State.contextCommand
  grind -ring -linarith [goesOn_next, State.guarded_goesOn, State.release_wf, State.command_wf, State.park_wf,
    State.narrowAfter_goesOn]

theorem State.endExpansion_goesOn (s : State) (e : Expansion) (hw : φ → s.mem.wf = true) : GoesOn φ (s.endExpansion e) := by
  unfold State.endExpansion
  grind -ring -linarith [goesOn_next, State.storesAt_wf, State.fail_goesOn, State.storePieces_wf, State.apply_wf,
    State.choose_wf, State.freeWord_wf, State.modThr_wf, State.done_goesOn, foldl_wf, foldl_snd_wf]

theorem State.failExpansion_goesOn (s : State) (hw : φ → s.mem.wf = true) : GoesOn φ (s.failExpansion) := by
  unfold State.failExpansion
  grind -ring -linarith [State.choose_wf, State.freeWord_wf, State.trap_goesOn]

theorem State.expansionStep_goesOn (s : State) (e : Expansion) (hw : φ → s.mem.wf = true) : GoesOn φ (s.expansionStep e) := by
  unfold State.expansionStep
  grind -ring -linarith [State.choose_wf, State.endExpansion_goesOn, State.failExpansion_goesOn, State.gatherEffect_wf,
    State.modThr_wf, State.again_goesOn]

end Sys2Proof.Machine
end

section
/-! PROOFS. The instructions of the threads answer a next state, with memory in its one form. -/

namespace Sys2Proof.Machine
open Sys2Proof

variable {φ : Prop}

theorem goesOn_ite {p : Prop} [Decidable p] {a b : Out} (ha : GoesOn φ a) (hb : GoesOn φ b) : GoesOn φ (if p then a else b) := by
  split
  · exact ha
  · exact hb

theorem State.reportAt_goesOn (s : State) (r : RepCtx) (x : Trap) (hw : φ → s.mem.wf = true) :
    GoesOn φ ((s.modThr (fun t => { t with rep := some r })).trap x) :=
  State.trap_goesOn _ _ (fun hp => s.modThr_wf _ (hw hp))

theorem execRep_goesOn (count : Fin 64) (incD incA incB : Fin 4) (s : State) (hw : φ → s.mem.wf = true) :
    GoesOn φ (execRep count incD incA incB s) := by
  unfold execRep
  dsimp only
  cases s.thr.ir.inner with
  | absent => exact s.trap_goesOn _ hw
  | trap x => exact s.trap_goesOn _ hw
  | illegal w len => exact s.reportAt_goesOn _ _ hw
  | ok i w len =>
    dsimp only
    split
    · exact s.reportAt_goesOn _ _ hw
    refine goesOn_ite (s.reportAt_goesOn _ _ hw) (goesOn_ite (s.reportAt_goesOn _ _ hw) ?_)
    refine goesOn_ite (s.reportAt_goesOn _ _ hw) ?_
    split
    · exact s.reportAt_goesOn _ _ hw
    split
    · exact s.reportAt_goesOn _ _ hw
    exact goesOn_next (fun hp => s.modThr_wf _ (hw hp))

theorem execBfi_goesOn (d a b : Name) (s : State) (hw : φ → s.mem.wf = true) : GoesOn φ (execBfi d a b s) := by
  unfold execBfi
  grind -ring -linarith [State.guarded_goesOn, State.finish_goesOn]

theorem execResize_goesOn (d : Name) (wid : Nat) (s : State) (hw : φ → s.mem.wf = true) : GoesOn φ (execResize d wid s) := by
  unfold execResize
  grind -ring -linarith [State.quieted_wf, State.again_goesOn, State.guarded_goesOn, State.trap_goesOn, State.repackAll_wf,
    State.modThr_wf, State.putFlags_goesOn, State.resizeSpan_wf, State.done_goesOn]

theorem execMode_goesOn (d : Name) (md : OvMode) (s : State) (hw : φ → s.mem.wf = true) : GoesOn φ (execMode d md s) := by
  unfold execMode
  grind -ring -linarith [State.guarded_goesOn, State.trap_goesOn, State.modThr_wf, State.done_goesOn]

theorem execWidth_goesOn (d a : Name) (s : State) (hw : φ → s.mem.wf = true) : GoesOn φ (execWidth d a s) := by
  unfold execWidth
  grind -ring -linarith [State.guarded_goesOn, State.narrowInto_goesOn]

theorem execMff_goesOn (d : Name) (s : State) (hw : φ → s.mem.wf = true) : GoesOn φ (execMff d s) := by
  unfold execMff
  grind -ring -linarith [State.guarded_goesOn, State.narrowInto_goesOn]

theorem execMtf_goesOn (a : Name) (s : State) (hw : φ → s.mem.wf = true) : GoesOn φ (execMtf a s) := by
  unfold execMtf
  grind -ring -linarith [State.guarded_goesOn, State.consume_wf, State.modThr_wf, State.done_goesOn]

theorem execSfclr_goesOn (s : State) (hw : φ → s.mem.wf = true) : GoesOn φ (execSfclr s) := by
  unfold execSfclr
  grind -ring -linarith [State.guarded_goesOn, State.modThr_wf, State.done_goesOn]

theorem execBsf_goesOn (off : Int) (s : State) (hw : φ → s.mem.wf = true) : GoesOn φ (execBsf off s) := by
  unfold execBsf
  grind -ring -linarith [State.guarded_goesOn, State.branchIf_goesOn]

theorem execJmp_goesOn (off : Int) (s : State) (hw : φ → s.mem.wf = true) : GoesOn φ (execJmp off s) := by
  unfold execJmp
  grind -ring -linarith [goesOn_next, State.guarded_goesOn, State.modThr_wf]

theorem execCall_goesOn (off : Int) (s : State) (hw : φ → s.mem.wf = true) : GoesOn φ (execCall off s) := by
  unfold execCall
  grind -ring -linarith [goesOn_next, State.guarded_goesOn, State.modThr_wf]

theorem execJmpr_goesOn (a : Name) (imm : Int) (s : State) (hw : φ → s.mem.wf = true) : GoesOn φ (execJmpr a imm s) := by
  unfold execJmpr
  grind -ring -linarith [goesOn_next, State.guarded_goesOn, State.trap_goesOn, State.consume_wf, State.modThr_wf]

theorem execCallr_goesOn (a : Name) (imm : Int) (s : State) (hw : φ → s.mem.wf = true) : GoesOn φ (execCallr a imm s) := by
  unfold execCallr
  grind -ring -linarith [goesOn_next, State.guarded_goesOn, State.trap_goesOn, State.consume_wf, State.modThr_wf]

theorem execEret_goesOn (s : State) (hw : φ → s.mem.wf = true) : GoesOn φ (execEret s) := by
  unfold execEret
  grind -ring -linarith [State.guarded_goesOn, State.returnFromTrap_goesOn]

theorem execCsrr_goesOn (d : Name) (csr : Csr) (s : State) (hw : φ → s.mem.wf = true) : GoesOn φ (execCsrr d csr s) := by
  unfold execCsrr
  grind -ring -linarith [State.guarded_goesOn, State.narrowInto_goesOn]

theorem execCsrw_goesOn (d : Name) (csr : Csr) (s : State) (hw : φ → s.mem.wf = true) : GoesOn φ (execCsrw d csr s) := by
  unfold execCsrw
  grind -ring -linarith [State.trap_goesOn, State.guarded_goesOn, State.csrWrite_wf, State.consume_wf, State.done_goesOn]

theorem execFencei_goesOn (s : State) (hw : φ → s.mem.wf = true) : GoesOn φ (execFencei s) := by
  unfold execFencei
  grind -ring -linarith [State.modThr_wf, State.done_goesOn]

theorem execFencei16_goesOn (s : State) (hw : φ → s.mem.wf = true) : GoesOn φ (execFencei16 s) := by
  unfold execFencei16
  grind -ring -linarith [State.modThr_wf, State.done_goesOn]

theorem execFcvt_goesOn (d a : Name) (rm : RMode) (s : State) (hw : φ → s.mem.wf = true) : GoesOn φ (execFcvt d a rm s) := by
  unfold execFcvt
  grind -ring -linarith [State.guardedIf_goesOn, State.withNoise_goesOn, State.putPat_goesOn]

theorem execFcvtf_goesOn (d a : Name) (rm : RMode) (s : State) (hw : φ → s.mem.wf = true) :
    GoesOn φ (execFcvtf d a rm s) := by
  unfold execFcvtf
  grind -ring -linarith [State.guardedIf_goesOn, State.withNoise_goesOn, State.putPat_goesOn]

theorem execFcvti_goesOn (d a : Name) (rm : RMode) (s : State) (hw : φ → s.mem.wf = true) :
    GoesOn φ (execFcvti d a rm s) := by
  unfold execFcvti
  grind -ring -linarith [State.guarded_goesOn, State.withNoise_goesOn, State.trap_goesOn, State.finish_goesOn]

theorem execVsel_goesOn (d : VReg) (a b : VOp) (s : State) (hw : φ → s.mem.wf = true) : GoesOn φ (execVsel d a b s) := by
  unfold execVsel
  grind -ring -linarith [State.vissue_goesOn, State.putVreg_goesOn]

theorem execVbcast_goesOn (d : VReg) (a : LowName) (tag : Tag) (s : State) (hw : φ → s.mem.wf = true) :
    GoesOn φ (execVbcast d a tag s) := by
  unfold execVbcast
  grind -ring -linarith [State.vissue_goesOn, State.putVreg_goesOn]

theorem execVext_goesOn (d : Name) (a : VReg) (b : Name) (s : State) (hw : φ → s.mem.wf = true) :
    GoesOn φ (execVext d a b s) := by
  unfold execVext
  grind -ring -linarith [State.vread_goesOn]

theorem execVins_goesOn (d : VReg) (a b : Name) (s : State) (hw : φ → s.mem.wf = true) : GoesOn φ (execVins d a b s) := by
  unfold execVins
  grind -ring -linarith [State.vissue_goesOn, State.putVreg_goesOn]

theorem execVperm_goesOn (d a : VReg) (b : VOp) (s : State) (hw : φ → s.mem.wf = true) : GoesOn φ (execVperm d a b s) := by
  unfold execVperm
  grind -ring -linarith [State.vissue_goesOn, State.putVreg_goesOn]

theorem execVsqrt_goesOn (d a : VReg) (look : Look) (s : State) (hw : φ → s.mem.wf = true) :
    GoesOn φ (execVsqrt d a look s) := by
  unfold execVsqrt
  grind -ring -linarith [State.vissue_goesOn, State.finishLong_goesOn]

theorem execVretag_goesOn (d a : VReg) (tag : Tag) (s : State) (hw : φ → s.mem.wf = true) :
    GoesOn φ (execVretag d a tag s) := by
  unfold execVretag
  grind -ring -linarith [State.vissue_goesOn, State.putVreg_goesOn]

theorem execVsexr_goesOn (d : Name) (a : VReg) (item : Fin 5) (s : State) (hw : φ → s.mem.wf = true) :
    GoesOn φ (execVsexr d a item s) := by
  unfold execVsexr
  grind -ring -linarith [State.vread_goesOn]

theorem execVsexw_goesOn (d : VReg) (a : Name) (item : Fin 5) (s : State) (hw : φ → s.mem.wf = true) :
    GoesOn φ (execVsexw d a item s) := by
  unfold execVsexw
  grind -ring -linarith [State.vissue_goesOn, State.putVreg_goesOn]

theorem execVld_goesOn (d : VReg) (a : Name) (tag : Tag) (look : Look) (s : State) (hw : φ → s.mem.wf = true) :
    GoesOn φ (execVld d a tag look s) := by
  unfold execVld
  grind -ring -linarith [State.guarded_goesOn, State.loading_goesOn, State.finishLong_goesOn]

theorem execVst_goesOn (d : VReg) (a : Name) (tag : Tag) (look : Look) (s : State) (hw : φ → s.mem.wf = true) :
    GoesOn φ (execVst d a tag look s) := by
  unfold execVst
  grind -ring -linarith [State.guardedIf_goesOn, State.vstoring_goesOn, State.finishLong_goesOn]

theorem execVldx_goesOn (d : VReg) (a : Name) (fmt : MemFmt) (look : Look) (s : State) (hw : φ → s.mem.wf = true) :
    GoesOn φ (execVldx d a fmt look s) := by
  unfold execVldx
  grind -ring -linarith [State.trap_goesOn, State.guarded_goesOn, State.loading_goesOn, State.finishLong_goesOn]

theorem execVstx_goesOn (d : VReg) (a : Name) (fmt : MemFmt) (look : Look) (s : State) (hw : φ → s.mem.wf = true) :
    GoesOn φ (execVstx d a fmt look s) := by
  unfold execVstx
  grind -ring -linarith [State.trap_goesOn, State.guardedIf_goesOn, State.vstoring_goesOn, State.finishLong_goesOn]

theorem execVldb_goesOn (d : VReg) (a : Name) (tag : Tag) (look : Look) (s : State) (hw : φ → s.mem.wf = true) :
    GoesOn φ (execVldb d a tag look s) := by
  unfold execVldb
  grind -ring -linarith [State.guarded_goesOn, State.loading_goesOn, State.finishLong_goesOn]

theorem execVgath_goesOn (d : VReg) (a : Name) (tag : Tag) (look : Look) (s : State) (hw : φ → s.mem.wf = true) :
    GoesOn φ (execVgath d a tag look s) := by
  unfold execVgath
  grind -ring -linarith [State.guardedIf_goesOn, State.accessLanes_wf, State.fail_goesOn, State.loadBytes_wf,
    State.trap_goesOn, State.finishLong_goesOn]

theorem execVscat_goesOn (d : VReg) (a : Name) (tag : Tag) (look : Look) (s : State) (hw : φ → s.mem.wf = true) :
    GoesOn φ (execVscat d a tag look s) := by
  unfold execVscat
  grind -ring -linarith [State.guardedIf_goesOn, State.accessLanes_wf, State.fail_goesOn, State.storeWords_wf,
    State.finishLong_goesOn]

theorem execLdff_goesOn (d a : Name) (imm : Int) (s : State) (hw : φ → s.mem.wf = true) : GoesOn φ (execLdff d a imm s) := by
  unfold execLdff
  grind -ring -linarith [State.guarded_goesOn, State.wordAccess_goesOn, State.feHolds_wf, State.cleanWord_goesOn,
    State.feLoad_wf, State.takeWord_goesOn, State.feWait_goesOn]

theorem execLde_goesOn (d a : Name) (imm : Int) (s : State) (hw : φ → s.mem.wf = true) : GoesOn φ (execLde d a imm s) := by
  unfold execLde
  grind -ring -linarith [State.guarded_goesOn, State.wordAccess_goesOn, State.rmw_wf, State.feHolds_wf,
    State.cleanWord_goesOn, State.feLoad_wf, State.changeFull_wf, State.takeWord_goesOn, State.feWait_goesOn]

theorem execStf_goesOn (d a : Name) (imm : Int) (s : State) (hw : φ → s.mem.wf = true) : GoesOn φ (execStf d a imm s) := by
  unfold execStf
  grind -ring -linarith [State.guarded_goesOn, State.wordAccess_goesOn, State.rmw_wf, State.feHolds_wf,
    State.cleanWord_goesOn, State.feStore_wf, State.finish_goesOn, State.feWait_goesOn]

theorem execStff_goesOn (d a : Name) (imm : Int) (look : Look) (s : State) (hw : φ → s.mem.wf = true) :
    GoesOn φ (execStff d a imm look s) := by
  unfold execStff
  grind -ring -linarith [State.guarded_goesOn, State.wordAccess_goesOn, State.rmw_wf, State.cleanWord_goesOn,
    State.feStore_wf, State.finishLong_goesOn]

theorem execFeq_goesOn (d a : Name) (imm : Int) (look : Look) (s : State) (hw : φ → s.mem.wf = true) :
    GoesOn φ (execFeq d a imm look s) := by
  unfold execFeq
  grind -ring -linarith [State.guarded_goesOn, State.wordAccess_goesOn, State.cleanWord_goesOn, State.fePrepare_wf,
    State.readFull_wf, State.narrowLong_goesOn]

theorem execAcas_goesOn (d a b : Name) (scope : Scope) (s : State) (hw : φ → s.mem.wf = true) :
    GoesOn φ (execAcas d a b scope s) := by
  unfold execAcas
  grind -ring -linarith [State.guarded_goesOn, State.wordAccess_goesOn, State.rmw_wf, State.cleanWord_goesOn,
    State.atomicAt_wf, State.narrowAfter_goesOn]

theorem execRfadd_goesOn (a b : Name) (scope : Scope) (s : State) (hw : φ → s.mem.wf = true) :
    GoesOn φ (execRfadd a b scope s) := by
  unfold execRfadd
  grind -ring -linarith [State.trap_goesOn, State.guarded_goesOn, State.rmw_wf, State.fail_goesOn, State.access_wf,
    State.addRf_wf, State.finish_goesOn]

theorem execLrw_goesOn (d a : Name) (scope : Scope) (s : State) (hw : φ → s.mem.wf = true) :
    GoesOn φ (execLrw d a scope s) := by
  unfold execLrw
  grind -ring -linarith [goesOn_next, State.guarded_goesOn, State.wordAccess_goesOn, State.rmw_wf, State.cleanWord_goesOn,
    State.resPrepare_wf, State.resWord_wf, State.takeReserved_goesOn, State.remoteReserve_goesOn, State.acquire_wf,
    State.park_wf]

theorem execSch_goesOn (a b : Name) (scope : Scope) (s : State) (hw : φ → s.mem.wf = true) :
    GoesOn φ (execSch a b scope s) := by
  unfold execSch
  grind -ring -linarith [State.guarded_goesOn, State.giveUp_goesOn]

theorem execLrx_goesOn (a : Name) (scope : Scope) (s : State) (hw : φ → s.mem.wf = true) : GoesOn φ (execLrx a scope s) := by
  unfold execLrx
  grind -ring -linarith [State.guarded_goesOn, State.giveUp_goesOn]

theorem execPhaseRel_goesOn (scope : Scope) (s : State) (hw : φ → s.mem.wf = true) : GoesOn φ (execPhaseRel scope s) := by
  unfold execPhaseRel
  grind -ring -linarith [State.release_wf, State.done_goesOn]

theorem execPhaseAcq_goesOn (scope : Scope) (s : State) (hw : φ → s.mem.wf = true) : GoesOn φ (execPhaseAcq scope s) := by
  unfold execPhaseAcq
  grind -ring -linarith [State.acquire_wf, State.done_goesOn]

theorem execPhaseAr_goesOn (scope : Scope) (s : State) (hw : φ → s.mem.wf = true) : GoesOn φ (execPhaseAr scope s) := by
  unfold execPhaseAr
  grind -ring -linarith [State.release_wf, State.acquire_wf, State.done_goesOn]

theorem execEnqn_goesOn (d a b : Name) (look : Look) (s : State) (hw : φ → s.mem.wf = true) :
    GoesOn φ (execEnqn d a b look s) := by
  refine State.flumeGuard_goesOn _ _ _ _ _ _ _ (fun es t ht => ?_) hw
  have hf := t.flumeOpen_goesOn (t.ext a) (some (handleSize (t.ext a))) true ht
  dsimp only
  cases h : t.flumeOpen (t.ext a) (some (handleSize (t.ext a))) true with
  | out o => rw [h] at hf; exact hf
  | remote pa s1 =>
    rw [h] at hf
    exact State.remoteTry_goesOn _ _ _ (fun ok u hu => u.narrowLongAfter_goesOn _ _ _ _ hu) hf
  | ok pa f s1 =>
    rw [h] at hf
    grind -ring -linarith [Answer.goesOn, State.flumeEnq_wf, State.narrowLongAfter_goesOn]

theorem execDeqn_goesOn (d a : Name) (look : Look) (s : State) (hw : φ → s.mem.wf = true) :
    GoesOn φ (execDeqn d a look s) := by
  refine State.flumeGuard_goesOn _ _ _ _ _ _ _ (fun es t ht => ?_) hw
  have hf := t.flumeOpen_goesOn (t.ext a) (some (handleSize (t.ext a))) false ht
  dsimp only
  cases h : t.flumeOpen (t.ext a) (some (handleSize (t.ext a))) false with
  | out o => rw [h] at hf; exact hf
  | remote pa s1 =>
    rw [h] at hf
    refine State.remoteTry_goesOn _ _ _ (fun ok u hu => ?_) hf
    grind -ring -linarith [State.acquire_wf, State.remoteElem_wf, State.finishLong_goesOn]
  | ok pa f s1 =>
    rw [h] at hf
    grind -ring -linarith [Answer.goesOn, State.flumeDeq_wf, State.acquire_wf, State.finishLong_goesOn]

theorem execQstat_goesOn (d a : Name) (item : Fin 7) (look : Look) (s : State) (hw : φ → s.mem.wf = true) :
    GoesOn φ (execQstat d a item look s) := by
  refine State.guarded_goesOn _ _ _ (fun t ht => ?_) hw
  have hf := t.flumeOpen_goesOn (t.ext a) (some (handleSize (t.ext a))) false ht
  dsimp only
  cases h : t.flumeOpen (t.ext a) (some (handleSize (t.ext a))) false with
  | out o => rw [h] at hf; exact hf
  | remote pa s1 =>
    rw [h] at hf
    refine State.remoteTry_goesOn _ _ _ (fun ok u hu => ?_) hf
    exact State.narrowLong_goesOn _ _ _ _ _ (fun hp => u.externalRead_wf _ _ (hu hp))
  | ok pa f s1 =>
    rw [h] at hf
    exact s1.narrowLong_goesOn _ _ _ _ hf

theorem execQbind_goesOn (d a : Name) (s : State) (hw : φ → s.mem.wf = true) : GoesOn φ (execQbind d a s) := by
  unfold execQbind
  split
  · exact s.qunbind_goesOn d hw
  refine State.guarded_goesOn _ _ _ (fun t ht => ?_) hw
  have hf := t.flumeOpen_goesOn (t.ext a) none false ht
  dsimp only
  cases h : t.flumeOpen (t.ext a) none false with
  | out o => rw [h] at hf; exact hf
  | remote pa s1 =>
    rw [h] at hf
    refine State.remoteTry_goesOn _ _ _ (fun ok u hu => ?_) hf
    grind -ring -linarith [State.putFlags_goesOn, State.consume_wf, State.modThr_wf]
  | ok pa f s1 =>
    rw [h] at hf
    grind -ring -linarith [Answer.goesOn, State.putFlags_goesOn, State.consume_wf, State.modThr_wf]

theorem execSplit_goesOn (units : Fin 5) (s : State) (hw : φ → s.mem.wf = true) : GoesOn φ (execSplit units s) := by
  unfold execSplit
  grind -ring -linarith [State.setSplit_wf, State.putFlags_goesOn]

theorem execMldb_goesOn (a : VReg) (look : Look) (s : State) (hw : φ → s.mem.wf = true) : GoesOn φ (execMldb a look s) := by
  unfold execMldb
  grind -ring -linarith [State.noriaStep_goesOn, State.trap_goesOn, State.again_goesOn, State.runPieces_wf, State.fail_goesOn,
    State.readRuns_wf, State.load_wf, State.nqPush_wf, State.openWindow_wf, State.done_goesOn]

theorem execMmac_goesOn (k : Tok) (a : VReg) (b : Name) (_look : Look) (s : State) (hw : φ → s.mem.wf = true) :
    GoesOn φ (execMmac k a b _look s) := by
  unfold execMmac
  grind -ring -linarith [State.guarded_goesOn, State.trap_goesOn, State.again_goesOn, State.nqPush_wf, State.setCore_wf,
    State.modThr_wf, State.finish_goesOn]

theorem execMrun_goesOn (d a b : Name) (s : State) (hw : φ → s.mem.wf = true) : GoesOn φ (execMrun d a b s) := by
  unfold execMrun
  split
  · exact s.trap_goesOn _ hw
  refine State.noriaStep_goesOn _ _ _ _ (fun t ht => ?_) hw
  grind -ring -linarith [State.trap_goesOn, State.again_goesOn, State.consume_wf, State.done_goesOn, State.mrunStep_wf,
    State.mrunStep_error_wf, State.stepNames_wf, State.endSteps_goesOn]

theorem execMdrn_goesOn (a b : Name) (look : Look) (s : State) (hw : φ → s.mem.wf = true) :
    GoesOn φ (execMdrn a b look s) := by
  unfold execMdrn
  grind -ring -linarith [State.noriaStep_goesOn, State.trap_goesOn, State.again_goesOn, State.release_wf, State.nqPush_wf,
    State.consume_wf, State.openWindow_wf, State.done_goesOn]

theorem execRdone_goesOn (s : State) (hw : φ → s.mem.wf = true) : GoesOn φ (execRdone s) := by
  unfold execRdone
  grind -ring -linarith [State.done_goesOn, State.rowDone_wf, State.modThr_wf]

theorem execNoriaTake_goesOn (quad : Nat) (s : State) (hw : φ → s.mem.wf = true) : GoesOn φ (execNoriaTake quad s) := by
  unfold execNoriaTake
  grind -ring -linarith [goesOn_next, State.noriaTurn_wf]

theorem execMacq_goesOn (a : Name) (s : State) (hw : φ → s.mem.wf = true) : GoesOn φ (execMacq a s) := by
  unfold execMacq
  grind -ring -linarith [State.noriaStep_goesOn, State.trap_goesOn, State.again_goesOn, State.awaitNoria_goesOn,
    State.acquire_wf]

theorem execMrel_goesOn (a : Name) (s : State) (hw : φ → s.mem.wf = true) : GoesOn φ (execMrel a s) := by
  unfold execMrel
  grind -ring -linarith [State.noriaStep_goesOn, State.trap_goesOn, State.again_goesOn, State.awaitNoria_goesOn,
    State.release_wf]

theorem execMhnd_goesOn (a b : Name) (s : State) (hw : φ → s.mem.wf = true) : GoesOn φ (execMhnd a b s) := by
  unfold execMhnd
  grind -ring -linarith [State.noriaStep_goesOn, State.again_goesOn, State.putFlags_goesOn, State.awaitNoria_goesOn,
    State.readEntry_wf, State.trap_goesOn]

theorem execMchk_goesOn (d a : Name) (look : Look) (s : State) (hw : φ → s.mem.wf = true) :
    GoesOn φ (execMchk d a look s) := by
  unfold execMchk
  grind -ring -linarith [goesOn_next, State.noriaStep_goesOn, State.trap_goesOn, State.again_goesOn, State.askNoria_wf,
    State.consume_wf, State.openWindow_wf, State.retire_wf, State.awaitNoria_goesOn]

theorem execRowWritten_goesOn (quad : Nat) (s : State) (hw : φ → s.mem.wf = true) : GoesOn φ (execRowWritten quad s) := by
  unfold execRowWritten
  grind -ring -linarith [goesOn_next, State.setQuad_wf, State.writeRow_wf, State.endChecks_wf]

theorem execSlotLoaded_goesOn (quad slot : Nat) (s : State) (hw : φ → s.mem.wf = true) :
    GoesOn φ (execSlotLoaded quad slot s) := by
  unfold execSlotLoaded
  grind -ring -linarith [goesOn_next, State.setQuad_wf, State.finishLoad_wf]

theorem execRowDrain_goesOn (quad k : Nat) (s : State) (hw : φ → s.mem.wf = true) : GoesOn φ (execRowDrain quad k s) := by
  unfold execRowDrain
  grind -ring -linarith [goesOn_next, State.setQuad_wf, State.answer_wf]

theorem execHandlerDispatch_goesOn (core : Nat) (s : State) (hw : φ → s.mem.wf = true) :
    GoesOn φ (execHandlerDispatch core s) := by
  unfold execHandlerDispatch
  grind -ring -linarith [goesOn_next, State.setQuad_wf, State.startHandler_wf]

theorem execVectorUnitTake_goesOn (quad : Nat) (s : State) (hw : φ → s.mem.wf = true) :
    GoesOn φ (execVectorUnitTake quad s) := by
  unfold execVectorUnitTake
  grind -ring -linarith [goesOn_next, State.vectorTake_wf]

theorem execSpawn_goesOn (d a b : Name) (s : State) (hw : φ → s.mem.wf = true) : GoesOn φ (execSpawn d a b s) := by
  unfold execSpawn
  grind -ring -linarith [State.guarded_goesOn, State.readEntry_wf, State.trap_goesOn, State.takeRecord_wf,
    State.putFlags_goesOn, State.spawnRecord_wf]

theorem execJoin_goesOn (g : Grp) (a : Name) (scope : Scope) (s : State) (hw : φ → s.mem.wf = true) :
    GoesOn φ (execJoin g a scope s) := by
  unfold execJoin
  grind -ring -linarith [State.guarded_goesOn, State.groupPiece_wf, State.fail_goesOn, State.cleanWord_goesOn,
    State.atomicAt_wf, State.putFlags_goesOn, State.modThr_wf]

theorem execLeave_goesOn (g : Grp) (s : State) (hw : φ → s.mem.wf = true) : GoesOn φ (execLeave g s) := by
  unfold execLeave
  grind -ring -linarith [State.putFlags_goesOn, State.withGroup_goesOn, State.leaveWord_wf, State.modThr_wf]

theorem execGbar_goesOn (g : Grp) (s : State) (hw : φ → s.mem.wf = true) : GoesOn φ (execGbar g s) := by
  unfold execGbar
  grind -ring -linarith [State.putFlags_goesOn, State.withGroup_goesOn, State.arrive_goesOn]

theorem execGcnt_goesOn (d : Name) (g : Grp) (item : Fin 4) (s : State) (hw : φ → s.mem.wf = true) :
    GoesOn φ (execGcnt d g item s) := by
  unfold execGcnt
  grind -ring -linarith [State.guarded_goesOn, State.narrowInto_goesOn, State.withGroup_goesOn]

theorem execRotw_goesOn (a : Name) (s : State) (hw : φ → s.mem.wf = true) : GoesOn φ (execRotw a s) := by
  unfold execRotw
  grind -ring -linarith [State.guarded_goesOn, State.setCore_wf, State.putFlags_goesOn]

theorem execLink_goesOn (d : Name) (dir : Fin 4) (s : State) (hw : φ → s.mem.wf = true) : GoesOn φ (execLink d dir s) := by
  unfold execLink
  grind -ring -linarith [State.guarded_goesOn, State.trap_goesOn, State.putFlags_goesOn, State.modThr_wf]

theorem execUnlink_goesOn (d : Name) (s : State) (hw : φ → s.mem.wf = true) : GoesOn φ (execUnlink d s) := by
  unfold execUnlink
  grind -ring -linarith [State.guarded_goesOn, State.trap_goesOn, State.quieted_wf, State.again_goesOn, State.modThr_wf,
    State.putFlags_goesOn]

theorem execLdir_goesOn (a : Name) (s : State) (hw : φ → s.mem.wf = true) : GoesOn φ (execLdir a s) := by
  unfold execLdir
  grind -ring -linarith [State.guarded_goesOn, State.trap_goesOn, State.putFlags_goesOn, State.consume_wf, State.setCore_wf]

theorem execWaitk_goesOn (mask : Nat) (kind : TokKind) (s : State) (hw : φ → s.mem.wf = true) :
    GoesOn φ (execWaitk mask kind s) := by
  unfold execWaitk
  grind -ring -linarith [goesOn_next, State.acquire_wf, State.done_goesOn, State.park_wf]

theorem execToks_goesOn (d : Name) (look : Look) (s : State) (hw : φ → s.mem.wf = true) : GoesOn φ (execToks d look s) := by
  unfold execToks
  grind -ring -linarith [State.guarded_goesOn, State.narrowLong_goesOn]

theorem execBarm_goesOn (d a b : Name) (look : Look) (s : State) (hw : φ → s.mem.wf = true) :
    GoesOn φ (execBarm d a b look s) := by
  unfold execBarm
  grind -ring -linarith [State.guarded_goesOn, State.withBasin_goesOn, State.rmw_wf, State.putBasin_wf,
    State.narrowLongAfter_goesOn]

theorem execBwait_goesOn (d a b : Name) (s : State) (hw : φ → s.mem.wf = true) : GoesOn φ (execBwait d a b s) := by
  unfold execBwait
  grind -ring -linarith [goesOn_next, State.guarded_goesOn, State.withBasin_goesOn, State.remoteWait_wf, State.park_wf,
    State.acquire_wf, State.narrowInto_goesOn]

theorem execBpoll_goesOn (d a b : Name) (look : Look) (s : State) (hw : φ → s.mem.wf = true) :
    GoesOn φ (execBpoll d a b look s) := by
  unfold execBpoll
  grind -ring -linarith [State.guarded_goesOn, State.withBasin_goesOn, State.acquire_wf, State.narrowLong_goesOn]

theorem execBerr_goesOn (d a : Name) (look : Look) (s : State) (hw : φ → s.mem.wf = true) :
    GoesOn φ (execBerr d a look s) := by
  unfold execBerr
  grind -ring -linarith [State.guarded_goesOn, State.withBasin_goesOn, State.narrowLong_goesOn]

theorem execBclr_goesOn (d a : Name) (look : Look) (s : State) (hw : φ → s.mem.wf = true) :
    GoesOn φ (execBclr d a look s) := by
  unfold execBclr
  grind -ring -linarith [State.guarded_goesOn, State.withBasin_goesOn, State.rmw_wf, State.putBasin_wf,
    State.narrowLongAfter_goesOn]

theorem execCopyPacketDequeue_goesOn (baseDie entry : Nat) (s : State) (hw : φ → s.mem.wf = true) :
    GoesOn φ (execCopyPacketDequeue baseDie entry s) := by
  unfold execCopyPacketDequeue
  grind -ring -linarith [goesOn_next, State.dequeuePacket_wf]

theorem execCopyPacketNotBefore_goesOn (id : Nat) (s : State) (hw : φ → s.mem.wf = true) :
    GoesOn φ (execCopyPacketNotBefore id s) := by
  unfold execCopyPacketNotBefore
  grind -ring -linarith [goesOn_next, State.setPacket_wf]

theorem execCopyPacketExecute_goesOn (id : Nat) (s : State) (hw : φ → s.mem.wf = true) :
    GoesOn φ (execCopyPacketExecute id s) := by
  unfold execCopyPacketExecute
  grind -ring -linarith [goesOn_next, State.setPacket_wf, State.runPacket_wf]

theorem execHeldSeqUpdate_goesOn (id : Nat) (s : State) (hw : φ → s.mem.wf = true) : GoesOn φ (execHeldSeqUpdate id s) := by
  unfold execHeldSeqUpdate
  grind -ring -linarith [goesOn_next, State.copyUpdate_wf, State.setPacket_wf]

theorem execSrcEvent_goesOn (id : Nat) (s : State) (hw : φ → s.mem.wf = true) : GoesOn φ (execSrcEvent id s) := by
  unfold execSrcEvent
  grind -ring -linarith [goesOn_next, State.setPacket_wf, State.tokenEvent_wf]

theorem execVisEvent_goesOn (id : Nat) (s : State) (hw : φ → s.mem.wf = true) : GoesOn φ (execVisEvent id s) := by
  unfold execVisEvent
  grind -ring -linarith [goesOn_next, State.finishPacket_wf]

theorem execLpatch_goesOn (d : Name) (item : Fin 13) (b : Name) (look : Look) (s : State) (hw : φ → s.mem.wf = true) :
    GoesOn φ (execLpatch d item b look s) := by
  unfold execLpatch
  grind -ring -linarith [State.trap_goesOn, State.guarded_goesOn, State.answerZ_goesOn, State.atScheduler_goesOn,
    State.patched_wf]

theorem execLarm_goesOn (d : Name) (look : Look) (s : State) (hw : φ → s.mem.wf = true) : GoesOn φ (execLarm d look s) := by
  unfold execLarm
  grind -ring -linarith [State.armLaunch_goesOn, State.setLaunchState_wf, State.launchTrigger_wf]

theorem execLstat_goesOn (d a : Name) (look : Look) (s : State) (hw : φ → s.mem.wf = true) :
    GoesOn φ (execLstat d a look s) := by
  unfold execLstat
  grind -ring -linarith [State.guarded_goesOn, State.narrowLong_goesOn, State.atScheduler_goesOn]

theorem execLaunchDecrement_goesOn (k : Nat) (s : State) (hw : φ → s.mem.wf = true) : GoesOn φ (execLaunchDecrement k s) := by
  unfold execLaunchDecrement
  grind -ring -linarith [goesOn_next, State.decrementAll_wf]

theorem execNbtReached_goesOn (ctx j : Nat) (s : State) (hw : φ → s.mem.wf = true) : GoesOn φ (execNbtReached ctx j s) := by
  unfold execNbtReached
  grind -ring -linarith [goesOn_next, State.settleLaunch_wf, State.launchMoment_wf]

theorem execLaunchTake_goesOn (die : Nat) (s : State) (hw : φ → s.mem.wf = true) : GoesOn φ (execLaunchTake die s) := by
  unfold execLaunchTake
  grind -ring -linarith [goesOn_next, State.takeLaunch_wf]

theorem execSchedulerTakeOver_goesOn (die : Nat) (s : State) (hw : φ → s.mem.wf = true) :
    GoesOn φ (execSchedulerTakeOver die s) := by
  unfold execSchedulerTakeOver
  grind -ring -linarith [goesOn_next, State.choose_wf, State.modDev_wf, State.errRecord_wf]

theorem execStandbySchedulerFailure_goesOn (die : Nat) (s : State) (hw : φ → s.mem.wf = true) :
    GoesOn φ (execStandbySchedulerFailure die s) := by
  unfold execStandbySchedulerFailure
  grind -ring -linarith [goesOn_next, State.modDev_wf]

theorem execSrng_goesOn (d a : Name) (md : Fin 4) (s : State) (hw : φ → s.mem.wf = true) : GoesOn φ (execSrng d a md s) := by
  unfold execSrng
  grind -ring -linarith [State.guarded_goesOn, State.modThr_wf, State.narrowAfter_goesOn]

theorem rinvSends_goesOn (reads : List Name) (d : Name) (l : Look) (p : List Word) (s : State) (hw : φ → s.mem.wf = true) :
    GoesOn φ (Claims.rinvSends reads d l p s) := by
  unfold Claims.rinvSends
  grind -ring -linarith [goesOn_next, State.narrowLongAfter_goesOn, State.sendOfftake_wf, State.consume_wf,
    State.openWindow_wf, State.done_goesOn, State.park_wf]

theorem rinvwSends_goesOn (reads : List Name) (n d : Name) (p : List Word) (s : State) (hw : φ → s.mem.wf = true) :
    GoesOn φ (Claims.rinvwSends reads n d p s) := by
  unfold Claims.rinvwSends
  grind -ring -linarith [goesOn_next, State.narrowAfter_goesOn, State.sendOfftake_wf, State.modThr_wf, State.park_wf]

theorem execRinv_goesOn (d a : Name) (b : VReg) (look : Look) (s : State) (hw : φ → s.mem.wf = true) :
    GoesOn φ (execRinv d a b look s) := by
  refine goesOn_ite (s.trap_goesOn _ hw) (State.guarded_goesOn _ _ _ (fun t ht => ?_) hw)
  refine goesOn_ite (t.narrowLongAfter_goesOn _ _ _ _ ht) ?_
  exact rinvSends_goesOn _ _ _ _ _ (fun hp => t.releaseOfftake_wf _ (ht hp))

theorem execRinvw_goesOn (d a : Name) (b : VReg) (s : State) (hw : φ → s.mem.wf = true) : GoesOn φ (execRinvw d a b s) := by
  refine goesOn_ite (s.trap_goesOn _ hw) (State.guarded_goesOn _ _ _ (fun t ht => ?_) hw)
  refine goesOn_ite (t.narrowAfter_goesOn _ _ _ _ ht) ?_
  exact rinvwSends_goesOn _ _ _ _ _ (fun hp => t.releaseOfftake_wf _ (ht hp))

theorem execOfftakeStatusTimeout_goesOn (id : Nat) (s : State) (hw : φ → s.mem.wf = true) :
    GoesOn φ (execOfftakeStatusTimeout id s) := by
  unfold execOfftakeStatusTimeout
  grind -ring -linarith [goesOn_next, State.answerOfftake_wf]

theorem execRinvwRetry_goesOn (core slot : Nat) (expired : Bool) (s : State) (hw : φ → s.mem.wf = true) :
    GoesOn φ (execRinvwRetry core slot expired s) := by
  unfold execRinvwRetry
  grind -ring -linarith [goesOn_next, State.wakeParty_wf, State.statusAt_wf, State.sendOfftake_wf, State.modThread_wf]

theorem execOfftakeArrival_goesOn (arr : Arrival) (s : State) (hw : φ → s.mem.wf = true) :
    GoesOn φ (execOfftakeArrival arr s) := by
  unfold execOfftakeArrival
  grind -ring -linarith [goesOn_next, State.portOfftake_wf, State.checkOfftake_wf, State.answerOfftake_wf]

theorem execOfftakeDispatch_goesOn (s : State) (hw : φ → s.mem.wf = true) : GoesOn φ (execOfftakeDispatch s) := by
  unfold execOfftakeDispatch
  grind -ring -linarith [goesOn_next, State.takeHead_wf, State.countRefused_wf, State.fireOfftake_wf, foldl_wf, foldl_snd_wf]

theorem execFabricRequest_goesOn (port : Nat) (req : BusReq) (s : State) (hw : φ → s.mem.wf = true) :
    GoesOn φ (execFabricRequest port req s) := by
  unfold execFabricRequest
  grind -ring -linarith [goesOn_next, State.portRequest_wf]

theorem execHostPortRequest_goesOn (req : BusReq) (s : State) (hw : φ → s.mem.wf = true) :
    GoesOn φ (execHostPortRequest req s) := by
  unfold execHostPortRequest
  grind -ring -linarith [goesOn_next, State.hostRequest_wf]

theorem execFlumeEnqueueOperation_goesOn (fcb : Nat) (req : FlumeReq) (s : State) (hw : φ → s.mem.wf = true) :
    GoesOn φ (execFlumeEnqueueOperation fcb req s) := by
  unfold execFlumeEnqueueOperation
  grind -ring -linarith [goesOn_next, State.flumeRequest_wf]

theorem execFlumeDequeueOperation_goesOn (fcb : Nat) (req : FlumeReq) (s : State) (hw : φ → s.mem.wf = true) :
    GoesOn φ (execFlumeDequeueOperation fcb req s) := by
  unfold execFlumeDequeueOperation
  grind -ring -linarith [goesOn_next, State.flumeRequest_wf]

theorem execLinkMarkedDown_goesOn (port : Nat) (s : State) (hw : φ → s.mem.wf = true) :
    GoesOn φ (execLinkMarkedDown port s) := by
  unfold execLinkMarkedDown
  grind -ring -linarith [goesOn_next, State.modDev_wf]

theorem execLinkRestored_goesOn (port : Nat) (s : State) (hw : φ → s.mem.wf = true) : GoesOn φ (execLinkRestored port s) := by
  unfold execLinkRestored
  grind -ring -linarith [goesOn_next, State.modDev_wf]

theorem execRstat_goesOn (d a : Name) (item : Fin 8) (look : Look) (s : State) (hw : φ → s.mem.wf = true) :
    GoesOn φ (execRstat d a item look s) := by
  unfold execRstat
  grind -ring -linarith [State.guarded_goesOn, State.rstat_wf, State.narrowLong_goesOn]

theorem execTbr_goesOn (d : Name) (look : Look) (s : State) (hw : φ → s.mem.wf = true) : GoesOn φ (execTbr d look s) := by
  unfold execTbr
  grind -ring -linarith [State.guarded_goesOn, State.narrowLong_goesOn]

theorem execWaitt_goesOn (d a : Name) (s : State) (hw : φ → s.mem.wf = true) : GoesOn φ (execWaitt d a s) := by
  unfold execWaitt
  grind -ring -linarith [goesOn_next, State.guarded_goesOn, State.narrowInto_goesOn, State.park_wf]

theorem execWaittWake_goesOn (core slot : Nat) (s : State) (hw : φ → s.mem.wf = true) :
    GoesOn φ (execWaittWake core slot s) := by
  unfold execWaittWake
  grind -ring -linarith [goesOn_next, State.pushReceived_wf, State.completeParty_wf]

theorem execTimeSyncSend_goesOn (_port : Nat) (s : State) (hw : φ → s.mem.wf = true) :
    GoesOn φ (execTimeSyncSend _port s) := by
  unfold execTimeSyncSend
  grind -ring -linarith [goesOn_next]

theorem execTimeSyncFlit_goesOn (time : Nat) (stepped : Bool) (s : State) (hw : φ → s.mem.wf = true) :
    GoesOn φ (execTimeSyncFlit time stepped s) := by
  unfold execTimeSyncFlit
  grind -ring -linarith [goesOn_next, State.choose_wf, State.modDev_wf]

theorem execTimeSyncLoss_goesOn (s : State) (hw : φ → s.mem.wf = true) : GoesOn φ (execTimeSyncLoss s) := by
  unfold execTimeSyncLoss
  grind -ring -linarith [goesOn_next, State.modDev_wf]

theorem execCollectiveExecute_goesOn (tag : Nat) (remote : List RemoteRank) (s : State) (hw : φ → s.mem.wf = true) :
    GoesOn φ (execCollectiveExecute tag remote s) := by
  unfold execCollectiveExecute
  grind -ring -linarith [goesOn_next, State.setPacket_wf, State.collTables_wf, State.collFail_wf, State.collRun_wf, foldl_wf,
    foldl_snd_wf]

theorem execCollectiveTimeout_goesOn (tag : Nat) (s : State) (hw : φ → s.mem.wf = true) :
    GoesOn φ (execCollectiveTimeout tag s) := by
  unfold execCollectiveTimeout
  grind -ring -linarith [goesOn_next, State.collFail_wf]

theorem execContextDrained_goesOn (ctx : Nat) (s : State) (hw : φ → s.mem.wf = true) :
    GoesOn φ (execContextDrained ctx s) := by
  unfold execContextDrained
  grind -ring -linarith [goesOn_next, State.finishDrain_wf]

theorem execQuadStateRestore_goesOn (ctx k : Nat) (s : State) (hw : φ → s.mem.wf = true) :
    GoesOn φ (execQuadStateRestore ctx k s) := by
  unfold execQuadStateRestore
  grind -ring -linarith [goesOn_next, State.restoreSection_wf, State.modCtx_wf]

theorem execApplicationCoreContextCommand_goesOn (cmd : CtxCmd) (ctx : Nat) (s : State) (hw : φ → s.mem.wf = true) :
    GoesOn φ (execApplicationCoreContextCommand cmd ctx s) := by
  unfold execApplicationCoreContextCommand
  grind -ring -linarith [goesOn_next, State.modDev_wf, State.command_wf]

theorem execCommit_goesOn (s : State) (hw : φ → s.mem.wf = true) : GoesOn φ (execCommit s) := by
  unfold execCommit
  grind -ring -linarith [State.quieted_wf, State.again_goesOn, State.modThr_wf, State.done_goesOn]

theorem execUnfreeze_goesOn (d a : Name) (action : Fin 3) (s : State) (hw : φ → s.mem.wf = true) :
    GoesOn φ (execUnfreeze d a action s) := by
  unfold execUnfreeze
  grind -ring -linarith [State.guarded_goesOn, State.unfreeze_wf, State.again_goesOn, State.narrowAfter_goesOn]

theorem execErrpop_goesOn (d : Name) (b : VReg) (s : State) (hw : φ → s.mem.wf = true) : GoesOn φ (execErrpop d b s) := by
  unfold execErrpop
  grind -ring -linarith [State.guarded_goesOn, State.narrowAfter_goesOn, State.headRecord_wf, State.modThr_wf, State.modDev_wf]

theorem execDtset_goesOn (d a : Name) (md : Fin 3) (s : State) (hw : φ → s.mem.wf = true) :
    GoesOn φ (execDtset d a md s) := by
  unfold execDtset
  grind -ring -linarith [State.guarded_goesOn, State.narrowAfter_goesOn]

theorem execSpill_goesOn (d a : Name) (s : State) (hw : φ → s.mem.wf = true) : GoesOn φ (execSpill d a s) := by
  unfold execSpill
  grind -ring -linarith [State.guarded_goesOn, State.narrowAfter_goesOn, State.answer_wf, State.again_goesOn,
    State.spillThread_wf]

theorem execFirmwareExpansion_goesOn (major3F : Bool) (_operand : Nat) (s : State) (hw : φ → s.mem.wf = true) :
    GoesOn φ (execFirmwareExpansion major3F _operand s) := by
  unfold execFirmwareExpansion
  grind -ring -linarith [State.modThr_wf, State.expansionStep_goesOn, State.trap_goesOn]

end Sys2Proof.Machine
end

section
/-! PROOFS. The steps of the engines answer a next state, with memory in its one form. -/

namespace Sys2Proof.Machine
open Sys2Proof

variable {φ : Prop}

theorem execLongLatencyCompletion_goesOn (core slot k : Nat) (s : State) (hw : φ → s.mem.wf = true) :
    GoesOn φ (execLongLatencyCompletion core slot k s) := by
  unfold execLongLatencyCompletion
  grind -ring -linarith [goesOn_next, State.landOne_wf, State.putThread_wf]

theorem execRepackOperation_goesOn (core : Nat) (s : State) (hw : φ → s.mem.wf = true) :
    GoesOn φ (execRepackOperation core s) := by
  unfold execRepackOperation
  grind -ring -linarith [goesOn_next, State.repackOne_wf]

theorem execRecordPlacement_goesOn (core : Nat) (s : State) (hw : φ → s.mem.wf = true) :
    GoesOn φ (execRecordPlacement core s) := by
  unfold execRecordPlacement
  grind -ring -linarith [goesOn_next, State.takeReady_wf]

theorem execParkedThreadSpill_goesOn (core : Nat) (s : State) (hw : φ → s.mem.wf = true) :
    GoesOn φ (execParkedThreadSpill core s) := by
  unfold execParkedThreadSpill
  grind -ring -linarith [goesOn_next, State.setCore_wf]

theorem execRunnelTransfer_goesOn (core slot : Nat) (s : State) (hw : φ → s.mem.wf = true) :
    GoesOn φ (execRunnelTransfer core slot s) := by
  unfold execRunnelTransfer
  grind -ring -linarith [goesOn_next, State.seenFrom_wf, State.clearForeign_wf, State.putThread_wf, State.unparkOrder_wf]

theorem execL1Eviction_goesOn (core line : Nat) (s : State) (hw : φ → s.mem.wf = true) :
    GoesOn φ (execL1Eviction core line s) := by
  unfold execL1Eviction
  grind -ring -linarith [goesOn_next, State.evictLine_wf]

theorem Mem.sector_wf {m : Mem} {die block : Nat} {x : Sector} (hw : m.wf = true) (hx : m.sector die block = some x) :
    cellsWf x.cells = true :=
  ((Mem.wf_iff m).1 hw).2.1 x (List.mem_of_find?_eq_some hx)

theorem execL2SectorEviction_goesOn (die block : Nat) (s : State) (hw : φ → s.mem.wf = true) :
    GoesOn φ (execL2SectorEviction die block s) := by
  unfold execL2SectorEviction
  split
  · exact goesOn_next hw
  next x hx =>
    have hs (hp : φ) : (if x.badWords.isEmpty then (0, s) else s.choose 4096).2.mem.wf = true := by
      split
      · exact hw hp
      · exact s.choose_wf _ (hw hp)
    exact goesOn_next (fun hp => Mem.filterL2_wf _ _ (State.cleanSector_wf _ _ _ (Mem.sector_wf (hw hp) hx) (hs hp)))

theorem execReservationAdmission_goesOn (home : ResHome) (s : State) (hw : φ → s.mem.wf = true) :
    GoesOn φ (execReservationAdmission home s) := by
  unfold execReservationAdmission
  grind -ring -linarith [goesOn_next, State.admitNext_wf]

theorem execFlumeWaitExpiry_goesOn (fcb k : Nat) (s : State) (hw : φ → s.mem.wf = true) :
    GoesOn φ (execFlumeWaitExpiry fcb k s) := by
  unfold execFlumeWaitExpiry
  grind -ring -linarith [goesOn_next, State.flumeExpire_wf]

theorem execAsyncErrorDelivery_goesOn (core slot : Nat) (s : State) (hw : φ → s.mem.wf = true) :
    GoesOn φ (execAsyncErrorDelivery core slot s) := by
  unfold execAsyncErrorDelivery
  grind -ring -linarith [goesOn_next, State.withdrawSlot_wf, State.landSlotStores_wf, State.vectorDone_wf, State.landAll_wf,
    State.trapEntry_wf, State.putThread_wf]

theorem execCodePageCheck_goesOn (page object : Nat) (good : Bool) (s : State) (hw : φ → s.mem.wf = true) :
    GoesOn φ (execCodePageCheck page object good s) := by
  unfold execCodePageCheck
  grind -ring -linarith [goesOn_next, State.pageChecked_wf]

theorem execNoiseHealthFailure_goesOn (quad : Nat) (test : Bool) (s : State) (hw : φ → s.mem.wf = true) :
    GoesOn φ (execNoiseHealthFailure quad test s) := by
  unfold execNoiseHealthFailure
  grind -ring -linarith [goesOn_next, State.setNoise_wf, State.errRecord_wf]

theorem execNoiseFaultCleared_goesOn (quad : Nat) (s : State) (hw : φ → s.mem.wf = true) :
    GoesOn φ (execNoiseFaultCleared quad s) := by
  unfold execNoiseFaultCleared
  grind -ring -linarith [goesOn_next, State.setNoise_wf]

theorem execBootStart_goesOn (report : BootReport) (s : State) (hw : φ → s.mem.wf = true) :
    GoesOn φ (execBootStart report s) := by
  unfold execBootStart
  grind -ring -linarith [goesOn_next, State.modDev_wf]

theorem execBootReady_goesOn (s : State) (hw : φ → s.mem.wf = true) : GoesOn φ (execBootReady s) := by
  unfold execBootReady
  grind -ring -linarith [goesOn_next, State.modDev_wf]

theorem execBootTimeout_goesOn (s : State) (hw : φ → s.mem.wf = true) : GoesOn φ (execBootTimeout s) := by
  unfold execBootTimeout
  grind -ring -linarith [goesOn_next, State.modDev_wf]

theorem execPowerLoss_goesOn (s : State) : GoesOn φ (execPowerLoss s) := by
  unfold execPowerLoss
  grind -ring -linarith [goesOn_next, State.modDev_wf, State.restart_wf]

theorem execBootcmdReset_goesOn (s : State) : GoesOn φ (execBootcmdReset s) := by
  unfold execBootcmdReset
  grind -ring -linarith [goesOn_next, State.modDev_wf, State.restart_wf]

theorem execBootcmdClearMinimal_goesOn (s : State) (hw : φ → s.mem.wf = true) : GoesOn φ (execBootcmdClearMinimal s) := by
  unfold execBootcmdClearMinimal
  grind -ring -linarith [goesOn_next, State.modDev_wf]

theorem execClockStepUp_goesOn (die : Nat) (s : State) (hw : φ → s.mem.wf = true) : GoesOn φ (execClockStepUp die s) := by
  unfold execClockStepUp
  grind -ring -linarith [goesOn_next, State.modDev_wf]

theorem execClockStepDown_goesOn (die : Nat) (s : State) (hw : φ → s.mem.wf = true) : GoesOn φ (execClockStepDown die s) := by
  unfold execClockStepDown
  grind -ring -linarith [goesOn_next, State.modDev_wf]

theorem execProtectiveShutdown_goesOn (voltage : Bool) (s : State) (hw : φ → s.mem.wf = true) :
    GoesOn φ (execProtectiveShutdown voltage s) := by
  unfold execProtectiveShutdown
  grind -ring -linarith [goesOn_next, State.modDev_wf]

theorem execTlbinvAll_goesOn (s : State) (hw : φ → s.mem.wf = true) : GoesOn φ (execTlbinvAll s) := by
  unfold execTlbinvAll
  grind -ring -linarith [goesOn_next, State.startInvalidate_wf]

theorem execTlbinvContext_goesOn (ctx : Nat) (s : State) (hw : φ → s.mem.wf = true) : GoesOn φ (execTlbinvContext ctx s) := by
  unfold execTlbinvContext
  grind -ring -linarith [goesOn_next, State.startInvalidate_wf]

theorem execTlbinvPage_goesOn (ctx va : Nat) (s : State) (hw : φ → s.mem.wf = true) : GoesOn φ (execTlbinvPage ctx va s) := by
  unfold execTlbinvPage
  grind -ring -linarith [goesOn_next, State.setReg_wf, State.startInvalidate_wf]

theorem execTlbinvComplete_goesOn (s : State) (hw : φ → s.mem.wf = true) : GoesOn φ (execTlbinvComplete s) := by
  unfold execTlbinvComplete
  grind -ring -linarith [goesOn_next, State.modMem_mem, State.modDev_wf, Mem.wf]

theorem execWqclr_goesOn (s : State) (hw : φ → s.mem.wf = true) : GoesOn φ (execWqclr s) := by
  unfold execWqclr
  grind -ring -linarith [goesOn_next, State.modDev_wf]

theorem execDeviceRegisterWrite_goesOn (reg : AgentReg) (val : BitVec 64) (s : State) (hw : φ → s.mem.wf = true) :
    GoesOn φ (execDeviceRegisterWrite reg val s) := by
  unfold execDeviceRegisterWrite
  grind -ring -linarith [goesOn_next, State.agentWrite_wf]

end Sys2Proof.Machine
end

section
/-! PROOFS. Every instruction answers a next state, and every step keeps memory in its one form (log 4). -/

namespace Sys2Proof.Machine
open Sys2Proof

variable {φ : Prop}

/-- Every instruction goes on: by its own lemma, or by that of the one operation that it is. -/
theorem exec_goesOn (i : Instr) (s : State) (hw : φ → s.mem.wf = true) : GoesOn φ (exec i s) := by
  cases i with
  | add | sub | mul | mulh | and | or | xor | andn | shl | shr | sra | rol | min | minu | max | maxu | ceq
    | cne | clt | cltu | cle | cleu | sel | bfx | clz | popc | abs | neg | not | addi | andi | ori | xori
    | shli | shri | srai | clti | ldk | ldks | sptest | spcast | spmake | spcore | tid | rotr | ldirr | dtget
    | add16 | sub16 | mul16 | and16 | or16 | xor16 | shl16 | shr16 | sra16 | min16 | max16 | neg16 | not16
    | abs16 | clt16 | movis => exact State.alu_goesOn _ _ _ _ hw
  | div | divu | rem | remu => exact State.division_goesOn _ _ _ _ _ hw
  | bfi => exact execBfi_goesOn _ _ _ _ hw
  | mov | mov16 => exact State.move_goesOn _ _ _ hw
  | resize => exact execResize_goesOn _ _ _ hw
  | mode => exact execMode_goesOn _ _ _ hw
  | width => exact execWidth_goesOn _ _ _ hw
  | mff => exact execMff_goesOn _ _ hw
  | mtf => exact execMtf_goesOn _ _ hw
  | sfclr => exact execSfclr_goesOn _ hw
  | beq | bne | blt | bge | bltu | bgeu => exact State.branch_goesOn _ _ _ _ _ hw
  | bsf => exact execBsf_goesOn _ _ hw
  | jmp => exact execJmp_goesOn _ _ hw
  | call => exact execCall_goesOn _ _ hw
  | jmpr => exact execJmpr_goesOn _ _ _ hw
  | callr => exact execCallr_goesOn _ _ _ hw
  | fadd | fsub | fmul | fdiv | fsqrt | fmin | fmax | fneg | fabs => exact State.falu_goesOn _ _ _ _ hw
  | fceq | fclt | fcle | fclass => exact State.fint_goesOn _ _ _ _ hw
  | fcvt => exact execFcvt_goesOn _ _ _ _ hw
  | fcvti => exact execFcvti_goesOn _ _ _ _ hw
  | fcvtf => exact execFcvtf_goesOn _ _ _ _ hw
  | fma | fms | fnma =>
    unfold exec
    exact State.fused_goesOn _ _ _ _ _ _ hw
  | bmov | bset => exact State.block_goesOn _ _ _ _ _ hw
  | trap | brk => exact State.trap_goesOn _ _ hw
  | eret => exact execEret_goesOn _ hw
  | csrr => exact execCsrr_goesOn _ _ _ hw
  | csrw => exact execCsrw_goesOn _ _ _ hw
  | fencei => exact execFencei_goesOn _ hw
  | ldb | ldh | ldw | ldd | ldbu | ldhu | ldwu =>
    unfold exec
    exact State.scalarLoad_goesOn _ _ _ _ _ _ _ _ hw
  | ldff => exact execLdff_goesOn _ _ _ _ hw
  | stb | sth | stw | std => exact State.scalarStore_goesOn _ _ _ _ _ _ _ hw
  | vld => exact execVld_goesOn _ _ _ _ _ hw
  | vst => exact execVst_goesOn _ _ _ _ _ hw
  | vldx => exact execVldx_goesOn _ _ _ _ _ hw
  | vstx => exact execVstx_goesOn _ _ _ _ _ hw
  | vldb => exact execVldb_goesOn _ _ _ _ _ hw
  | vgath => exact execVgath_goesOn _ _ _ _ _ hw
  | vscat => exact execVscat_goesOn _ _ _ _ _ hw
  | lde => exact execLde_goesOn _ _ _ _ hw
  | stf => exact execStf_goesOn _ _ _ _ hw
  | stff => exact execStff_goesOn _ _ _ _ _ hw
  | feq => exact execFeq_goesOn _ _ _ _ _ hw
  | fempty | fefill => exact State.feMark_goesOn _ _ _ _ _ hw
  | aadd | amin | aminu | amax | amaxu | aand | aor | axor | aswp =>
    unfold exec
    exact State.atomicOp_goesOn _ _ _ _ _ _ hw
  | acas => exact execAcas_goesOn _ _ _ _ _ hw
  | radd | rmin | rmax | ror => exact State.reduction_goesOn _ _ _ _ _ hw
  | rfadd => exact execRfadd_goesOn _ _ _ _ hw
  | lrw => exact execLrw_goesOn _ _ _ _ hw
  | sch => exact execSch_goesOn _ _ _ _ hw
  | lrx => exact execLrx_goesOn _ _ _ hw
  | phaseRel => exact execPhaseRel_goesOn _ _ hw
  | phaseAcq => exact execPhaseAcq_goesOn _ _ hw
  | phaseAr => exact execPhaseAr_goesOn _ _ hw
  | enq | enqw => exact State.enqueue_goesOn _ _ _ _ hw
  | deq | deqw => exact State.dequeue_goesOn _ _ _ _ hw
  | enqn => exact execEnqn_goesOn _ _ _ _ _ hw
  | deqn => exact execDeqn_goesOn _ _ _ _ hw
  | qstat => exact execQstat_goesOn _ _ _ _ _ hw
  | qbind => exact execQbind_goesOn _ _ _ hw
  | split => exact execSplit_goesOn _ _ hw
  | spawn => exact execSpawn_goesOn _ _ _ _ hw
  | quit | quit16 => exact State.quit_goesOn _ hw
  | yield | yield16 => exact State.yield_goesOn _ hw
  | join => exact execJoin_goesOn _ _ _ _ hw
  | leave => exact execLeave_goesOn _ _ hw
  | gbar => exact execGbar_goesOn _ _ hw
  | gcnt => exact execGcnt_goesOn _ _ _ _ hw
  | rotw => exact execRotw_goesOn _ _ hw
  | link => exact execLink_goesOn _ _ _ hw
  | unlink => exact execUnlink_goesOn _ _ hw
  | ldir => exact execLdir_goesOn _ _ hw
  | vadd | vsub | vmul | vmin | vmax | vminu | vmaxu | vand | vor | vxor | vadd16 | vsub16 | vmul16 | vand16
    | vor16 | vxor16 | vmin16 | vmax16 =>
    unfold exec
    exact State.vlane_goesOn _ _ _ _ _ _ hw
  | vshl | vshr | vsra | vshl16 | vshr16 | vsra16 => exact State.vshift_goesOn _ _ _ _ _ hw
  | vabs | vneg | vneg16 | vabs16 => exact State.vunary_goesOn _ _ _ _ _ hw
  | vceq | vclt | vcle | vclt16 => exact State.vcompare_goesOn _ _ _ _ _ _ hw
  | vsel => exact execVsel_goesOn _ _ _ _ hw
  | vmov | vmov16 => exact State.vcopy_goesOn _ _ _ hw
  | vbcast => exact execVbcast_goesOn _ _ _ _ hw
  | vext => exact execVext_goesOn _ _ _ _ hw
  | vins => exact execVins_goesOn _ _ _ _ hw
  | vperm => exact execVperm_goesOn _ _ _ _ hw
  | vradd | vrmax | vrmin => exact State.vreduce_goesOn _ _ _ _ _ hw
  | vfma | vfms | vdiv =>
    unfold exec
    exact State.vlong_goesOn _ _ _ _ _ _ _ hw
  | vsqrt => exact execVsqrt_goesOn _ _ _ _ hw
  | vcvt | vdxq =>
    unfold exec
    exact State.vconvert_goesOn _ _ _ _ _ _ _ hw
  | vtag =>
    unfold exec
    exact State.vread_goesOn _ _ _ _ _ hw
  | vretag => exact execVretag_goesOn _ _ _ _ hw
  | vsexr => exact execVsexr_goesOn _ _ _ _ hw
  | vsexw => exact execVsexw_goesOn _ _ _ _ hw
  | cpy | coll => exact State.appendPacket_goesOn _ _ _ _ _ hw
  | toks => exact execToks_goesOn _ _ _ hw
  | barm => exact execBarm_goesOn _ _ _ _ _ hw
  | bwait => exact execBwait_goesOn _ _ _ _ hw
  | bpoll => exact execBpoll_goesOn _ _ _ _ _ hw
  | berr => exact execBerr_goesOn _ _ _ _ hw
  | bclr => exact execBclr_goesOn _ _ _ _ hw
  | lpatch => exact execLpatch_goesOn _ _ _ _ _ hw
  | larm => exact execLarm_goesOn _ _ _ hw
  | lfire =>
    unfold exec
    exact State.armLaunch_goesOn _ _ _ _ (fun _ _ ht => State.launchTrigger_wf _ _ _ (State.setLaunch_wf _ _ _ _ _ _ _ ht)) hw
  | lstat => exact execLstat_goesOn _ _ _ _ hw
  | mldb => exact execMldb_goesOn _ _ _ hw
  | mmac =>
    unfold exec
    exact execMmac_goesOn _ _ _ _ _ hw
  | mrun => exact execMrun_goesOn _ _ _ _ hw
  | mdrn => exact execMdrn_goesOn _ _ _ _ hw
  | mhnd => exact execMhnd_goesOn _ _ _ hw
  | mchk => exact execMchk_goesOn _ _ _ _ hw
  | macq => exact execMacq_goesOn _ _ hw
  | mrel => exact execMrel_goesOn _ _ hw
  | srng => exact execSrng_goesOn _ _ _ _ hw
  | commit => exact execCommit_goesOn _ hw
  | ctxsv | ctxld | preempt => exact State.contextCommand_goesOn _ _ _ _ _ hw
  | unfreeze => exact execUnfreeze_goesOn _ _ _ _ hw
  | errpop => exact execErrpop_goesOn _ _ _ hw
  | dtset => exact execDtset_goesOn _ _ _ _ hw
  | spill => exact execSpill_goesOn _ _ _ hw
  | rinv => exact execRinv_goesOn _ _ _ _ _ hw
  | rinvw => exact execRinvw_goesOn _ _ _ _ hw
  | rstat => exact execRstat_goesOn _ _ _ _ _ hw
  | tbr => exact execTbr_goesOn _ _ _ hw
  | waitt => exact execWaitt_goesOn _ _ _ hw
  | rep => exact execRep_goesOn _ _ _ _ _ hw
  | waitk => exact execWaitk_goesOn _ _ _ hw
  | nop => exact State.done_goesOn _ hw
  | rdone => exact execRdone_goesOn _ hw
  | fencei16 => exact execFencei16_goesOn _ hw
  | firmwareExpansion =>
    unfold exec
    exact execFirmwareExpansion_goesOn _ _ _ hw
  | longLatencyCompletion => exact execLongLatencyCompletion_goesOn _ _ _ _ hw
  | repackOperation => exact execRepackOperation_goesOn _ _ hw
  | recordPlacement => exact execRecordPlacement_goesOn _ _ hw
  | parkedThreadSpill => exact execParkedThreadSpill_goesOn _ _ hw
  | vectorUnitTake => exact execVectorUnitTake_goesOn _ _ hw
  | runnelTransfer => exact execRunnelTransfer_goesOn _ _ _ hw
  | l1Eviction => exact execL1Eviction_goesOn _ _ _ hw
  | reservationAdmission => exact execReservationAdmission_goesOn _ _ hw
  | flumeEnqueueOperation => exact execFlumeEnqueueOperation_goesOn _ _ _ hw
  | flumeDequeueOperation => exact execFlumeDequeueOperation_goesOn _ _ _ hw
  | flumeWaitExpiry => exact execFlumeWaitExpiry_goesOn _ _ _ hw
  | copyPacketDequeue => exact execCopyPacketDequeue_goesOn _ _ _ hw
  | copyPacketNotBefore => exact execCopyPacketNotBefore_goesOn _ _ hw
  | copyPacketExecute => exact execCopyPacketExecute_goesOn _ _ hw
  | heldSeqUpdate => exact execHeldSeqUpdate_goesOn _ _ hw
  | srcEvent => exact execSrcEvent_goesOn _ _ hw
  | visEvent => exact execVisEvent_goesOn _ _ hw
  | launchDecrement => exact execLaunchDecrement_goesOn _ _ hw
  | nbtReached => exact execNbtReached_goesOn _ _ _ hw
  | launchTake => exact execLaunchTake_goesOn _ _ hw
  | noriaTake => exact execNoriaTake_goesOn _ _ hw
  | rowWritten => exact execRowWritten_goesOn _ _ hw
  | slotLoaded => exact execSlotLoaded_goesOn _ _ _ hw
  | rowDrain => exact execRowDrain_goesOn _ _ _ hw
  | handlerDispatch => exact execHandlerDispatch_goesOn _ _ hw
  | asyncErrorDelivery => exact execAsyncErrorDelivery_goesOn _ _ _ hw
  | contextDrained => exact execContextDrained_goesOn _ _ hw
  | quadStateRestore => exact execQuadStateRestore_goesOn _ _ _ hw
  | codePageCheck => exact execCodePageCheck_goesOn _ _ _ _ hw
  | schedulerTakeOver => exact execSchedulerTakeOver_goesOn _ _ hw
  | noiseHealthFailure => exact execNoiseHealthFailure_goesOn _ _ _ hw
  | fabricRequest => exact execFabricRequest_goesOn _ _ _ hw
  | hostPortRequest => exact execHostPortRequest_goesOn _ _ hw
  | linkMarkedDown => exact execLinkMarkedDown_goesOn _ _ hw
  | offtakeArrival => exact execOfftakeArrival_goesOn _ _ hw
  | offtakeStatusTimeout => exact execOfftakeStatusTimeout_goesOn _ _ hw
  | rinvwRetry => exact execRinvwRetry_goesOn _ _ _ _ hw
  | offtakeDispatch => exact execOfftakeDispatch_goesOn _ hw
  | collectiveExecute => exact execCollectiveExecute_goesOn _ _ _ hw
  | collectiveTimeout => exact execCollectiveTimeout_goesOn _ _ hw
  | waittWake => exact execWaittWake_goesOn _ _ _ hw
  | timeSyncSend =>
    unfold exec
    exact execTimeSyncSend_goesOn _ _ hw
  | timeSyncFlit => exact execTimeSyncFlit_goesOn _ _ _ hw
  | timeSyncLoss => exact execTimeSyncLoss_goesOn _ hw
  | bootStart => exact execBootStart_goesOn _ _ hw
  | bootReady => exact execBootReady_goesOn _ hw
  | bootTimeout => exact execBootTimeout_goesOn _ hw
  | powerLoss => exact execPowerLoss_goesOn _
  | clockStepUp => exact execClockStepUp_goesOn _ _ hw
  | clockStepDown => exact execClockStepDown_goesOn _ _ hw
  | protectiveShutdown => exact execProtectiveShutdown_goesOn _ _ hw
  | bootcmdClearMinimal => exact execBootcmdClearMinimal_goesOn _ hw
  | bootcmdReset => exact execBootcmdReset_goesOn _
  | tlbinvAll => exact execTlbinvAll_goesOn _ hw
  | tlbinvContext => exact execTlbinvContext_goesOn _ _ hw
  | tlbinvPage => exact execTlbinvPage_goesOn _ _ _ hw
  | tlbinvComplete => exact execTlbinvComplete_goesOn _ hw
  | wqclr => exact execWqclr_goesOn _ hw
  | deviceRegisterWrite => exact execDeviceRegisterWrite_goesOn _ _ _ hw
  | noiseFaultCleared => exact execNoiseFaultCleared_goesOn _ _ hw
  | applicationCoreContextCommand => exact execApplicationCoreContextCommand_goesOn _ _ _ hw
  | l2SectorEviction => exact execL2SectorEviction_goesOn _ _ _ hw
  | standbySchedulerFailure => exact execStandbySchedulerFailure_goesOn _ _ hw
  | linkRestored => exact execLinkRestored_goesOn _ _ hw

/-! ## Turns -/

theorem GoesOn.wf {o : Out} (h : GoesOn True o) {t : State} (he : o = .next t) : t.mem.wf = true := by
  obtain ⟨u, hu, hw⟩ := h
  obtain rfl : u = t := Host.Outcome.next.inj (hu.symm.trans he)
  exact hw trivial

theorem exec_wf (i : Instr) {s t : State} (hw : s.mem.wf = true) (he : exec i s = .next t) : t.mem.wf = true :=
  (exec_goesOn i s (fun _ => hw)).wf he

theorem State.iterate_goesOn (s : State) (r : RepCtx) (hw : φ → s.mem.wf = true) : GoesOn φ (s.iterate exec r) := by
  unfold State.iterate
  grind -ring -linarith [goesOn_next, State.trap_goesOn, exec_goesOn, State.modThr_wf]

theorem afterRep_goesOn {o : Out} (h : GoesOn φ o) : GoesOn φ (State.afterRep exec o) := by
  obtain ⟨t, rfl, hw⟩ := h
  unfold State.afterRep
  dsimp only
  split
  · exact t.iterate_goesOn _ hw
  · exact goesOn_next hw

theorem State.runDecoded_goesOn (s : State) (w len : Nat) (i : Instr) (hw : φ → s.mem.wf = true) :
    GoesOn φ (s.runDecoded exec w len i) := by
  unfold State.runDecoded
  split
  · exact afterRep_goesOn (exec_goesOn _ _ (fun hp => State.modThr_wf _ _ (s.fetchInner_wf _ (hw hp))))
  · exact exec_goesOn _ _ (fun hp => s.modThr_wf _ (hw hp))

theorem State.issueNext_goesOn (s : State) (hw : φ → s.mem.wf = true) : GoesOn φ (s.issueNext exec) := by
  unfold State.issueNext
  grind -ring -linarith [goesOn_next, State.iterate_goesOn, State.trap_goesOn, State.runDecoded_goesOn, State.modThr_wf,
    State.fetchWord_wf]

theorem State.issue_goesOn (s : State) (hw : φ → s.mem.wf = true) : GoesOn φ (s.issue exec) := by
  unfold State.issue
  grind -ring -linarith [goesOn_next, State.issueNext_goesOn, State.trap_goesOn, State.landSlotStores_wf, State.modThr_wf,
    State.acquire_wf, State.landDue_wf]

theorem State.runSlot_goesOn (s : State) (c i : Nat) (hw : φ → s.mem.wf = true) : GoesOn φ (s.runSlot exec c i) := by
  unfold State.runSlot
  split
  · exact State.issue_goesOn _ (fun hp => s.switchTo_wf c i (hw hp) ‹_›)
  · exact goesOn_next hw

theorem State.cycle_goesOn (s : State) (c : Nat) (hw : φ → s.mem.wf = true) : GoesOn φ (s.cycle exec c) := by
  have he (hp : φ) : (s.cycleEnd c).mem.wf = true := s.cycleEnd_wf c (hw hp)
  unfold State.cycle
  split
  · exact State.runSlot_goesOn _ _ _ he
  · exact goesOn_next he

theorem State.cycleSplit_goesOn (s : State) (c : Nat) (late : List Nat) (hw : φ → s.mem.wf = true) :
    GoesOn φ (s.cycleSplit exec c late) := by
  obtain ⟨t, ht, hm⟩ := ({ s with keep := late }).cycle_goesOn c hw
  unfold State.cycleSplit
  rw [ht]
  exact goesOn_next hm

theorem State.turn_goesOn (s : State) (x : Turn) (hw : φ → s.mem.wf = true) : GoesOn φ (s.turn exec x) := by
  unfold State.turn
  split
  · exact s.cycle_goesOn _ hw
  · exact s.cycleSplit_goesOn _ _ hw
  · exact goesOn_ite (exec_goesOn _ _ hw) (goesOn_next hw)
  · exact goesOn_next (fun hp => s.input_wf _ (hw hp))

theorem State.unscheduled_goesOn (s : State) (hw : φ → s.mem.wf = true) : GoesOn φ (s.unscheduled exec) := by
  have he (hp : φ) : (s.engineTurn exec).mem.wf = true := s.engineTurn_wf exec (fun i _ _ => exec_wf i) (hw hp)
  unfold State.unscheduled
  split
  · refine State.cycle_goesOn _ _ (fun hp => ?_)
    split
    · exact he hp
    · exact hw hp
  · dsimp only
    split
    · exact goesOn_next (fun hp => State.cycleEnd_wf _ _ (he hp))
    · exact goesOn_next he

theorem endStep_goesOn (cycle : Bool) {o : Out} (h : GoesOn φ o) : GoesOn φ (State.endStep cycle o) := by
  obtain ⟨t, rfl, hw⟩ := h
  exact goesOn_next (fun hp => t.noteLost_wf cycle (hw hp))

/-- A step goes on, unless the clocks have stopped (R381). -/
theorem State.advance_goesOn (s : State) (hw : φ → s.mem.wf = true) :
    s.advance exec = .fault .clocksStopped ∨ GoesOn φ (s.advance exec) := by
  unfold State.advance
  split <;> split
  · exact .inl rfl
  · exact .inr (endStep_goesOn _ (State.turn_goesOn _ _ hw))
  · exact .inl rfl
  · exact .inr (endStep_goesOn _ (s.unscheduled_goesOn hw))

end Sys2Proof.Machine

namespace Sys2Proof.Claims
open Sys2Proof Sys2Proof.Machine

/-- Settles O56: each instruction ends in one of the operations, each of which answers a next state. -/
theorem execGoesOn : Obligations.ExecGoesOn := by
  intro i s
  obtain ⟨t, ht, -⟩ := exec_goesOn (φ := False) i s False.elim
  exact ⟨t, ht⟩

/-- Settles O58: memory changes by the operations of its layer alone, and each of them keeps the form. -/
theorem stepKeepsMemory : Obligations.StepKeepsMemory := by
  intro s t hw he
  rcases s.advance_goesOn (φ := True) (fun _ => hw) with hf | hg
  · exact nomatch hf.symm.trans he
  · exact hg.wf he

end Sys2Proof.Claims
end
